-- ==== Sys2Proof/Word.lean ====
section
/-!
DEFINITION. The words of the machine: bytes, 32-bit instruction words (R6), 64-bit general registers and 512-bit
vector registers (R137).
-/
namespace Sys2Proof

/-- A byte of memory. -/
abbrev Byte := BitVec 8

/-- The contents of a general register. -/
abbrev Word := BitVec 64

/-- The contents of a vector register. -/
abbrev VWord := BitVec 512

end Sys2Proof
end

