-- ==== Sys2Proof/Syntax.lean ====
section
/-!
DEFINITION. The instruction set as syntax: one constructor per row of spec/opcode_table.json, in the table's
order but for the rows without operands, which stand last. The 62 rows that no word encodes are events of the device and its surroundings (spec/95); their operands
carry what the device's surroundings decide (which rails failed, which bytes the host wrote). The 206 rows that are
words carry the fields of their word, each at the width of its field (R303, R312 to R314).
-/
namespace Sys2Proof

/-- What error correction reports of one line or transfer (R59, R261). -/
inductive Ecc where
  | clean
  | corrected
  | uncorrectable
  deriving DecidableEq, Repr

/-- The core of another module whose access a packet brings, with the address space and the mode of its thread (R151, R187). -/
structure Asker where
  core : Nat
  asid : BitVec 8
  sv : Bool
  deriving DecidableEq, Repr

/-- What an access of another module does at its home (R30): the operations of Machine/State.lean's MemOp, without what only
its thread's registers show. -/
inductive CargoOp where
  /-- A load, LDO, WAITA or BRGET of `len` bytes: nothing changes here. -/
  | load (len : Nat)
  | store (bytes : List (BitVec 8))
  | stf (word : BitVec 64)
  | stp (word : BitVec 64)
  | ldc
  | empty
  | atomic (len code : Nat) (operand expected : BitVec 64)
  | afaddv (double : Bool) (operand : BitVec 512) (mode : BitVec 3) (enables : BitVec 6)
  | bankSet (fmt : BitVec 4) (value : BitVec 64)
  | bankAdd (fmt : BitVec 4) (value : BitVec 64)
  deriving DecidableEq, Repr

/-- A packet that is no request of this module: the access of another module to a place (numbered as Machine/Store.lean does),
or another packet with so many bytes of payload. -/
inductive Cargo where
  | ask (a : Asker) (loc : Nat) (op : CargoOp)
  | other (payload : Nat)
  deriving DecidableEq, Repr

/-- The packet to which a received flit belongs (R21, R24). -/
inductive FlitOf where
  /-- The oldest packet of a request of this module that travels next over the link. -/
  | request
  /-- The oldest packet of another module that this module's I/O die has re-formed and that travels next over the link. -/
  | passing
  /-- A packet that begins with this flit. -/
  | first (c : Cargo)
  /-- The packet that has begun. -/
  | next
  deriving DecidableEq, Repr

/-- What the request for an outbound move says beside frame and slot (R69): the format attribute of the page's entry, and the
core whose mailbox takes the completion. -/
structure PageRequest where
  attr : BitVec 9
  core : Nat
  deriving DecidableEq, Repr

/-- The rows of spec/opcode_table.json. -/
inductive Instr where
  /-- R35: A write of 0x5A to RSTCTL[7:0] resets the module, leaves memory as R468 states, and reruns bring-up. -/
  | rstctlReset (who : Nat) (value : BitVec 8)
  /-- R16: A die sensor reaching 95 °C starts gang-wide issue-skip throttling. -/
  | thermalThrottle (die : Nat) (skip : BitVec 3)
  /-- R20: A received flit is accepted, rebuilt from the XOR rail, or refused, by how many of its rail parts fail CRC; the
  last operand says to which packet it belongs. -/
  | flitReceive (link : Nat) (seq : BitVec 12) (bad : BitVec 5) (packet : FlitOf)
  /-- R26: An acknowledgement frees the flit from the replay buffer and clears its count of successive replays. -/
  | flitAcknowledge (link : Nat) (seq : BitVec 12)
  /-- R23: The sender replays from the flit after the last one acknowledged and counts the replay. -/
  | flitReplay (link flits : Nat)
  /-- R25: A link retrains, mapping failing lanes onto spares or marking a rail bad so that it runs up-degraded. -/
  | linkRetrain (link : Nat) (trained : Bool) (lanes : List Nat)
  /-- R28: A request whose packet cannot be delivered on any path within 1 ms completes at its thread as an uncorrectable error. -/
  | requestTimeout (core slot : Nat)
  /-- R34: A host write to a control-window register with no row of its own records the requester at first write and updates the fields by their access kinds. -/
  | controlWindowWrite (who off : Nat) (bytes : List (BitVec 8))
  /-- R37: A host load or store through the HBM aperture is performed at scope .ho in MHL order. -/
  | hostApertureAccess (addr len : Nat) (store : Option (List (BitVec 8)))
  /-- R39: A host write to the sluice window is screened and its well-formed parts enter the worklist's intake queue or are dropped and counted. -/
  | sluiceWrite (off : Nat) (bytes : List (BitVec 8))
  /-- R40: An intake queue passes its oldest item to the saltern as an ordinary push. -/
  | intakeQueueDrain (wl : Nat)
  /-- R59: A completed 64-byte HBM read transfer is delivered, corrected, retried or poisoned by lane parity and array ECC. -/
  | hbmTransferRead (addr : Nat) (attempts : List (List Nat)) (ecc : Ecc) (job : Option Nat)
  /-- R61: Every 2^20 transfers a channel clears all its lane failure counts. -/
  | transferCountWrap (stack channel : Nat)
  /-- R61: At the next refresh interval a lane whose count reached 3 is mapped to a spare, or logged as having no spare. -/
  | laneRemap (stack channel : Nat)
  /-- R67: A CXL device that does not respond within 1 ms completes the access as an uncorrectable error. -/
  | cxlDeviceTimeout (core slot : Nat)
  /-- R69: The pump moves a frame to its CXL slot, writing stored sectors and metadata, and returns the frame. -/
  | outboundMove (io frame slot : Nat) (request : PageRequest)
  /-- R70: A landed inbound page is checked, installed by compare-and-swap, its waiters woken and its arrival items pushed. -/
  | inboundMoveComplete (io move : Nat) (crcBad : BitVec 32)
  /-- R73: A new tail in the free-frame ring lets the pump take frames, skipping misaligned entries and resolving overruns. -/
  | frameRingRefill (io : Nat)
  /-- R241: On CXL memory without back-invalidate the I/O die re-reads a waited word every 1,024 cycles. -/
  | waitaReread (core slot : Nat)
  /-- R91: A parked push is retried when an entry or run slot of the module frees. -/
  | parkedPushRetry (core slot : Nat)
  /-- R91: A parked push not linearised within 2^(TOUT+10) cycles raises a worklist-full fault and withdraws its count. -/
  | pushTimeout (core slot : Nat)
  /-- R94: The forwarding engine sends a target's shadow queue as one fabric write at 64 items, after 512 cycles, or on a flush. -/
  | proxyForward (io mod wl : Nat)
  /-- R94: At the target module, proxied items are checked for liveness, counted and pushed in queue order, or discarded. -/
  | proxyDelivery (io wl : Nat) (item : BitVec 256)
  /-- R99: A write to WLCFG changes BOUND, REPRO and HOME only when the worklist is disabled, empty and unparked. -/
  | wlcfgWrite (wl : Nat) (value : BitVec 64)
  /-- R100: A write to WLSPILL takes effect only when no run of the worklist is in use. -/
  | wlspillWrite (wl : Nat) (value : BitVec 64)
  /-- R172: A write to CLMAP changes a cluster's spare only when the cluster is empty, and moves core state as R173 requires. -/
  | clmapWrite (die : Nat) (value : BitVec 64)
  /-- R113: Arming a slot reservation stops other placements on its dies until the spanning gang is placed. -/
  | slotresWrite (n : Nat) (value : BitVec 64)
  /-- R446: A SYSW to a register with no row of its own updates it field by field under its field map. -/
  | systemRegisterWrite (core slot : Nat) (reg : BitVec 6) (index : BitVec 64) (value : BitVec 64)
  /-- R107: A die's rake pops a launch item, checks it and its template, and places the gang or pushes the item back. -/
  | rakePop (die : Nat)
  /-- R108: An item passed over the bridges reaches the hinted die's rake and is placed there as if popped. -/
  | rakeHandoff (die : Nat)
  /-- R112: 256 cycles after a push-back the rake may pop that worklist again. -/
  | rakeBackoffExpiry (die wl : Nat)
  /-- R111: The streamer's copy of a gang's code image completes and the gang's threads start in their initial state. -/
  | imageLoadComplete (gang : Nat)
  /-- R122: A module receiving a job's flush request forwards its shadows and replies once no push of the job is in flight. -/
  | jobFlushRequest (mod job : Nat)
  /-- R122: A flush reply charges the job for lost items and lets retirement continue once every reply is in. -/
  | jobFlushReply (mod job lost : Nat)
  /-- R151: A remote access arriving at a core's local memory is admitted by a window or refused with a negative acknowledgement. -/
  | remoteAccess (core slot : Nat)
  /-- R135: The response to an access that left the core completes it at the thread and wakes the thread. -/
  | accessCompletion (core slot : Nat)
  /-- R169: A page walk finishes, sets A or D by compare-and-swap, caches the translation and wakes the thread, or faults. -/
  | walkComplete (core slot : Nat)
  /-- R145: After its back-off a refused SEND makes its next delivery attempt, trapping after attempt 64. -/
  | sendRetryAttempt (core slot : Nat)
  /-- R418: A copy or pump command completes with a fill of its register or a mailbox message as a release. -/
  | copyComplete (n : Nat)
  /-- R152: A core whose resident threads have all been parked for 2^DELAY cycles enters its sleep depth. -/
  | coreSleep (core : Nat)
  /-- R261: Every 2^RATE cycles the harrow reads a line, rewrites correctable lines and poisons uncorrectable ones. -/
  | harrowScrub (loc : Nat) (finding : Ecc)
  /-- R400: A queued product completes in the matrix unit and its residue check passes or delivers a detected error to its thread. -/
  | matrixProductComplete (core : Nat) (residueFails : Bool)
  /-- R402: The rotation buffer writes an A block to the west neighbour and B columns to the north neighbour once their targets are empty. -/
  | rotationDelivery (core : Nat)
  /-- R323: Adds two g registers. -/
  | add (d a b : BitVec 5)
  /-- R323: Subtracts two g registers. -/
  | sub (d a b : BitVec 5)
  /-- R323: Bitwise AND. -/
  | and (d a b : BitVec 5)
  /-- R323: Bitwise OR. -/
  | or (d a b : BitVec 5)
  /-- R323: Bitwise XOR. -/
  | xor (d a b : BitVec 5)
  /-- R323: AND with the complement of b. -/
  | andn (d a b : BitVec 5)
  /-- R323: OR with the complement of b. -/
  | orn (d a b : BitVec 5)
  /-- R323: Shift left by b[5:0]. -/
  | shl (d a b : BitVec 5)
  /-- R323: Logical shift right by b[5:0]. -/
  | shr (d a b : BitVec 5)
  /-- R323: Arithmetic shift right by b[5:0]. -/
  | sra (d a b : BitVec 5)
  /-- R323: Rotate left by b[5:0]. -/
  | rol (d a b : BitVec 5)
  /-- R323: Set if less, signed. -/
  | slt (d a b : BitVec 5)
  /-- R323: Set if less, unsigned. -/
  | sltu (d a b : BitVec 5)
  /-- R323: Set if equal. -/
  | seq (d a b : BitVec 5)
  /-- R323: Signed minimum. -/
  | min (d a b : BitVec 5)
  /-- R323: Signed maximum. -/
  | max (d a b : BitVec 5)
  /-- R323: Unsigned minimum. -/
  | minz (d a b : BitVec 5)
  /-- R323: Unsigned maximum. -/
  | maxz (d a b : BitVec 5)
  /-- R323: Counts leading zero bits. -/
  | clz (d a : BitVec 5)
  /-- R323: Counts trailing zero bits. -/
  | ctz (d a : BitVec 5)
  /-- R323: Counts one bits. -/
  | popc (d a : BitVec 5)
  /-- R323: Sign-extends the low 8, 16 or 32 bits. -/
  | sext (d a : BitVec 5) (w : BitVec 2)
  /-- R323: Zero-extends the low 8, 16 or 32 bits. -/
  | zext (d a : BitVec 5) (w : BitVec 2)
  /-- R325: Low 64 bits of the product. -/
  | mul (d a b : BitVec 5)
  /-- R325: Signed division with clamping, parking until done. -/
  | div (d a b : BitVec 5)
  /-- R325: Unsigned division. -/
  | divz (d a b : BitVec 5)
  /-- R325: Signed remainder. -/
  | rem (d a b : BitVec 5)
  /-- R325: Unsigned remainder. -/
  | remz (d a b : BitVec 5)
  /-- R325: High half of the signed product. -/
  | mulh (d a b : BitVec 5)
  /-- R325: High half of the unsigned product. -/
  | mulhz (d a b : BitVec 5)
  /-- R325: High half of the signed-by-unsigned product. -/
  | mulhsz (d a b : BitVec 5)
  /-- R326: Adds a sign-extended immediate. -/
  | addi (d a : BitVec 5) (i : BitVec 16)
  /-- R326: Signed compare with an immediate. -/
  | slti (d a : BitVec 5) (i : BitVec 16)
  /-- R326: Unsigned compare with a sign-extended immediate. -/
  | sltiu (d a : BitVec 5) (i : BitVec 16)
  /-- R326: AND with a zero-extended immediate. -/
  | andi (d a : BitVec 5) (i : BitVec 16)
  /-- R326: OR with a zero-extended immediate. -/
  | ori (d a : BitVec 5) (i : BitVec 16)
  /-- R326: XOR with a zero-extended immediate. -/
  | xori (d a : BitVec 5) (i : BitVec 16)
  /-- R327: Shift left by an immediate amount. -/
  | shli (d a : BitVec 5) (n : BitVec 6)
  /-- R327: Logical shift right by an immediate amount. -/
  | shri (d a : BitVec 5) (n : BitVec 6)
  /-- R327: Arithmetic shift right by an immediate amount. -/
  | srai (d a : BitVec 5) (n : BitVec 6)
  /-- R327: Rotate left by an immediate amount. -/
  | roli (d a : BitVec 5) (n : BitVec 6)
  /-- R328: Places the immediate in bits [63:24]. -/
  | ldhi (d : BitVec 5) (i : BitVec 16)
  /-- R329: Adds a signed byte offset to the instruction's own offset. -/
  | addpc (d : BitVec 5) (i : BitVec 16)
  /-- R330: Branch if equal. -/
  | beq (a b : BitVec 5) (o : BitVec 16)
  /-- R330: Branch if not equal. -/
  | bne (a b : BitVec 5) (o : BitVec 16)
  /-- R330: Branch if less, signed. -/
  | blt (a b : BitVec 5) (o : BitVec 16)
  /-- R330: Branch if greater or equal, signed. -/
  | bge (a b : BitVec 5) (o : BitVec 16)
  /-- R330: Branch if less, unsigned. -/
  | bltu (a b : BitVec 5) (o : BitVec 16)
  /-- R330: Branch if greater or equal, unsigned. -/
  | bgeu (a b : BitVec 5) (o : BitVec 16)
  /-- R331: PC-relative jump. -/
  | j (o : BitVec 26)
  /-- R331: PC-relative jump linking g31. -/
  | jal (o : BitVec 26)
  /-- R332: Jump to a register value. -/
  | jr (a : BitVec 5)
  /-- R332: Jump to a register value with link. -/
  | jalr (d a : BitVec 5)
  /-- R345: Loads a sign-extended byte. -/
  | ldb (d b : BitVec 5) (o : BitVec 12)
  /-- R345: Loads a sign-extended half-word. -/
  | ldh (d b : BitVec 5) (o : BitVec 12)
  /-- R345: Loads a sign-extended word. -/
  | ldw (d b : BitVec 5) (o : BitVec 12)
  /-- R345: Loads a double word. -/
  | ldd (d b : BitVec 5) (o : BitVec 12)
  /-- R345: Loads a zero-extended byte. -/
  | ldbz (d b : BitVec 5) (o : BitVec 12)
  /-- R345: Loads a zero-extended half-word. -/
  | ldhz (d b : BitVec 5) (o : BitVec 12)
  /-- R345: Loads a zero-extended word. -/
  | ldwz (d b : BitVec 5) (o : BitVec 12)
  /-- R345: Stores a byte. -/
  | stb (s b : BitVec 5) (o : BitVec 12)
  /-- R345: Stores a half-word. -/
  | sth (s b : BitVec 5) (o : BitVec 12)
  /-- R345: Stores a word. -/
  | stw (s b : BitVec 5) (o : BitVec 12)
  /-- R345: Stores a double word. -/
  | std (s b : BitVec 5) (o : BitVec 12)
  /-- R346: Loads with acquire at a scope. -/
  | lda (d b : BitVec 5) (c : BitVec 4) (o : BitVec 8)
  /-- R235: Consumes a full word, emptying it, or parks. -/
  | ldc (d b : BitVec 5) (c : BitVec 4) (o : BitVec 8)
  /-- R235: Reads a full word leaving it full, or parks. -/
  | ldo (d b : BitVec 5) (c : BitVec 4) (o : BitVec 8)
  /-- R346: Stores with release at a scope. -/
  | stl (s b : BitVec 5) (c : BitVec 4) (o : BitVec 8)
  /-- R235: Writes an empty word and fills it, or parks. -/
  | stp (s b : BitVec 5) (c : BitVec 4) (o : BitVec 8)
  /-- R235: Writes a word and sets it full. -/
  | stf (s b : BitVec 5) (c : BitVec 4) (o : BitVec 8)
  /-- R235: Sets a word empty. -/
  | empty (b : BitVec 5) (o : BitVec 8)
  /-- R353: Atomic add. -/
  | aadd (d a b : BitVec 5) (c : BitVec 4) (z : BitVec 2)
  /-- R353: Atomic AND. -/
  | aand (d a b : BitVec 5) (c : BitVec 4) (z : BitVec 2)
  /-- R353: Atomic OR. -/
  | aor (d a b : BitVec 5) (c : BitVec 4) (z : BitVec 2)
  /-- R353: Atomic XOR. -/
  | axor (d a b : BitVec 5) (c : BitVec 4) (z : BitVec 2)
  /-- R353: Atomic signed minimum. -/
  | amin (d a b : BitVec 5) (c : BitVec 4) (z : BitVec 2)
  /-- R353: Atomic signed maximum. -/
  | amax (d a b : BitVec 5) (c : BitVec 4) (z : BitVec 2)
  /-- R353: Atomic unsigned minimum. -/
  | aminz (d a b : BitVec 5) (c : BitVec 4) (z : BitVec 2)
  /-- R353: Atomic unsigned maximum. -/
  | amaxz (d a b : BitVec 5) (c : BitVec 4) (z : BitVec 2)
  /-- R353: Atomic swap. -/
  | aswap (d a b : BitVec 5) (c : BitVec 4) (z : BitVec 2)
  /-- R354: Atomic compare-and-swap against the HMOD2 register. -/
  | acas (d a b : BitVec 5) (c : BitVec 4) (z : BitVec 2)
  /-- R355: Adds vector lanes into a 64-byte line indivisibly. -/
  | afaddv (a b : BitVec 5) (c : BitVec 4) (z : BitVec 2)
  /-- R358: Sets a bank reduction slot to a value. -/
  | brset (a b : BitVec 5) (f : BitVec 4)
  /-- R358: Adds a contribution exactly to a slot. -/
  | bradd (a b : BitVec 5) (f : BitVec 4)
  /-- R358: Reads a slot rounded once. -/
  | brget (d a : BitVec 5) (f : BitVec 4)
  /-- R349: Release and acquire at a scope. -/
  | fence (c : BitVec 4)
  /-- R351: Waits until a word differs from an expected value. -/
  | waita (d a b : BitVec 5) (c : BitVec 4)
  /-- R371: Scalar float add. -/
  | fadd (d a b : BitVec 5) (r : BitVec 3) (p : BitVec 1)
  /-- R371: Scalar float subtract. -/
  | fsub (d a b : BitVec 5) (r : BitVec 3) (p : BitVec 1)
  /-- R371: Scalar float multiply. -/
  | fmul (d a b : BitVec 5) (r : BitVec 3) (p : BitVec 1)
  /-- R371: Scalar float divide, parking until done. -/
  | fdiv (d a b : BitVec 5) (r : BitVec 3) (p : BitVec 1)
  /-- R371: Scalar float square root. -/
  | fsqrt (d a : BitVec 5) (r : BitVec 3) (p : BitVec 1)
  /-- R372: Float minimum. -/
  | fmin (d a b : BitVec 5) (p : BitVec 1)
  /-- R372: Float maximum. -/
  | fmax (d a b : BitVec 5) (p : BitVec 1)
  /-- R372: Float equality compare. -/
  | feq (d a b : BitVec 5) (p : BitVec 1)
  /-- R372: Float less-than compare. -/
  | flt (d a b : BitVec 5) (p : BitVec 1)
  /-- R372: Float less-or-equal compare. -/
  | fle (d a b : BitVec 5) (p : BitVec 1)
  /-- R372: Classifies a float value. -/
  | fclass (d a : BitVec 5) (p : BitVec 1)
  /-- R372: Replaces the sign bit of a with that of b. -/
  | fsgn (d a b : BitVec 5) (p : BitVec 1)
  /-- R373: Converts between f32 and f64. -/
  | fcvt (d a : BitVec 5) (r : BitVec 3) (p : BitVec 1)
  /-- R373: Converts float to i64. -/
  | fcvti (d a : BitVec 5) (r : BitVec 3) (p : BitVec 1)
  /-- R373: Converts i64 to float. -/
  | icvtf (d a : BitVec 5) (r : BitVec 3) (p : BitVec 1)
  /-- R374: Fused multiply-add. -/
  | fma (d a b c : BitVec 5) (r : BitVec 3) (p : BitVec 1)
  /-- R374: Fused multiply-subtract. -/
  | fms (d a b c : BitVec 5) (r : BitVec 3) (p : BitVec 1)
  /-- R374: Fused negated multiply-add. -/
  | fnma (d a b c : BitVec 5) (r : BitVec 3) (p : BitVec 1)
  /-- R361: Vector load decoding by the attribute. -/
  | vld (d b : BitVec 5) (m : BitVec 2) (o : BitVec 12)
  /-- R362: Masked vector store of bytes. -/
  | vst (s b : BitVec 5) (m : BitVec 2) (o : BitVec 12)
  /-- R364: Strided vector load. -/
  | vlds (d a b : BitVec 5) (w m : BitVec 2)
  /-- R364: Strided vector store. -/
  | vsts (d a b : BitVec 5) (w m : BitVec 2)
  /-- R364: Vector gather. -/
  | vgath (d a b : BitVec 5) (w m : BitVec 2)
  /-- R364: Vector scatter. -/
  | vscat (d a b : BitVec 5) (w m : BitVec 2)
  /-- R375: Lane add, saturating under HMOD SAT. -/
  | vadd (d a b : BitVec 4) (m w : BitVec 2)
  /-- R375: Lane subtract, saturating under HMOD SAT. -/
  | vsub (d a b : BitVec 4) (m w : BitVec 2)
  /-- R375: Low half of lane products. -/
  | vmul (d a b : BitVec 4) (m w : BitVec 2)
  /-- R375: High half of signed lane products. -/
  | vmulh (d a b : BitVec 4) (m w : BitVec 2)
  /-- R375: Signed lane minimum. -/
  | vmin (d a b : BitVec 4) (m w : BitVec 2)
  /-- R375: Signed lane maximum. -/
  | vmax (d a b : BitVec 4) (m w : BitVec 2)
  /-- R375: Lane AND. -/
  | vand (d a b : BitVec 4) (m w : BitVec 2)
  /-- R375: Lane OR. -/
  | vor (d a b : BitVec 4) (m w : BitVec 2)
  /-- R375: Lane XOR. -/
  | vxor (d a b : BitVec 4) (m w : BitVec 2)
  /-- R375: Lane shift left. -/
  | vshl (d a b : BitVec 4) (m w : BitVec 2)
  /-- R375: Lane logical shift right. -/
  | vshr (d a b : BitVec 4) (m w : BitVec 2)
  /-- R375: Lane arithmetic shift right. -/
  | vsra (d a b : BitVec 4) (m w : BitVec 2)
  /-- R375: Lane absolute value. -/
  | vabs (d a : BitVec 4) (m w : BitVec 2)
  /-- R377: Integer lane compare into a mask. -/
  | vcmp (d a b : BitVec 4) (m w : BitVec 2) (c : BitVec 3)
  /-- R378: Lane float add. -/
  | vfadd (d a b : BitVec 4) (m f : BitVec 2)
  /-- R378: Lane float subtract. -/
  | vfsub (d a b : BitVec 4) (m f : BitVec 2)
  /-- R378: Lane float multiply. -/
  | vfmul (d a b : BitVec 4) (m f : BitVec 2)
  /-- R378: Lane float divide, parking until done. -/
  | vfdiv (d a b : BitVec 4) (m f : BitVec 2)
  /-- R378: Lane float minimum. -/
  | vfmin (d a b : BitVec 4) (m f : BitVec 2)
  /-- R378: Lane float maximum. -/
  | vfmax (d a b : BitVec 4) (m f : BitVec 2)
  /-- R380: Lane power of two. -/
  | vfexp2 (d a : BitVec 4) (m f : BitVec 2)
  /-- R379: Lane reciprocal estimate. -/
  | vfrcp (d a : BitVec 4) (m f : BitVec 2)
  /-- R379: Lane reciprocal square-root estimate. -/
  | vfrsq (d a : BitVec 4) (m f : BitVec 2)
  /-- R381: Float lane compare into a mask. -/
  | vfcmp (d a b : BitVec 4) (m f c : BitVec 2)
  /-- R382: Lane fused multiply-add. -/
  | vfma (d a b c : BitVec 4) (m f : BitVec 2)
  /-- R384: Selects lanes by a mask. -/
  | vsel (d a b : BitVec 5) (w m : BitVec 2)
  /-- R384: Permutes lanes by indices. -/
  | vperm (d a b : BitVec 5) (w m : BitVec 2)
  /-- R384: Broadcasts a g register into lanes. -/
  | vbcst (d a : BitVec 5) (w m : BitVec 2)
  /-- R384: Inserts a g value into one lane. -/
  | vins (d a b : BitVec 5) (w : BitVec 2)
  /-- R385: Extracts one lane to a g register. -/
  | vext (d a b : BitVec 5) (w : BitVec 2)
  /-- R386: Integer reduction of active lanes. -/
  | vredi (d a : BitVec 5) (o : BitVec 3) (w m : BitVec 2)
  /-- R387: Exact float sum of active lanes rounded once. -/
  | vredf (d a : BitVec 5) (r : BitVec 3) (f m : BitVec 2)
  /-- R389: Converts lanes between formats. -/
  | vcvt (d a : BitVec 5) (s t : BitVec 4) (x : BitVec 1) (m : BitVec 2) (r : BitVec 3)
  /-- R391: Mask AND. -/
  | mand (d a b : BitVec 5)
  /-- R391: Mask OR. -/
  | mor (d a b : BitVec 5)
  /-- R391: Mask complement. -/
  | mnot (d a : BitVec 5)
  /-- R391: Counts mask bits into a g register. -/
  | mpopc (d a : BitVec 5)
  /-- R399: Queues a matrix product into an accumulator. -/
  | mma (d : BitVec 3) (a b : BitVec 5) (c : BitVec 1)
  /-- R402: Matrix product that then rotates its operands within a torus group. -/
  | mmrt (d : BitVec 3) (a b : BitVec 5) (g : BitVec 2)
  /-- R399: Queues a squared-distance product. -/
  | mdist (d : BitVec 3) (a b : BitVec 5)
  /-- R409: Loads a codebook register. -/
  | mcbk (n : BitVec 3) (a : BitVec 5)
  /-- R410: Loads a B block into the B store. -/
  | mldb (a b : BitVec 5)
  /-- R406: Stores an accumulator converted to a format. -/
  | mst (d : BitVec 3) (a b : BitVec 5) (f : BitVec 4) (r : BitVec 3) (x : BitVec 1)
  /-- R407: Loads an accumulator. -/
  | mld (d : BitVec 3) (a b : BitVec 5) (f : BitVec 4)
  /-- R407: Zeroes an accumulator. -/
  | mzero (d : BitVec 3)
  /-- R408: Reads and optionally clears accumulator flags. -/
  | mflg (d : BitVec 3) (g : BitVec 5) (c : BitVec 1)
  /-- R412: Merges accumulator rows into top-k selection states. -/
  | mtopk (d : BitVec 3) (a b : BitVec 5) (e : BitVec 1)
  /-- R416: Sends a shaped copy to a streamer. -/
  | cpy (d a b : BitVec 5) (s : BitVec 4) (c : BitVec 2)
  /-- R416: Sends a ragged copy to a streamer. -/
  | cpyr (d a b : BitVec 5) (s : BitVec 4) (c : BitVec 2)
  /-- R419: Starts or joins an inbound page move with an optional arrival item. -/
  | pump (d a b : BitVec 5) (s : BitVec 4) (x : BitVec 1) (c : BitVec 2)
  /-- R180: Allocates a counted tile or parks as a waiter. -/
  | talloc (d a : BitVec 5)
  /-- R184: Seals a tile as a release and wakes consumers. -/
  | tseal (a : BitVec 5) (s : BitVec 4)
  /-- R436: Consumes a tile and copies it to local memory. -/
  | tget (a b : BitVec 5)
  /-- R185: Consumes a tile without reading. -/
  | tdrop (a : BitVec 5)
  /-- R188: Lowers a tile's count by n. -/
  | tabandon (a b : BitVec 5)
  /-- R189: Frees a persistent or unsealed tile. -/
  | tfree (a : BitVec 5)
  /-- R190: Returns a tile status word. -/
  | tinfo (d a : BitVec 5)
  /-- R424: Pushes an item to a worklist. -/
  | wpush (d a b : BitVec 5)
  /-- R425: Pops an item, parking while empty. -/
  | wpop (d a : BitVec 5)
  /-- R425: Pops an item or returns empty at once. -/
  | wtry (d a : BitVec 5)
  /-- R426: Reads a worklist's WLSTAT. -/
  | wstat (d a : BitVec 5)
  /-- R424: Pushes a class-1 launch item. -/
  | launch (d a b : BitVec 5)
  /-- R430: Opens a job from a descriptor. -/
  | jopen (d a : BitVec 5)
  /-- R431: Drops the opening reference and waits for DONE. -/
  | jwait (d a : BitVec 5)
  /-- R432: Makes one job the successor of another. -/
  | jsucc (d a b : BitVec 5)
  /-- R433: Releases held successor items. -/
  | jsuccRel (d : BitVec 5)
  /-- R433: Discards held successor items. -/
  | jsuccDis (d : BitVec 5)
  /-- R438: Sends a message to a core's mailbox. -/
  | send (a b : BitVec 5)
  /-- R438: Sends a message into a thread's register. -/
  | sendR (a b : BitVec 5)
  /-- R439: Removes the oldest mailbox message. -/
  | recvm (d a : BitVec 5)
  /-- R440: Configures the thread's port state. -/
  | portcfg (a : BitVec 5)
  /-- R441: Sets a g register empty. -/
  | rempty (d : BitVec 5)
  /-- R441: Sets a v register empty. -/
  | remptyV (d : BitVec 5)
  /-- R271: Opens a recovery region with a target and retry limit. -/
  | rbegin (l : BitVec 4) (i : BitVec 16)
  /-- R272: Adds a preserved memory range. -/
  | rpres (b : BitVec 5) (n : BitVec 10)
  /-- R273: Preserves an accumulator. -/
  | rpresA (d : BitVec 3)
  /-- R446: Reads a system register. -/
  | sysr (d x : BitVec 5) (n : BitVec 6)
  /-- R446: Writes a system register. -/
  | sysw (a x : BitVec 5) (n : BitVec 6)
  /-- R448: Sets the rounding mode. -/
  | setrnd (m : BitVec 3)
  /-- R449: Raises the software trap. -/
  | trap (i : BitVec 15)
  /-- R450: Sets the thread's requested sleep depth. -/
  | sleep (n : BitVec 2)
  /-- R451: Swaps or kills a thread context. -/
  | tcswap (a b : BitVec 5) (k : BitVec 1)
  /-- R452: Invalidates cached translations at a scope. -/
  | tlbinv (a b : BitVec 5) (s : BitVec 4) (f : BitVec 2)
  /-- R449: Halts under debug or raises the breakpoint trap. -/
  | brk (i : BitVec 15)
  /-- R334: Hint prepending 24 bits to the next immediate or offset. -/
  | himm (d : BitVec 24)
  /-- R307: Hint modifying saturation, placement, scope or rounding. -/
  | hmod (d : BitVec 24)
  /-- R308: Hint naming the expected-value register of ACAS. -/
  | hmod2 (d : BitVec 24)
  /-- R316: Issue of a word that is assigned as no instruction (major 0x00, 0x30-0x3E, hint kind 11, unassigned codes) raises the illegal-instruction trap at issue. -/
  | illegalInstructionWord (w : BitVec 32)
  /-- R135: The divider writes the result of DIV, DIVZ, REM, REMZ, FDIV, FSQRT or VFDIV within 40 cycles and wakes the parked thread. -/
  | divideResultWritten (core slot : Nat)
  /-- R413: An MTOPK's computation ends after 32 times ceil(K/32) cycles per row, its states are written or its trap taken, and the thread wakes. -/
  | selectionMergeComplete (core slot : Nat)
  /-- R241: A host write to a line of back-invalidate CXL shared memory triggers the home's re-read of a word on which a WAITA at .sy is parked. -/
  | hostWriteBackInvalidate (addr : Nat) (bytes : List (BitVec 8))
  /-- R48: Power-good starts the management core's boot ROM, which verifies firmware, trains HBM and links, tests cores, loads images, builds the attestation tree and sets STATE. -/
  | powerGood
  /-- R48: After MHL has failed to train, the management core retries its training once every second. -/
  | mhlTrainRetry
  /-- R16: A sensor reaching 115 °C asserts the snapshot trigger with cause 2, stops every core and removes core-rail power. -/
  | thermalShutdown
  /-- R15: Core-rail current above 15 kA starts the 2 ms allowance of the power controller. -/
  | currentExcess
  /-- R15: When the excess current has persisted past 2 ms, the controller lowers issue rate through the issue-skip factor. -/
  | powerLimitExpiry
  /-- R264: An uncorrectable error in state that belongs to no thread asserts the snapshot trigger, stops all cores and sets STATE to 4. -/
  | fatalError
  /-- R52: A mailbox request of type 1 returns the nonce, module identity, image hashes and counts under an HSS signature. -/
  | attestation
  /-- R54: A mailbox request of type 2 raises the fused minimum version. -/
  | raiseFusedMinimum
  /-- R54: A mailbox request of type 3 asserts the snapshot trigger as a debug assertion without stopping anything. -/
  | snapshotTrigger
  /-- R54: A mailbox request of type 4 arms or disarms debug on one core. -/
  | armDebug
  /-- R54: A mailbox request of type 5 resumes a thread halted by BREAK with its PC past the BREAK. -/
  | resumeHaltedThread
  /-- R464: A mailbox request of type 6 arms a residue-check failure on the NTH product of one core's matrix unit. -/
  | armErrorInjection
  /-- R54: A mailbox request of type 7 writes bytes into the staging buffer of ID0. -/
  | stageImageChunk
  /-- R54: A mailbox request of type 8 verifies the staged image and writes it to the non-volatile store. -/
  | commitStagedImage
  /-- R54: A mailbox request of type 0 or 9 and above is answered with status 2. -/
  | unknownRequest
  /-- R350: Empties the fetch buffer. -/
  | synci
  /-- R428: Gang barrier. -/
  | gbar
  /-- R429: Ends the thread after its pending work. -/
  | gexit
  /-- R439: Waits until the mailbox holds a message. -/
  | waitm
  /-- R277: Closes a region, performing publications at the outermost close. -/
  | rend
  /-- R278: Starts a rollback of the innermost region. -/
  | rfail
  /-- R249: Returns from a trap handler. -/
  | eret
  /-- R450: Gives up issue until siblings have issued or 16 cycles pass. -/
  | yield
  deriving DecidableEq, Repr

end Sys2Proof
end

