-- ==== Sys2Proof/WellFormed.lean ====
section
/-!
DEFINITION. Which instructions are well formed: the values that R304, R315 and the instruction chapters reserve in
a field are refused here, one clause per reserved value. An event is always well formed: its operands are numbers
that the event's own rule judges.
-/
namespace Sys2Proof

/-- Scope codes 0 to 8 (R221); 9 to 15 are reserved. -/
abbrev scopeOk (c : BitVec 4) : Prop := c.toNat ≤ 8

/-- Rounding fields: 6 is reserved (R205). -/
abbrev roundOk (r : BitVec 3) : Prop := r ≠ 6

/-- Formats of a bank reduction slot (R357): f32, bf16, f16, e4m3, e5m2, i64. -/
abbrev slotFmtOk (f : BitVec 4) : Prop := (2 ≤ f.toNat ∧ f.toNat ≤ 6) ∨ f = 13

/-- Target formats of MST (R405): not 0, 1, 13, 14 or 15. -/
abbrev mstFmtOk (f : BitVec 4) : Prop := 2 ≤ f.toNat ∧ f.toNat ≤ 12

/-- Scopes of TLBINV (R171): .co, .cl, .di, .mo and .po. -/
abbrev tlbScopeOk (s : BitVec 4) : Prop := s = 1 ∨ (3 ≤ s.toNat ∧ s.toNat ≤ 6)

/-- Exponent and fraction bits of the float formats 1 to 6 (R194). -/
def floatShape (f : BitVec 4) : Nat × Nat :=
  match f.toNat with
  | 1 => (11, 52) | 2 => (8, 23) | 3 => (8, 7) | 4 => (5, 10) | 5 => (4, 3) | 6 => (5, 2) | _ => (0, 0)

/-- Width in bits of the integer formats 7 to 13 (R196). -/
def intShape (f : BitVec 4) : Nat :=
  match f.toNat with
  | 7 => 8 | 8 => 8 | 9 => 16 | 10 => 16 | 11 => 32 | 12 => 32 | 13 => 64 | _ => 0

/-- R209: a float target is narrower when it has fewer exponent bits, fewer fraction bits, or both. -/
def floatNarrower (target source : BitVec 4) : Bool :=
  (floatShape target).1 < (floatShape source).1 || (floatShape target).2 < (floatShape source).2

/-- Codes 1 to 6. -/
def isFloatFmt (f : BitVec 4) : Bool := 1 ≤ f.toNat && f.toNat ≤ 6

/-- Codes 7 to 13. -/
def isIntFmt (f : BitVec 4) : Bool := 7 ≤ f.toNat && f.toNat ≤ 13

/-- R389: the allowed pairs of a VCVT with its SAT and rounding fields (from `s` to `t`). -/
def cvtOk (s t : BitVec 4) (x : BitVec 1) (r : BitVec 3) : Bool :=
  if s = 14 then t = 3 && x = 0
  else if isFloatFmt s && isFloatFmt t then r ≠ 6 && (x = 0 || floatNarrower t s)
  else if isIntFmt s && isIntFmt t then r ≠ 6 && (x = 0 || intShape t ≤ intShape s)
  else if (isFloatFmt s && isIntFmt t) || (isIntFmt s && isFloatFmt t) then r ≠ 6 && x = 0
  else false

/-- The instruction is a word of the opcode map, not an event. -/
def Instr.isWord : Instr → Bool
  | .powerGood => false
  | .rstctlReset _ _ => false
  | .mhlTrainRetry => false
  | .thermalThrottle _ _ => false
  | .thermalShutdown => false
  | .currentExcess => false
  | .powerLimitExpiry => false
  | .fatalError => false
  | .flitReceive _ _ _ _ => false
  | .flitAcknowledge _ _ => false
  | .flitReplay _ _ => false
  | .linkRetrain _ _ _ => false
  | .requestTimeout _ _ => false
  | .controlWindowWrite _ _ _ => false
  | .hostApertureAccess _ _ _ => false
  | .sluiceWrite _ _ => false
  | .intakeQueueDrain _ => false
  | .attestation => false
  | .raiseFusedMinimum => false
  | .snapshotTrigger => false
  | .armDebug => false
  | .resumeHaltedThread => false
  | .armErrorInjection => false
  | .stageImageChunk => false
  | .commitStagedImage => false
  | .unknownRequest => false
  | .hbmTransferRead _ _ _ _ => false
  | .transferCountWrap _ _ => false
  | .laneRemap _ _ => false
  | .cxlDeviceTimeout _ _ => false
  | .outboundMove _ _ _ _ => false
  | .inboundMoveComplete _ _ _ => false
  | .frameRingRefill _ => false
  | .waitaReread _ _ => false
  | .parkedPushRetry _ _ => false
  | .pushTimeout _ _ => false
  | .proxyForward _ _ _ => false
  | .proxyDelivery _ _ _ => false
  | .wlcfgWrite _ _ => false
  | .wlspillWrite _ _ => false
  | .clmapWrite _ _ => false
  | .slotresWrite _ _ => false
  | .systemRegisterWrite _ _ _ _ _ => false
  | .rakePop _ => false
  | .rakeHandoff _ => false
  | .rakeBackoffExpiry _ _ => false
  | .imageLoadComplete _ => false
  | .jobFlushRequest _ _ => false
  | .jobFlushReply _ _ _ => false
  | .remoteAccess _ _ => false
  | .accessCompletion _ _ => false
  | .walkComplete _ _ => false
  | .sendRetryAttempt _ _ => false
  | .copyComplete _ => false
  | .coreSleep _ => false
  | .harrowScrub _ _ => false
  | .matrixProductComplete _ _ => false
  | .rotationDelivery _ => false
  | .illegalInstructionWord _ => false
  | .divideResultWritten _ _ => false
  | .selectionMergeComplete _ _ => false
  | .hostWriteBackInvalidate _ _ => false
  | _ => true

/-- No field holds a reserved value. -/
def Instr.wf : Instr → Bool
  | .sext _ _ w => decide (w ≠ 3)
  | .zext _ _ w => decide (w ≠ 3)
  | .lda _ _ c _ => decide (scopeOk c)
  | .ldc _ _ c _ => decide (scopeOk c)
  | .ldo _ _ c _ => decide (scopeOk c)
  | .stl _ _ c _ => decide (scopeOk c)
  | .stp _ _ c _ => decide (scopeOk c)
  | .stf _ _ c _ => decide (scopeOk c)
  | .aadd _ _ _ c z => decide (scopeOk c ∧ 2 ≤ z.toNat)
  | .aand _ _ _ c z => decide (scopeOk c ∧ 2 ≤ z.toNat)
  | .aor _ _ _ c z => decide (scopeOk c ∧ 2 ≤ z.toNat)
  | .axor _ _ _ c z => decide (scopeOk c ∧ 2 ≤ z.toNat)
  | .amin _ _ _ c z => decide (scopeOk c ∧ 2 ≤ z.toNat)
  | .amax _ _ _ c z => decide (scopeOk c ∧ 2 ≤ z.toNat)
  | .aminz _ _ _ c z => decide (scopeOk c ∧ 2 ≤ z.toNat)
  | .amaxz _ _ _ c z => decide (scopeOk c ∧ 2 ≤ z.toNat)
  | .aswap _ _ _ c z => decide (scopeOk c ∧ 2 ≤ z.toNat)
  | .acas _ _ _ c z => decide (scopeOk c ∧ 2 ≤ z.toNat)
  | .afaddv _ b c z => decide (scopeOk c ∧ 2 ≤ z.toNat ∧ b.toNat < 16)
  | .brset _ _ f => decide (slotFmtOk f)
  | .bradd _ _ f => decide (slotFmtOk f)
  | .brget _ _ f => decide (slotFmtOk f)
  | .fence c => decide (scopeOk c)
  | .waita _ _ _ c => decide (scopeOk c)
  | .fadd _ _ _ r _ => decide (roundOk r)
  | .fsub _ _ _ r _ => decide (roundOk r)
  | .fmul _ _ _ r _ => decide (roundOk r)
  | .fdiv _ _ _ r _ => decide (roundOk r)
  | .fsqrt _ _ r _ => decide (roundOk r)
  | .fcvt _ _ r _ => decide (roundOk r)
  | .fcvti _ _ r _ => decide (roundOk r)
  | .icvtf _ _ r _ => decide (roundOk r)
  | .fma _ _ _ _ r _ => decide (roundOk r)
  | .fms _ _ _ _ r _ => decide (roundOk r)
  | .fnma _ _ _ _ r _ => decide (roundOk r)
  | .vld d _ _ _ => decide (d.toNat < 16)
  | .vst s _ _ _ => decide (s.toNat < 16)
  | .vlds d _ _ _ _ => decide (d.toNat < 16)
  | .vsts d _ _ _ _ => decide (d.toNat < 16)
  | .vgath d _ b _ _ => decide (d.toNat < 16 ∧ b.toNat < 16)
  | .vscat d _ b _ _ => decide (d.toNat < 16 ∧ b.toNat < 16)
  | .vcmp d _ _ _ _ c => decide (d.toNat < 4 ∧ c.toNat ≤ 5)
  | .vfcmp d _ _ _ _ _ => decide (d.toNat < 4)
  | .vsel d a b _ _ => decide (d.toNat < 16 ∧ a.toNat < 16 ∧ b.toNat < 16)
  | .vperm d a b _ _ => decide (d.toNat < 16 ∧ a.toNat < 16 ∧ b.toNat < 16)
  | .vbcst d _ _ _ => decide (d.toNat < 16)
  | .vins d _ _ _ => decide (d.toNat < 16)
  | .vext _ a _ _ => decide (a.toNat < 16)
  | .vredi _ a _ _ _ => decide (a.toNat < 16)
  | .vredf _ a r _ _ => decide (a.toNat < 16 ∧ roundOk r)
  | .vcvt d a s t x _ r => decide (d.toNat < 16 ∧ a.toNat < 16 ∧ cvtOk s t x r)
  | .mand d a b => decide (d.toNat < 4 ∧ a.toNat < 4 ∧ b.toNat < 4)
  | .mor d a b => decide (d.toNat < 4 ∧ a.toNat < 4 ∧ b.toNat < 4)
  | .mnot d a => decide (d.toNat < 4 ∧ a.toNat < 4)
  | .mpopc _ a => decide (a.toNat < 4)
  | .mmrt _ _ _ g => decide (g.toNat < 2)
  | .mst _ _ _ f r _ => decide (mstFmtOk f ∧ roundOk r)
  | .mld _ _ _ f => decide ((f = 2 ∨ f = 11))
  | .cpy d _ _ s c => decide (scopeOk s ∧ c.toNat < 2 ∧ (c = 1 → d = 0))
  | .cpyr d _ _ s c => decide (scopeOk s ∧ c.toNat < 2 ∧ (c = 1 → d = 0))
  | .pump d _ b s x c => decide (scopeOk s ∧ c.toNat < 2 ∧ (c = 1 → d = 0) ∧ (if x = 1 then b.toNat < 16 else b = 0))
  | .tseal _ s => decide (scopeOk s)
  | .wpush d _ _ => decide (d.toNat < 16)
  | .wpop d _ => decide (d.toNat < 16)
  | .wtry d _ => decide (d.toNat < 16)
  | .launch d _ _ => decide (d.toNat < 16)
  | .send _ b => decide (b.toNat < 16)
  | .sendR _ b => decide (b.toNat < 16)
  | .recvm d _ => decide (d.toNat < 16)
  | .remptyV d => decide (d.toNat < 16)
  | .sysr _ _ n => decide (n.toNat ≤ 42)
  | .sysw _ _ n => decide (n.toNat ≤ 42)
  | .sleep n => decide (n ≠ 3)
  | .tlbinv a b s f => decide (f ≠ 3 ∧ tlbScopeOk s ∧ (f = 0 → a = 0 ∧ b = 0) ∧ (f = 1 → b = 0))
  | _ => true

end Sys2Proof
end

