-- ==== Sys2Proof/Decode.lean ====
section
/-!
DEFINITION. Decoding of instruction words (R303 to R316) and the encoder, both written from the tables of
spec/14_encoding_map.md. `decodeRaw` reads the opcode map; `decodeWord` refuses a reserved value by name, so that a
reserved encoding never falls through to a neighbour. `encode` is the word of an instruction.
-/
namespace Sys2Proof

/-- Bits [hi:lo] of a word, as a number (R4). -/
def bits (w hi lo : Nat) : Nat := w / 2 ^ lo % 2 ^ (hi + 1 - lo)

/-- The `n`-bit field whose lowest bit is `lo`. -/
def fld {n : Nat} (w lo : Nat) : BitVec n := BitVec.ofNat n (w / 2 ^ lo)

/-- Why a word is no instruction. -/
inductive DecodeError where
  /-- Fewer than four bytes are left (R6). -/
  | truncated
  /-- No function, class or sub-op of the map is assigned to it, or a field that must be 0 is not (R316). -/
  | unassigned
  /-- A field holds a reserved value (R8, R315). -/
  | reservedValue
  deriving DecidableEq, Repr

/-- Major opcode 0x01 (R311). -/
def decodeInt (w : Nat) : Option Instr :=
  if bits w 10 0 = 0x0 then some (.add (fld w 21) (fld w 16) (fld w 11)) else
  if bits w 10 0 = 0x1 then some (.sub (fld w 21) (fld w 16) (fld w 11)) else
  if bits w 10 0 = 0x2 then some (.and (fld w 21) (fld w 16) (fld w 11)) else
  if bits w 10 0 = 0x3 then some (.or (fld w 21) (fld w 16) (fld w 11)) else
  if bits w 10 0 = 0x4 then some (.xor (fld w 21) (fld w 16) (fld w 11)) else
  if bits w 10 0 = 0x5 then some (.andn (fld w 21) (fld w 16) (fld w 11)) else
  if bits w 10 0 = 0x6 then some (.orn (fld w 21) (fld w 16) (fld w 11)) else
  if bits w 10 0 = 0x7 then some (.shl (fld w 21) (fld w 16) (fld w 11)) else
  if bits w 10 0 = 0x8 then some (.shr (fld w 21) (fld w 16) (fld w 11)) else
  if bits w 10 0 = 0x9 then some (.sra (fld w 21) (fld w 16) (fld w 11)) else
  if bits w 10 0 = 0xa then some (.rol (fld w 21) (fld w 16) (fld w 11)) else
  if bits w 10 0 = 0xb then some (.slt (fld w 21) (fld w 16) (fld w 11)) else
  if bits w 10 0 = 0xc then some (.sltu (fld w 21) (fld w 16) (fld w 11)) else
  if bits w 10 0 = 0xd then some (.seq (fld w 21) (fld w 16) (fld w 11)) else
  if bits w 10 0 = 0xe then some (.min (fld w 21) (fld w 16) (fld w 11)) else
  if bits w 10 0 = 0xf then some (.max (fld w 21) (fld w 16) (fld w 11)) else
  if bits w 10 0 = 0x10 then some (.minz (fld w 21) (fld w 16) (fld w 11)) else
  if bits w 10 0 = 0x11 then some (.maxz (fld w 21) (fld w 16) (fld w 11)) else
  if bits w 15 0 = 0x12 then some (.clz (fld w 21) (fld w 16)) else
  if bits w 15 0 = 0x13 then some (.ctz (fld w 21) (fld w 16)) else
  if bits w 15 0 = 0x14 then some (.popc (fld w 21) (fld w 16)) else
  if bits w 5 0 = 0x15 ∧ bits w 15 8 = 0x0 then some (.sext (fld w 21) (fld w 16) (fld w 6)) else
  if bits w 5 0 = 0x16 ∧ bits w 15 8 = 0x0 then some (.zext (fld w 21) (fld w 16) (fld w 6)) else
  none

/-- Major opcode 0x02 (R311). -/
def decodeMulDiv (w : Nat) : Option Instr :=
  if bits w 10 0 = 0x0 then some (.mul (fld w 21) (fld w 16) (fld w 11)) else
  if bits w 10 0 = 0x1 then some (.div (fld w 21) (fld w 16) (fld w 11)) else
  if bits w 10 0 = 0x2 then some (.divz (fld w 21) (fld w 16) (fld w 11)) else
  if bits w 10 0 = 0x3 then some (.rem (fld w 21) (fld w 16) (fld w 11)) else
  if bits w 10 0 = 0x4 then some (.remz (fld w 21) (fld w 16) (fld w 11)) else
  if bits w 10 0 = 0x5 then some (.mulh (fld w 21) (fld w 16) (fld w 11)) else
  if bits w 10 0 = 0x6 then some (.mulhz (fld w 21) (fld w 16) (fld w 11)) else
  if bits w 10 0 = 0x7 then some (.mulhsz (fld w 21) (fld w 16) (fld w 11)) else
  none

/-- Major opcode 0x09 (R311). -/
def decodeShi (w : Nat) : Option Instr :=
  if bits w 15 6 = 0x0 then some (.shli (fld w 21) (fld w 16) (fld w 0)) else
  if bits w 15 6 = 0x1 then some (.shri (fld w 21) (fld w 16) (fld w 0)) else
  if bits w 15 6 = 0x2 then some (.srai (fld w 21) (fld w 16) (fld w 0)) else
  if bits w 15 6 = 0x3 then some (.roli (fld w 21) (fld w 16) (fld w 0)) else
  none

/-- Major opcode 0x14 (R311). -/
def decodeJr (w : Nat) : Option Instr :=
  if bits w 15 0 = 0x0 ∧ bits w 25 21 = 0x0 then some (.jr (fld w 16)) else
  if bits w 15 0 = 0x1 then some (.jalr (fld w 21) (fld w 16)) else
  none

/-- Major opcode 0x15 (R311). -/
def decodeLd (w : Nat) : Option Instr :=
  if bits w 15 12 = 0x0 then some (.ldb (fld w 21) (fld w 16) (fld w 0)) else
  if bits w 15 12 = 0x1 then some (.ldh (fld w 21) (fld w 16) (fld w 0)) else
  if bits w 15 12 = 0x2 then some (.ldw (fld w 21) (fld w 16) (fld w 0)) else
  if bits w 15 12 = 0x3 then some (.ldd (fld w 21) (fld w 16) (fld w 0)) else
  if bits w 15 12 = 0x4 then some (.ldbz (fld w 21) (fld w 16) (fld w 0)) else
  if bits w 15 12 = 0x5 then some (.ldhz (fld w 21) (fld w 16) (fld w 0)) else
  if bits w 15 12 = 0x6 then some (.ldwz (fld w 21) (fld w 16) (fld w 0)) else
  none

/-- Major opcode 0x16 (R311). -/
def decodeSt (w : Nat) : Option Instr :=
  if bits w 15 12 = 0x0 then some (.stb (fld w 21) (fld w 16) (fld w 0)) else
  if bits w 15 12 = 0x1 then some (.sth (fld w 21) (fld w 16) (fld w 0)) else
  if bits w 15 12 = 0x2 then some (.stw (fld w 21) (fld w 16) (fld w 0)) else
  if bits w 15 12 = 0x3 then some (.std (fld w 21) (fld w 16) (fld w 0)) else
  none

/-- Major opcode 0x17 (R311). -/
def decodeLdSync (w : Nat) : Option Instr :=
  if bits w 15 12 = 0x0 then some (.lda (fld w 21) (fld w 16) (fld w 8) (fld w 0)) else
  if bits w 15 12 = 0x1 then some (.ldc (fld w 21) (fld w 16) (fld w 8) (fld w 0)) else
  if bits w 15 12 = 0x2 then some (.ldo (fld w 21) (fld w 16) (fld w 8) (fld w 0)) else
  none

/-- Major opcode 0x18 (R311). -/
def decodeStSync (w : Nat) : Option Instr :=
  if bits w 15 12 = 0x0 then some (.stl (fld w 21) (fld w 16) (fld w 8) (fld w 0)) else
  if bits w 15 12 = 0x1 then some (.stp (fld w 21) (fld w 16) (fld w 8) (fld w 0)) else
  if bits w 15 12 = 0x2 then some (.stf (fld w 21) (fld w 16) (fld w 8) (fld w 0)) else
  if bits w 15 8 = 0x30 ∧ bits w 25 21 = 0x0 then some (.empty (fld w 16) (fld w 0)) else
  none

/-- Major opcode 0x19 (R311). -/
def decodeAtom (w : Nat) : Option Instr :=
  if bits w 4 0 = 0x0 then some (.aadd (fld w 21) (fld w 16) (fld w 11) (fld w 7) (fld w 5)) else
  if bits w 4 0 = 0x1 then some (.aand (fld w 21) (fld w 16) (fld w 11) (fld w 7) (fld w 5)) else
  if bits w 4 0 = 0x2 then some (.aor (fld w 21) (fld w 16) (fld w 11) (fld w 7) (fld w 5)) else
  if bits w 4 0 = 0x3 then some (.axor (fld w 21) (fld w 16) (fld w 11) (fld w 7) (fld w 5)) else
  if bits w 4 0 = 0x4 then some (.amin (fld w 21) (fld w 16) (fld w 11) (fld w 7) (fld w 5)) else
  if bits w 4 0 = 0x5 then some (.amax (fld w 21) (fld w 16) (fld w 11) (fld w 7) (fld w 5)) else
  if bits w 4 0 = 0x6 then some (.aminz (fld w 21) (fld w 16) (fld w 11) (fld w 7) (fld w 5)) else
  if bits w 4 0 = 0x7 then some (.amaxz (fld w 21) (fld w 16) (fld w 11) (fld w 7) (fld w 5)) else
  if bits w 4 0 = 0x8 then some (.aswap (fld w 21) (fld w 16) (fld w 11) (fld w 7) (fld w 5)) else
  if bits w 4 0 = 0x9 then some (.acas (fld w 21) (fld w 16) (fld w 11) (fld w 7) (fld w 5)) else
  if bits w 4 0 = 0xa ∧ bits w 25 21 = 0x0 then some (.afaddv (fld w 16) (fld w 11) (fld w 7) (fld w 5)) else
  none

/-- Major opcode 0x1a (R311). -/
def decodeBankRed (w : Nat) : Option Instr :=
  if bits w 1 0 = 0x0 ∧ bits w 10 6 = 0x0 ∧ bits w 25 21 = 0x0 then some (.brset (fld w 16) (fld w 11) (fld w 2)) else
  if bits w 1 0 = 0x1 ∧ bits w 10 6 = 0x0 ∧ bits w 25 21 = 0x0 then some (.bradd (fld w 16) (fld w 11) (fld w 2)) else
  if bits w 1 0 = 0x2 ∧ bits w 15 6 = 0x0 then some (.brget (fld w 21) (fld w 16) (fld w 2)) else
  none

/-- Major opcode 0x1b (R311). -/
def decodeFence (w : Nat) : Option Instr :=
  if bits w 1 0 = 0x0 ∧ bits w 25 6 = 0x0 then some (.fence (fld w 2)) else
  if bits w 25 0 = 0x1 then some (.synci) else
  if bits w 1 0 = 0x2 ∧ bits w 10 6 = 0x0 then some (.waita (fld w 21) (fld w 16) (fld w 11) (fld w 2)) else
  none

/-- Major opcode 0x1c (R311). -/
def decodeFp (w : Nat) : Option Instr :=
  if bits w 4 0 = 0x0 ∧ bits w 10 9 = 0x0 then some (.fadd (fld w 21) (fld w 16) (fld w 11) (fld w 6) (fld w 5)) else
  if bits w 4 0 = 0x1 ∧ bits w 10 9 = 0x0 then some (.fsub (fld w 21) (fld w 16) (fld w 11) (fld w 6) (fld w 5)) else
  if bits w 4 0 = 0x2 ∧ bits w 10 9 = 0x0 then some (.fmul (fld w 21) (fld w 16) (fld w 11) (fld w 6) (fld w 5)) else
  if bits w 4 0 = 0x3 ∧ bits w 10 9 = 0x0 then some (.fdiv (fld w 21) (fld w 16) (fld w 11) (fld w 6) (fld w 5)) else
  if bits w 4 0 = 0x4 ∧ bits w 15 9 = 0x0 then some (.fsqrt (fld w 21) (fld w 16) (fld w 6) (fld w 5)) else
  if bits w 4 0 = 0x5 ∧ bits w 10 6 = 0x7 then some (.fmin (fld w 21) (fld w 16) (fld w 11) (fld w 5)) else
  if bits w 4 0 = 0x6 ∧ bits w 10 6 = 0x7 then some (.fmax (fld w 21) (fld w 16) (fld w 11) (fld w 5)) else
  if bits w 4 0 = 0x7 ∧ bits w 10 6 = 0x7 then some (.feq (fld w 21) (fld w 16) (fld w 11) (fld w 5)) else
  if bits w 4 0 = 0x8 ∧ bits w 10 6 = 0x7 then some (.flt (fld w 21) (fld w 16) (fld w 11) (fld w 5)) else
  if bits w 4 0 = 0x9 ∧ bits w 10 6 = 0x7 then some (.fle (fld w 21) (fld w 16) (fld w 11) (fld w 5)) else
  if bits w 4 0 = 0xa ∧ bits w 15 6 = 0x7 then some (.fclass (fld w 21) (fld w 16) (fld w 5)) else
  if bits w 4 0 = 0xb ∧ bits w 10 6 = 0x7 then some (.fsgn (fld w 21) (fld w 16) (fld w 11) (fld w 5)) else
  if bits w 4 0 = 0xc ∧ bits w 15 9 = 0x0 then some (.fcvt (fld w 21) (fld w 16) (fld w 6) (fld w 5)) else
  if bits w 4 0 = 0xd ∧ bits w 15 9 = 0x0 then some (.fcvti (fld w 21) (fld w 16) (fld w 6) (fld w 5)) else
  if bits w 4 0 = 0xe ∧ bits w 15 9 = 0x0 then some (.icvtf (fld w 21) (fld w 16) (fld w 6) (fld w 5)) else
  none

/-- Major opcode 0x1d (R311). -/
def decodeFma3 (w : Nat) : Option Instr :=
  if bits w 1 0 = 0x0 then some (.fma (fld w 21) (fld w 16) (fld w 11) (fld w 6) (fld w 3) (fld w 2)) else
  if bits w 1 0 = 0x1 then some (.fms (fld w 21) (fld w 16) (fld w 11) (fld w 6) (fld w 3) (fld w 2)) else
  if bits w 1 0 = 0x2 then some (.fnma (fld w 21) (fld w 16) (fld w 11) (fld w 6) (fld w 3) (fld w 2)) else
  none

/-- Major opcode 0x1e (R311). -/
def decodeVld (w : Nat) : Option Instr :=
  if bits w 15 14 = 0x0 then some (.vld (fld w 21) (fld w 16) (fld w 12) (fld w 0)) else
  none

/-- Major opcode 0x1f (R311). -/
def decodeVst (w : Nat) : Option Instr :=
  if bits w 15 14 = 0x0 then some (.vst (fld w 21) (fld w 16) (fld w 12) (fld w 0)) else
  none

/-- Major opcode 0x20 (R311). -/
def decodeVMemX (w : Nat) : Option Instr :=
  if bits w 1 0 = 0x0 ∧ bits w 10 6 = 0x0 then some (.vlds (fld w 21) (fld w 16) (fld w 11) (fld w 4) (fld w 2)) else
  if bits w 1 0 = 0x1 ∧ bits w 10 6 = 0x0 then some (.vsts (fld w 21) (fld w 16) (fld w 11) (fld w 4) (fld w 2)) else
  if bits w 1 0 = 0x2 ∧ bits w 10 6 = 0x0 then some (.vgath (fld w 21) (fld w 16) (fld w 11) (fld w 4) (fld w 2)) else
  if bits w 1 0 = 0x3 ∧ bits w 10 6 = 0x0 then some (.vscat (fld w 21) (fld w 16) (fld w 11) (fld w 4) (fld w 2)) else
  none

/-- Major opcode 0x21 (R311). -/
def decodeVInt (w : Nat) : Option Instr :=
  if bits w 5 0 = 0x0 ∧ bits w 13 10 = 0x0 then some (.vadd (fld w 22) (fld w 18) (fld w 14) (fld w 8) (fld w 6)) else
  if bits w 5 0 = 0x1 ∧ bits w 13 10 = 0x0 then some (.vsub (fld w 22) (fld w 18) (fld w 14) (fld w 8) (fld w 6)) else
  if bits w 5 0 = 0x2 ∧ bits w 13 10 = 0x0 then some (.vmul (fld w 22) (fld w 18) (fld w 14) (fld w 8) (fld w 6)) else
  if bits w 5 0 = 0x3 ∧ bits w 13 10 = 0x0 then some (.vmulh (fld w 22) (fld w 18) (fld w 14) (fld w 8) (fld w 6)) else
  if bits w 5 0 = 0x4 ∧ bits w 13 10 = 0x0 then some (.vmin (fld w 22) (fld w 18) (fld w 14) (fld w 8) (fld w 6)) else
  if bits w 5 0 = 0x5 ∧ bits w 13 10 = 0x0 then some (.vmax (fld w 22) (fld w 18) (fld w 14) (fld w 8) (fld w 6)) else
  if bits w 5 0 = 0x6 ∧ bits w 13 10 = 0x0 then some (.vand (fld w 22) (fld w 18) (fld w 14) (fld w 8) (fld w 6)) else
  if bits w 5 0 = 0x7 ∧ bits w 13 10 = 0x0 then some (.vor (fld w 22) (fld w 18) (fld w 14) (fld w 8) (fld w 6)) else
  if bits w 5 0 = 0x8 ∧ bits w 13 10 = 0x0 then some (.vxor (fld w 22) (fld w 18) (fld w 14) (fld w 8) (fld w 6)) else
  if bits w 5 0 = 0x9 ∧ bits w 13 10 = 0x0 then some (.vshl (fld w 22) (fld w 18) (fld w 14) (fld w 8) (fld w 6)) else
  if bits w 5 0 = 0xa ∧ bits w 13 10 = 0x0 then some (.vshr (fld w 22) (fld w 18) (fld w 14) (fld w 8) (fld w 6)) else
  if bits w 5 0 = 0xb ∧ bits w 13 10 = 0x0 then some (.vsra (fld w 22) (fld w 18) (fld w 14) (fld w 8) (fld w 6)) else
  if bits w 5 0 = 0xc ∧ bits w 17 10 = 0x0 then some (.vabs (fld w 22) (fld w 18) (fld w 8) (fld w 6)) else
  if bits w 5 3 = 0x2 ∧ bits w 13 10 = 0x0 then some (.vcmp (fld w 22) (fld w 18) (fld w 14) (fld w 8) (fld w 6) (fld w 0)) else
  none

/-- Major opcode 0x22 (R311). -/
def decodeVFlt (w : Nat) : Option Instr :=
  if bits w 5 0 = 0x0 ∧ bits w 13 10 = 0x0 then some (.vfadd (fld w 22) (fld w 18) (fld w 14) (fld w 8) (fld w 6)) else
  if bits w 5 0 = 0x1 ∧ bits w 13 10 = 0x0 then some (.vfsub (fld w 22) (fld w 18) (fld w 14) (fld w 8) (fld w 6)) else
  if bits w 5 0 = 0x2 ∧ bits w 13 10 = 0x0 then some (.vfmul (fld w 22) (fld w 18) (fld w 14) (fld w 8) (fld w 6)) else
  if bits w 5 0 = 0x3 ∧ bits w 13 10 = 0x0 then some (.vfdiv (fld w 22) (fld w 18) (fld w 14) (fld w 8) (fld w 6)) else
  if bits w 5 0 = 0x4 ∧ bits w 13 10 = 0x0 then some (.vfmin (fld w 22) (fld w 18) (fld w 14) (fld w 8) (fld w 6)) else
  if bits w 5 0 = 0x5 ∧ bits w 13 10 = 0x0 then some (.vfmax (fld w 22) (fld w 18) (fld w 14) (fld w 8) (fld w 6)) else
  if bits w 5 0 = 0x6 ∧ bits w 17 10 = 0x0 then some (.vfexp2 (fld w 22) (fld w 18) (fld w 8) (fld w 6)) else
  if bits w 5 0 = 0x7 ∧ bits w 17 10 = 0x0 then some (.vfrcp (fld w 22) (fld w 18) (fld w 8) (fld w 6)) else
  if bits w 5 0 = 0x8 ∧ bits w 17 10 = 0x0 then some (.vfrsq (fld w 22) (fld w 18) (fld w 8) (fld w 6)) else
  if bits w 5 2 = 0x4 ∧ bits w 13 10 = 0x0 then some (.vfcmp (fld w 22) (fld w 18) (fld w 14) (fld w 8) (fld w 6) (fld w 0)) else
  none

/-- Major opcode 0x23 (R311). -/
def decodeVFma (w : Nat) : Option Instr :=
  if bits w 5 0 = 0x0 then some (.vfma (fld w 22) (fld w 18) (fld w 14) (fld w 10) (fld w 8) (fld w 6)) else
  none

/-- Major opcode 0x24 (R311). -/
def decodeVXfr (w : Nat) : Option Instr :=
  if bits w 3 0 = 0x0 ∧ bits w 10 8 = 0x0 then some (.vsel (fld w 21) (fld w 16) (fld w 11) (fld w 6) (fld w 4)) else
  if bits w 3 0 = 0x1 ∧ bits w 10 8 = 0x0 then some (.vperm (fld w 21) (fld w 16) (fld w 11) (fld w 6) (fld w 4)) else
  if bits w 3 0 = 0x2 ∧ bits w 15 8 = 0x0 then some (.vbcst (fld w 21) (fld w 16) (fld w 6) (fld w 4)) else
  if bits w 5 0 = 0x3 ∧ bits w 10 8 = 0x0 then some (.vins (fld w 21) (fld w 16) (fld w 11) (fld w 6)) else
  if bits w 5 0 = 0x4 ∧ bits w 10 8 = 0x0 then some (.vext (fld w 21) (fld w 16) (fld w 11) (fld w 6)) else
  if bits w 3 0 = 0x5 ∧ bits w 15 11 = 0x0 then some (.vredi (fld w 21) (fld w 16) (fld w 8) (fld w 6) (fld w 4)) else
  if bits w 3 0 = 0x6 ∧ bits w 15 11 = 0x0 then some (.vredf (fld w 21) (fld w 16) (fld w 8) (fld w 6) (fld w 4)) else
  none

/-- Major opcode 0x25 (R311). -/
def decodeVCvt (w : Nat) : Option Instr :=
  if bits w 0 0 = 0x0 ∧ bits w 15 15 = 0x0 then some (.vcvt (fld w 21) (fld w 16) (fld w 11) (fld w 7) (fld w 6) (fld w 4) (fld w 1)) else
  none

/-- Major opcode 0x26 (R311). -/
def decodeMask (w : Nat) : Option Instr :=
  if bits w 10 0 = 0x0 then some (.mand (fld w 21) (fld w 16) (fld w 11)) else
  if bits w 10 0 = 0x1 then some (.mor (fld w 21) (fld w 16) (fld w 11)) else
  if bits w 15 0 = 0x2 then some (.mnot (fld w 21) (fld w 16)) else
  if bits w 15 0 = 0x3 then some (.mpopc (fld w 21) (fld w 16)) else
  none

/-- Major opcode 0x27 (R311). -/
def decodeMat (w : Nat) : Option Instr :=
  if bits w 7 0 = 0x0 ∧ bits w 12 9 = 0x0 then some (.mma (fld w 23) (fld w 18) (fld w 13) (fld w 8)) else
  if bits w 5 0 = 0x0 ∧ bits w 12 8 = 0x2 then some (.mmrt (fld w 23) (fld w 18) (fld w 13) (fld w 6)) else
  if bits w 12 0 = 0x400 then some (.mdist (fld w 23) (fld w 18) (fld w 13)) else
  none

/-- Major opcode 0x28 (R311). -/
def decodeMatC (w : Nat) : Option Instr :=
  if bits w 17 0 = 0x0 then some (.mcbk (fld w 23) (fld w 18)) else
  if bits w 12 0 = 0x200 ∧ bits w 25 23 = 0x0 then some (.mldb (fld w 18) (fld w 13)) else
  if bits w 0 0 = 0x0 ∧ bits w 12 9 = 0x2 then some (.mst (fld w 23) (fld w 18) (fld w 13) (fld w 5) (fld w 2) (fld w 1)) else
  if bits w 4 0 = 0x0 ∧ bits w 12 9 = 0x3 then some (.mld (fld w 23) (fld w 18) (fld w 13) (fld w 5)) else
  if bits w 22 0 = 0x800 then some (.mzero (fld w 23)) else
  if bits w 17 1 = 0x500 then some (.mflg (fld w 23) (fld w 18) (fld w 0)) else
  if bits w 7 0 = 0x0 ∧ bits w 12 9 = 0x6 then some (.mtopk (fld w 23) (fld w 18) (fld w 13) (fld w 8)) else
  none

/-- Major opcode 0x29 (R311). -/
def decodeCopy (w : Nat) : Option Instr :=
  if bits w 3 0 = 0x0 ∧ bits w 6 6 = 0x0 then some (.cpy (fld w 21) (fld w 16) (fld w 11) (fld w 7) (fld w 4)) else
  if bits w 3 0 = 0x1 ∧ bits w 6 6 = 0x0 then some (.cpyr (fld w 21) (fld w 16) (fld w 11) (fld w 7) (fld w 4)) else
  if bits w 3 0 = 0x2 then some (.pump (fld w 21) (fld w 16) (fld w 11) (fld w 7) (fld w 6) (fld w 4)) else
  none

/-- Major opcode 0x2a (R311). -/
def decodeTile (w : Nat) : Option Instr :=
  if bits w 15 0 = 0x0 then some (.talloc (fld w 21) (fld w 16)) else
  if bits w 3 0 = 0x1 ∧ bits w 15 8 = 0x0 ∧ bits w 25 21 = 0x0 then some (.tseal (fld w 16) (fld w 4)) else
  if bits w 10 0 = 0x2 ∧ bits w 25 21 = 0x0 then some (.tget (fld w 16) (fld w 11)) else
  if bits w 15 0 = 0x3 ∧ bits w 25 21 = 0x0 then some (.tdrop (fld w 16)) else
  if bits w 10 0 = 0x4 ∧ bits w 25 21 = 0x0 then some (.tabandon (fld w 16) (fld w 11)) else
  if bits w 15 0 = 0x5 ∧ bits w 25 21 = 0x0 then some (.tfree (fld w 16)) else
  if bits w 15 0 = 0x6 then some (.tinfo (fld w 21) (fld w 16)) else
  none

/-- Major opcode 0x2b (R311). -/
def decodeWl (w : Nat) : Option Instr :=
  if bits w 10 0 = 0x0 then some (.wpush (fld w 21) (fld w 16) (fld w 11)) else
  if bits w 15 0 = 0x1 then some (.wpop (fld w 21) (fld w 16)) else
  if bits w 15 0 = 0x2 then some (.wtry (fld w 21) (fld w 16)) else
  if bits w 15 0 = 0x3 then some (.wstat (fld w 21) (fld w 16)) else
  if bits w 10 0 = 0x4 then some (.launch (fld w 21) (fld w 16) (fld w 11)) else
  none

/-- Major opcode 0x2c (R311). -/
def decodeGang (w : Nat) : Option Instr :=
  if bits w 25 0 = 0x0 then some (.gbar) else
  if bits w 25 0 = 0x1 then some (.gexit) else
  if bits w 15 0 = 0x2 then some (.jopen (fld w 21) (fld w 16)) else
  if bits w 15 0 = 0x3 then some (.jwait (fld w 21) (fld w 16)) else
  if bits w 10 0 = 0x4 then some (.jsucc (fld w 21) (fld w 16) (fld w 11)) else
  if bits w 20 0 = 0x14 then some (.jsuccRel (fld w 21)) else
  if bits w 20 0 = 0x24 then some (.jsuccDis (fld w 21)) else
  none

/-- Major opcode 0x2d (R311). -/
def decodeMsg (w : Nat) : Option Instr :=
  if bits w 10 0 = 0x0 ∧ bits w 25 21 = 0x0 then some (.send (fld w 16) (fld w 11)) else
  if bits w 10 0 = 0x10 ∧ bits w 25 21 = 0x0 then some (.sendR (fld w 16) (fld w 11)) else
  if bits w 25 0 = 0x1 then some (.waitm) else
  if bits w 15 0 = 0x2 then some (.recvm (fld w 21) (fld w 16)) else
  if bits w 15 0 = 0x3 ∧ bits w 25 21 = 0x0 then some (.portcfg (fld w 16)) else
  if bits w 20 0 = 0x4 then some (.rempty (fld w 21)) else
  if bits w 20 0 = 0x14 then some (.remptyV (fld w 21)) else
  none

/-- Major opcode 0x2e (R311). -/
def decodeRgn (w : Nat) : Option Instr :=
  if bits w 20 16 = 0x0 ∧ bits w 25 25 = 0x0 then some (.rbegin (fld w 21) (fld w 0)) else
  if bits w 20 10 = 0x40 then some (.rpres (fld w 21) (fld w 0)) else
  if bits w 20 0 = 0x20000 ∧ bits w 25 24 = 0x0 then some (.rpresA (fld w 21)) else
  if bits w 25 0 = 0x30000 then some (.rend) else
  if bits w 25 0 = 0x40000 then some (.rfail) else
  none

/-- Major opcode 0x2f (R311). -/
def decodeSys (w : Nat) : Option Instr :=
  if bits w 4 0 = 0x0 ∧ bits w 20 16 = 0x0 then some (.sysr (fld w 21) (fld w 11) (fld w 5)) else
  if bits w 4 0 = 0x1 ∧ bits w 25 21 = 0x0 then some (.sysw (fld w 16) (fld w 11) (fld w 5)) else
  if bits w 4 0 = 0x2 ∧ bits w 25 8 = 0x0 then some (.setrnd (fld w 5)) else
  if bits w 10 0 = 0x3 then some (.trap (fld w 11)) else
  if bits w 25 0 = 0x4 then some (.eret) else
  if bits w 25 0 = 0x5 then some (.yield) else
  if bits w 4 0 = 0x6 ∧ bits w 25 7 = 0x0 then some (.sleep (fld w 5)) else
  if bits w 4 0 = 0x7 ∧ bits w 10 6 = 0x0 ∧ bits w 25 21 = 0x0 then some (.tcswap (fld w 16) (fld w 11) (fld w 5)) else
  if bits w 4 0 = 0x8 ∧ bits w 25 21 = 0x0 then some (.tlbinv (fld w 16) (fld w 11) (fld w 7) (fld w 5)) else
  if bits w 10 0 = 0x9 then some (.brk (fld w 11)) else
  none

/-- Major opcode 0x3f (R311). -/
def decodeHint (w : Nat) : Option Instr :=
  if bits w 25 24 = 0x0 then some (.himm (fld w 0)) else
  if bits w 25 24 = 0x1 then some (.hmod (fld w 0)) else
  if bits w 25 24 = 0x2 then some (.hmod2 (fld w 0)) else
  none

/-- The opcode map of R311, by major opcode: what the fields of a word stand for, reserved values not yet judged. -/
def decodeOp (op w : Nat) : Option Instr :=
  match op with
  | 0x01 => decodeInt w
  | 0x02 => decodeMulDiv w
  | 0x03 => some (.addi (fld w 21) (fld w 16) (fld w 0))
  | 0x04 => some (.slti (fld w 21) (fld w 16) (fld w 0))
  | 0x05 => some (.sltiu (fld w 21) (fld w 16) (fld w 0))
  | 0x06 => some (.andi (fld w 21) (fld w 16) (fld w 0))
  | 0x07 => some (.ori (fld w 21) (fld w 16) (fld w 0))
  | 0x08 => some (.xori (fld w 21) (fld w 16) (fld w 0))
  | 0x09 => decodeShi w
  | 0x0a => if bits w 20 16 = 0x0 then some (.ldhi (fld w 21) (fld w 0)) else none
  | 0x0b => if bits w 20 16 = 0x0 then some (.addpc (fld w 21) (fld w 0)) else none
  | 0x0c => some (.beq (fld w 21) (fld w 16) (fld w 0))
  | 0x0d => some (.bne (fld w 21) (fld w 16) (fld w 0))
  | 0x0e => some (.blt (fld w 21) (fld w 16) (fld w 0))
  | 0x0f => some (.bge (fld w 21) (fld w 16) (fld w 0))
  | 0x10 => some (.bltu (fld w 21) (fld w 16) (fld w 0))
  | 0x11 => some (.bgeu (fld w 21) (fld w 16) (fld w 0))
  | 0x12 => some (.j (fld w 0))
  | 0x13 => some (.jal (fld w 0))
  | 0x14 => decodeJr w
  | 0x15 => decodeLd w
  | 0x16 => decodeSt w
  | 0x17 => decodeLdSync w
  | 0x18 => decodeStSync w
  | 0x19 => decodeAtom w
  | 0x1a => decodeBankRed w
  | 0x1b => decodeFence w
  | 0x1c => decodeFp w
  | 0x1d => decodeFma3 w
  | 0x1e => decodeVld w
  | 0x1f => decodeVst w
  | 0x20 => decodeVMemX w
  | 0x21 => decodeVInt w
  | 0x22 => decodeVFlt w
  | 0x23 => decodeVFma w
  | 0x24 => decodeVXfr w
  | 0x25 => decodeVCvt w
  | 0x26 => decodeMask w
  | 0x27 => decodeMat w
  | 0x28 => decodeMatC w
  | 0x29 => decodeCopy w
  | 0x2a => decodeTile w
  | 0x2b => decodeWl w
  | 0x2c => decodeGang w
  | 0x2d => decodeMsg w
  | 0x2e => decodeRgn w
  | 0x2f => decodeSys w
  | 0x3f => decodeHint w
  | _ => none

/-- The instruction a word stands for, its major opcode in bits [31:26] (R303). -/
def decodeRaw (w : Nat) : Option Instr := decodeOp (w / 2 ^ 26) w

/-- Decoding of one 32-bit word, rejecting by name. -/
def decodeWord (w : BitVec 32) : Except DecodeError Instr :=
  match decodeRaw w.toNat with
  | none => .error .unassigned
  | some i => if i.wf then .ok i else .error .reservedValue

/-- Decoding of the bytes at the PC: little-endian words (R5, R6), total on any list of bytes. -/
def decode (bytes : List Byte) : Except DecodeError (Instr × List Byte) :=
  match bytes with
  | b0 :: b1 :: b2 :: b3 :: rest =>
    match decodeWord (b3 ++ b2 ++ b1 ++ b0) with
    | .ok i => .ok (i, rest)
    | .error e => .error e
  | _ => .error .truncated

/-- The four bytes of a word as memory holds them (R5). -/
def wordBytes (w : BitVec 32) : List Byte :=
  [w.extractLsb' 0 8, w.extractLsb' 8 8, w.extractLsb' 16 8, w.extractLsb' 24 8]

/-- What the decoder reads from the word whose bits are `w` (every row of the table has 32 bits: one word). -/
def decodeTableWord (nbits w : Nat) : Option Instr :=
  if nbits ≤ 32 then
    match decode (wordBytes (BitVec.ofNat 32 (w % 2 ^ nbits))) with
    | .ok (i, _) => some i
    | .error _ => none
  else none

/-- A field put at its place above the rest of a word. -/
def put {n : Nat} (x : BitVec n) (lo rest : Nat) : Nat := x.toNat * 2 ^ lo + rest

/-- The number of an instruction's word: its major opcode, its function code and its fields at their places
(R303, R311 to R314). An event has no word; 0 stands there, which is no instruction (R316). -/
def encodeNat : Instr → Nat
  | .add d a b => put d 21 (put a 16 (put b 11 0x04000000))
  | .sub d a b => put d 21 (put a 16 (put b 11 0x04000001))
  | .and d a b => put d 21 (put a 16 (put b 11 0x04000002))
  | .or d a b => put d 21 (put a 16 (put b 11 0x04000003))
  | .xor d a b => put d 21 (put a 16 (put b 11 0x04000004))
  | .andn d a b => put d 21 (put a 16 (put b 11 0x04000005))
  | .orn d a b => put d 21 (put a 16 (put b 11 0x04000006))
  | .shl d a b => put d 21 (put a 16 (put b 11 0x04000007))
  | .shr d a b => put d 21 (put a 16 (put b 11 0x04000008))
  | .sra d a b => put d 21 (put a 16 (put b 11 0x04000009))
  | .rol d a b => put d 21 (put a 16 (put b 11 0x0400000A))
  | .slt d a b => put d 21 (put a 16 (put b 11 0x0400000B))
  | .sltu d a b => put d 21 (put a 16 (put b 11 0x0400000C))
  | .seq d a b => put d 21 (put a 16 (put b 11 0x0400000D))
  | .min d a b => put d 21 (put a 16 (put b 11 0x0400000E))
  | .max d a b => put d 21 (put a 16 (put b 11 0x0400000F))
  | .minz d a b => put d 21 (put a 16 (put b 11 0x04000010))
  | .maxz d a b => put d 21 (put a 16 (put b 11 0x04000011))
  | .clz d a => put d 21 (put a 16 0x04000012)
  | .ctz d a => put d 21 (put a 16 0x04000013)
  | .popc d a => put d 21 (put a 16 0x04000014)
  | .sext d a w => put d 21 (put a 16 (put w 6 0x04000015))
  | .zext d a w => put d 21 (put a 16 (put w 6 0x04000016))
  | .mul d a b => put d 21 (put a 16 (put b 11 0x08000000))
  | .div d a b => put d 21 (put a 16 (put b 11 0x08000001))
  | .divz d a b => put d 21 (put a 16 (put b 11 0x08000002))
  | .rem d a b => put d 21 (put a 16 (put b 11 0x08000003))
  | .remz d a b => put d 21 (put a 16 (put b 11 0x08000004))
  | .mulh d a b => put d 21 (put a 16 (put b 11 0x08000005))
  | .mulhz d a b => put d 21 (put a 16 (put b 11 0x08000006))
  | .mulhsz d a b => put d 21 (put a 16 (put b 11 0x08000007))
  | .addi d a i => put d 21 (put a 16 (put i 0 0x0C000000))
  | .slti d a i => put d 21 (put a 16 (put i 0 0x10000000))
  | .sltiu d a i => put d 21 (put a 16 (put i 0 0x14000000))
  | .andi d a i => put d 21 (put a 16 (put i 0 0x18000000))
  | .ori d a i => put d 21 (put a 16 (put i 0 0x1C000000))
  | .xori d a i => put d 21 (put a 16 (put i 0 0x20000000))
  | .shli d a n => put d 21 (put a 16 (put n 0 0x24000000))
  | .shri d a n => put d 21 (put a 16 (put n 0 0x24000040))
  | .srai d a n => put d 21 (put a 16 (put n 0 0x24000080))
  | .roli d a n => put d 21 (put a 16 (put n 0 0x240000C0))
  | .ldhi d i => put d 21 (put i 0 0x28000000)
  | .addpc d i => put d 21 (put i 0 0x2C000000)
  | .beq a b o => put a 21 (put b 16 (put o 0 0x30000000))
  | .bne a b o => put a 21 (put b 16 (put o 0 0x34000000))
  | .blt a b o => put a 21 (put b 16 (put o 0 0x38000000))
  | .bge a b o => put a 21 (put b 16 (put o 0 0x3C000000))
  | .bltu a b o => put a 21 (put b 16 (put o 0 0x40000000))
  | .bgeu a b o => put a 21 (put b 16 (put o 0 0x44000000))
  | .j o => put o 0 0x48000000
  | .jal o => put o 0 0x4C000000
  | .jr a => put a 16 0x50000000
  | .jalr d a => put d 21 (put a 16 0x50000001)
  | .ldb d b o => put d 21 (put b 16 (put o 0 0x54000000))
  | .ldh d b o => put d 21 (put b 16 (put o 0 0x54001000))
  | .ldw d b o => put d 21 (put b 16 (put o 0 0x54002000))
  | .ldd d b o => put d 21 (put b 16 (put o 0 0x54003000))
  | .ldbz d b o => put d 21 (put b 16 (put o 0 0x54004000))
  | .ldhz d b o => put d 21 (put b 16 (put o 0 0x54005000))
  | .ldwz d b o => put d 21 (put b 16 (put o 0 0x54006000))
  | .stb s b o => put s 21 (put b 16 (put o 0 0x58000000))
  | .sth s b o => put s 21 (put b 16 (put o 0 0x58001000))
  | .stw s b o => put s 21 (put b 16 (put o 0 0x58002000))
  | .std s b o => put s 21 (put b 16 (put o 0 0x58003000))
  | .lda d b c o => put d 21 (put b 16 (put c 8 (put o 0 0x5C000000)))
  | .ldc d b c o => put d 21 (put b 16 (put c 8 (put o 0 0x5C001000)))
  | .ldo d b c o => put d 21 (put b 16 (put c 8 (put o 0 0x5C002000)))
  | .stl s b c o => put s 21 (put b 16 (put c 8 (put o 0 0x60000000)))
  | .stp s b c o => put s 21 (put b 16 (put c 8 (put o 0 0x60001000)))
  | .stf s b c o => put s 21 (put b 16 (put c 8 (put o 0 0x60002000)))
  | .empty b o => put b 16 (put o 0 0x60003000)
  | .aadd d a b c z => put d 21 (put a 16 (put b 11 (put c 7 (put z 5 0x64000000))))
  | .aand d a b c z => put d 21 (put a 16 (put b 11 (put c 7 (put z 5 0x64000001))))
  | .aor d a b c z => put d 21 (put a 16 (put b 11 (put c 7 (put z 5 0x64000002))))
  | .axor d a b c z => put d 21 (put a 16 (put b 11 (put c 7 (put z 5 0x64000003))))
  | .amin d a b c z => put d 21 (put a 16 (put b 11 (put c 7 (put z 5 0x64000004))))
  | .amax d a b c z => put d 21 (put a 16 (put b 11 (put c 7 (put z 5 0x64000005))))
  | .aminz d a b c z => put d 21 (put a 16 (put b 11 (put c 7 (put z 5 0x64000006))))
  | .amaxz d a b c z => put d 21 (put a 16 (put b 11 (put c 7 (put z 5 0x64000007))))
  | .aswap d a b c z => put d 21 (put a 16 (put b 11 (put c 7 (put z 5 0x64000008))))
  | .acas d a b c z => put d 21 (put a 16 (put b 11 (put c 7 (put z 5 0x64000009))))
  | .afaddv a b c z => put a 16 (put b 11 (put c 7 (put z 5 0x6400000A)))
  | .brset a b f => put a 16 (put b 11 (put f 2 0x68000000))
  | .bradd a b f => put a 16 (put b 11 (put f 2 0x68000001))
  | .brget d a f => put d 21 (put a 16 (put f 2 0x68000002))
  | .fence c => put c 2 0x6C000000
  | .synci => 0x6C000001
  | .waita d a b c => put d 21 (put a 16 (put b 11 (put c 2 0x6C000002)))
  | .fadd d a b r p => put d 21 (put a 16 (put b 11 (put r 6 (put p 5 0x70000000))))
  | .fsub d a b r p => put d 21 (put a 16 (put b 11 (put r 6 (put p 5 0x70000001))))
  | .fmul d a b r p => put d 21 (put a 16 (put b 11 (put r 6 (put p 5 0x70000002))))
  | .fdiv d a b r p => put d 21 (put a 16 (put b 11 (put r 6 (put p 5 0x70000003))))
  | .fsqrt d a r p => put d 21 (put a 16 (put r 6 (put p 5 0x70000004)))
  | .fmin d a b p => put d 21 (put a 16 (put b 11 (put p 5 0x700001C5)))
  | .fmax d a b p => put d 21 (put a 16 (put b 11 (put p 5 0x700001C6)))
  | .feq d a b p => put d 21 (put a 16 (put b 11 (put p 5 0x700001C7)))
  | .flt d a b p => put d 21 (put a 16 (put b 11 (put p 5 0x700001C8)))
  | .fle d a b p => put d 21 (put a 16 (put b 11 (put p 5 0x700001C9)))
  | .fclass d a p => put d 21 (put a 16 (put p 5 0x700001CA))
  | .fsgn d a b p => put d 21 (put a 16 (put b 11 (put p 5 0x700001CB)))
  | .fcvt d a r p => put d 21 (put a 16 (put r 6 (put p 5 0x7000000C)))
  | .fcvti d a r p => put d 21 (put a 16 (put r 6 (put p 5 0x7000000D)))
  | .icvtf d a r p => put d 21 (put a 16 (put r 6 (put p 5 0x7000000E)))
  | .fma d a b c r p => put d 21 (put a 16 (put b 11 (put c 6 (put r 3 (put p 2 0x74000000)))))
  | .fms d a b c r p => put d 21 (put a 16 (put b 11 (put c 6 (put r 3 (put p 2 0x74000001)))))
  | .fnma d a b c r p => put d 21 (put a 16 (put b 11 (put c 6 (put r 3 (put p 2 0x74000002)))))
  | .vld d b m o => put d 21 (put b 16 (put m 12 (put o 0 0x78000000)))
  | .vst s b m o => put s 21 (put b 16 (put m 12 (put o 0 0x7C000000)))
  | .vlds d a b w m => put d 21 (put a 16 (put b 11 (put w 4 (put m 2 0x80000000))))
  | .vsts d a b w m => put d 21 (put a 16 (put b 11 (put w 4 (put m 2 0x80000001))))
  | .vgath d a b w m => put d 21 (put a 16 (put b 11 (put w 4 (put m 2 0x80000002))))
  | .vscat d a b w m => put d 21 (put a 16 (put b 11 (put w 4 (put m 2 0x80000003))))
  | .vadd d a b m w => put d 22 (put a 18 (put b 14 (put m 8 (put w 6 0x84000000))))
  | .vsub d a b m w => put d 22 (put a 18 (put b 14 (put m 8 (put w 6 0x84000001))))
  | .vmul d a b m w => put d 22 (put a 18 (put b 14 (put m 8 (put w 6 0x84000002))))
  | .vmulh d a b m w => put d 22 (put a 18 (put b 14 (put m 8 (put w 6 0x84000003))))
  | .vmin d a b m w => put d 22 (put a 18 (put b 14 (put m 8 (put w 6 0x84000004))))
  | .vmax d a b m w => put d 22 (put a 18 (put b 14 (put m 8 (put w 6 0x84000005))))
  | .vand d a b m w => put d 22 (put a 18 (put b 14 (put m 8 (put w 6 0x84000006))))
  | .vor d a b m w => put d 22 (put a 18 (put b 14 (put m 8 (put w 6 0x84000007))))
  | .vxor d a b m w => put d 22 (put a 18 (put b 14 (put m 8 (put w 6 0x84000008))))
  | .vshl d a b m w => put d 22 (put a 18 (put b 14 (put m 8 (put w 6 0x84000009))))
  | .vshr d a b m w => put d 22 (put a 18 (put b 14 (put m 8 (put w 6 0x8400000A))))
  | .vsra d a b m w => put d 22 (put a 18 (put b 14 (put m 8 (put w 6 0x8400000B))))
  | .vabs d a m w => put d 22 (put a 18 (put m 8 (put w 6 0x8400000C)))
  | .vcmp d a b m w c => put d 22 (put a 18 (put b 14 (put m 8 (put w 6 (put c 0 0x84000010)))))
  | .vfadd d a b m f => put d 22 (put a 18 (put b 14 (put m 8 (put f 6 0x88000000))))
  | .vfsub d a b m f => put d 22 (put a 18 (put b 14 (put m 8 (put f 6 0x88000001))))
  | .vfmul d a b m f => put d 22 (put a 18 (put b 14 (put m 8 (put f 6 0x88000002))))
  | .vfdiv d a b m f => put d 22 (put a 18 (put b 14 (put m 8 (put f 6 0x88000003))))
  | .vfmin d a b m f => put d 22 (put a 18 (put b 14 (put m 8 (put f 6 0x88000004))))
  | .vfmax d a b m f => put d 22 (put a 18 (put b 14 (put m 8 (put f 6 0x88000005))))
  | .vfexp2 d a m f => put d 22 (put a 18 (put m 8 (put f 6 0x88000006)))
  | .vfrcp d a m f => put d 22 (put a 18 (put m 8 (put f 6 0x88000007)))
  | .vfrsq d a m f => put d 22 (put a 18 (put m 8 (put f 6 0x88000008)))
  | .vfcmp d a b m f c => put d 22 (put a 18 (put b 14 (put m 8 (put f 6 (put c 0 0x88000010)))))
  | .vfma d a b c m f => put d 22 (put a 18 (put b 14 (put c 10 (put m 8 (put f 6 0x8C000000)))))
  | .vsel d a b w m => put d 21 (put a 16 (put b 11 (put w 6 (put m 4 0x90000000))))
  | .vperm d a b w m => put d 21 (put a 16 (put b 11 (put w 6 (put m 4 0x90000001))))
  | .vbcst d a w m => put d 21 (put a 16 (put w 6 (put m 4 0x90000002)))
  | .vins d a b w => put d 21 (put a 16 (put b 11 (put w 6 0x90000003)))
  | .vext d a b w => put d 21 (put a 16 (put b 11 (put w 6 0x90000004)))
  | .vredi d a o w m => put d 21 (put a 16 (put o 8 (put w 6 (put m 4 0x90000005))))
  | .vredf d a r f m => put d 21 (put a 16 (put r 8 (put f 6 (put m 4 0x90000006))))
  | .vcvt d a s t x m r => put d 21 (put a 16 (put s 11 (put t 7 (put x 6 (put m 4 (put r 1 0x94000000))))))
  | .mand d a b => put d 21 (put a 16 (put b 11 0x98000000))
  | .mor d a b => put d 21 (put a 16 (put b 11 0x98000001))
  | .mnot d a => put d 21 (put a 16 0x98000002)
  | .mpopc d a => put d 21 (put a 16 0x98000003)
  | .mma d a b c => put d 23 (put a 18 (put b 13 (put c 8 0x9C000000)))
  | .mmrt d a b g => put d 23 (put a 18 (put b 13 (put g 6 0x9C000200)))
  | .mdist d a b => put d 23 (put a 18 (put b 13 0x9C000400))
  | .mcbk n a => put n 23 (put a 18 0xA0000000)
  | .mldb a b => put a 18 (put b 13 0xA0000200)
  | .mst d a b f r x => put d 23 (put a 18 (put b 13 (put f 5 (put r 2 (put x 1 0xA0000400)))))
  | .mld d a b f => put d 23 (put a 18 (put b 13 (put f 5 0xA0000600)))
  | .mzero d => put d 23 0xA0000800
  | .mflg d g c => put d 23 (put g 18 (put c 0 0xA0000A00))
  | .mtopk d a b e => put d 23 (put a 18 (put b 13 (put e 8 0xA0000C00)))
  | .cpy d a b s c => put d 21 (put a 16 (put b 11 (put s 7 (put c 4 0xA4000000))))
  | .cpyr d a b s c => put d 21 (put a 16 (put b 11 (put s 7 (put c 4 0xA4000001))))
  | .pump d a b s x c => put d 21 (put a 16 (put b 11 (put s 7 (put x 6 (put c 4 0xA4000002)))))
  | .talloc d a => put d 21 (put a 16 0xA8000000)
  | .tseal a s => put a 16 (put s 4 0xA8000001)
  | .tget a b => put a 16 (put b 11 0xA8000002)
  | .tdrop a => put a 16 0xA8000003
  | .tabandon a b => put a 16 (put b 11 0xA8000004)
  | .tfree a => put a 16 0xA8000005
  | .tinfo d a => put d 21 (put a 16 0xA8000006)
  | .wpush d a b => put d 21 (put a 16 (put b 11 0xAC000000))
  | .wpop d a => put d 21 (put a 16 0xAC000001)
  | .wtry d a => put d 21 (put a 16 0xAC000002)
  | .wstat d a => put d 21 (put a 16 0xAC000003)
  | .launch d a b => put d 21 (put a 16 (put b 11 0xAC000004))
  | .gbar => 0xB0000000
  | .gexit => 0xB0000001
  | .jopen d a => put d 21 (put a 16 0xB0000002)
  | .jwait d a => put d 21 (put a 16 0xB0000003)
  | .jsucc d a b => put d 21 (put a 16 (put b 11 0xB0000004))
  | .jsuccRel d => put d 21 0xB0000014
  | .jsuccDis d => put d 21 0xB0000024
  | .send a b => put a 16 (put b 11 0xB4000000)
  | .sendR a b => put a 16 (put b 11 0xB4000010)
  | .waitm => 0xB4000001
  | .recvm d a => put d 21 (put a 16 0xB4000002)
  | .portcfg a => put a 16 0xB4000003
  | .rempty d => put d 21 0xB4000004
  | .remptyV d => put d 21 0xB4000014
  | .rbegin l i => put l 21 (put i 0 0xB8000000)
  | .rpres b n => put b 21 (put n 0 0xB8010000)
  | .rpresA d => put d 21 0xB8020000
  | .rend => 0xB8030000
  | .rfail => 0xB8040000
  | .sysr d x n => put d 21 (put x 11 (put n 5 0xBC000000))
  | .sysw a x n => put a 16 (put x 11 (put n 5 0xBC000001))
  | .setrnd m => put m 5 0xBC000002
  | .trap i => put i 11 0xBC000003
  | .eret => 0xBC000004
  | .yield => 0xBC000005
  | .sleep n => put n 5 0xBC000006
  | .tcswap a b k => put a 16 (put b 11 (put k 5 0xBC000007))
  | .tlbinv a b s f => put a 16 (put b 11 (put s 7 (put f 5 0xBC000008)))
  | .brk i => put i 11 0xBC000009
  | .himm d => put d 0 0xFC000000
  | .hmod d => put d 0 0xFD000000
  | .hmod2 d => put d 0 0xFE000000
  | _ => 0

/-- The word of an instruction. -/
def encode (i : Instr) : BitVec 32 := BitVec.ofNat 32 (encodeNat i)

end Sys2Proof
end

