-- ==== Sys2Proof/Config.lean ====
section
/-!
DEFINITION. What the spec leaves to an implementation or leaves open altogether: constants without a body, so that
nothing can be proved about their values (log entries 2, 5, 7, 9 and 12).
-/
namespace Sys2Proof.Config

/-- The byte at place `a` of open contents written under `tag` (R468, R180, R68; log entry 2). -/
opaque openByte (tag a : Nat) : Byte

/-- The `n`-th choice that the spec calls unspecified (R9), to be taken modulo the number of candidates (log entry 5). -/
opaque pick (n : Nat) : Nat

/-- Byte `i` of the HSS signature of a message with one leaf of the lower tree (R51, R52; log entry 7). -/
opaque signature (message : List Byte) (leaf i : Nat) : Byte

/-- Whether the key hash and the signature of an image of these bytes verify (R50; log entry 7). -/
opaque imageVerifies (bytes : List Byte) : Bool

/-- The version word in the header of an image of these bytes (R50; log entry 7). -/
opaque imageVersion (bytes : List Byte) : BitVec 32

/-- The HDM decoders in the configuration that a firmware image of these bytes carries (R469; log entry 9): first address, size,
and whether they lie behind ID1. -/
opaque imageDecoders (bytes : List Byte) : List (Nat × Nat × Bool)

/-- Byte `i` of the SHA-256 of the image `n` that the part was made with (R52; log entry 7). -/
opaque imageHash (n i : Nat) : Byte

/-- The blocks whose registers the `n`-th snapshot holds: die, kind, index and length in bytes of each (R265; log entry 12). -/
opaque snapshotBlocks (n : Nat) : List (Nat × Nat × Nat × Nat)

end Sys2Proof.Config
end

