-- ==== Sys2Proof/Machine/State.lean ====
section
/-!
DEFINITION. The state of the module as plain data. Everything that exists many times over (slots, cores, dies, jobs)
is a list of number and value pairs sorted by number, an unlisted number standing for the reset value; memory is the
list of its bytes in one canonical form. Numbers: a core is module x 1024 + core (R157), a slot core x 16 + slot, a
compute die module x 8 + die, a place of memory one of the ranges of `Place` in Machine/Store.lean.
-/
namespace Sys2Proof.Machine

/-- Values by number, rising; an unlisted number has the default its reader names. -/
abbrev NatMap (α : Type) := List (Nat × α)

/-! ### Memory -/

/-- A stretch of memory whose contents the spec leaves open (R468, R180, R68): byte `a` of it reads as the free
value `Config.openByte tag a` until it is written. -/
structure Span where
  base : Nat
  len : Nat
  tag : Nat
  deriving DecidableEq, Repr

/-- Memory: the listed bytes, and the stretches of open contents. A byte in neither reads as zero (log entry 2). -/
structure Memory where
  cells : List Host.Cell
  spans : List Span
  deriving DecidableEq, Repr

/-! ### Arithmetic state -/

/-- A bank reduction slot (R216): the sum in units of 2^-149, which special values have been contributed, and whether every
contribution has been +0, or −0 (R203). -/
structure BankSlot where
  sum : BitVec 384
  nan : Bool
  pinf : Bool
  ninf : Bool
  posOnly : Bool
  negOnly : Bool
  deriving DecidableEq, Repr

/-- An accumulator (R392, R218, R282): 1,024 elements, row by row. -/
structure Acc where
  elems : List (BitVec 32)
  flags : BitVec 6
  kindInt : Bool
  poisoned : Bool
  deriving DecidableEq, Repr

/-! ### Accesses, publications and undo records -/

/-- One contiguous part of an access: the address as formed, the place it reaches, its length, the bytes a store
carries, and the lane it belongs to. -/
structure Part where
  va : Word
  loc : Nat
  len : Nat
  data : List Byte
  lane : Nat
  deriving DecidableEq, Repr

/-- What an access does at the home of its place. -/
inductive MemOp where
  /-- A scalar load into `d`, sign-extended or not (R345). -/
  | load (d : BitVec 5) (signed : Bool)
  /-- A scalar or vector store. -/
  | store
  /-- A vector load of lanes of `w` bytes (R362, R364). -/
  | vload (d : BitVec 5) (w : Nat)
  /-- A decoding VLD (R361) under an attribute, with the place of its scale byte and the codebook at issue. -/
  | vdecode (d : BitVec 5) (mask : BitVec 2) (attr : BitVec 9) (scale : Option Nat) (book : List (BitVec 16))
  /-- An integer atomic (R353). -/
  | atomic (code : Nat) (d : BitVec 5) (operand expected : Word)
  /-- AFADDV (R355), f64 lanes when `double`. -/
  | afaddv (double : Bool) (operand : VWord) (mode : BitVec 3) (enables : BitVec 6)
  /-- LDC and LDO (R235). -/
  | ldc (d : BitVec 5)
  | ldo (d : BitVec 5)
  /-- STP and STF (R235). -/
  | stp
  | stf
  /-- EMPTY (R235). -/
  | empty
  /-- WAITA (R241). -/
  | waita (d : BitVec 5) (expected : Word)
  /-- BRGET (R358). -/
  | bankGet (d : BitVec 5) (fmt : BitVec 4)
  /-- BRSET and BRADD (R358). -/
  | bankSet (fmt : BitVec 4) (value : Word)
  | bankAdd (fmt : BitVec 4) (value : Word)
  /-- FENCE (R349). -/
  | fence
  /-- MLD's rows into an accumulator (R407). -/
  | mld (d : BitVec 3) (kindInt : Bool)
  /-- MST's rows (R406), with the flags that its accumulator takes. -/
  | mst (d : BitVec 3) (flags : BitVec 6)
  /-- MCBK's codebook (R409). -/
  | mcbk (n : BitVec 3)
  /-- MLDB's columns (R410): the attribute at issue, the B offset, the place and number of the scale bytes. -/
  | mldb (attr : BitVec 9) (b : Nat) (scales : Nat × Nat)
  /-- TGET's move of a tile to its destination (R436), and the tile that it has consumed to zero. -/
  | tget (dest : Part) (frees : Option (Nat × Nat × BitVec 12))
  /-- JOPEN's read of its descriptor (R430). -/
  | fetch
  /-- JWAIT on the DONE word of a job (R431). -/
  | jwait (job : Nat) (d : BitVec 5)
  deriving DecidableEq, Repr

/-- An access on its way: its operation, its parts and the scope at which it acquires or releases, if it does. -/
structure Req where
  op : MemOp
  parts : List Part
  scope : Option (BitVec 4)
  deriving DecidableEq, Repr

/-- A worklist item (R74): KEY, the meta word (JOB, HINT, CLASS) and the payload. -/
structure Item where
  key : BitVec 32
  info : BitVec 32
  payload : BitVec 192
  deriving DecidableEq, Repr

/-- An item in the saltern: its pan, the order of its push, and whether it carries poison (R88, R87, R92). -/
structure Entry where
  item : Item
  pan : Nat
  seq : Nat
  poison : Bool
  deriving DecidableEq, Repr

/-- Who pushed an item; it decides the target pan (R88). -/
inductive Pusher where
  | thread (core : Nat)
  | ioDie (io : Nat)
  | die (die : Nat)
  | jobTable
  deriving DecidableEq, Repr

/-- A push that has been issued: `counted` when its job's count was raised at issue (R119). -/
structure Push where
  wl : Nat
  item : Item
  who : Pusher
  counted : Bool
  poison : Bool
  deriving DecidableEq, Repr

/-- A SEND on its way (R144): its target word, the 32 bytes, and whether it fills a register. -/
structure Message where
  toReg : Bool
  target : Word
  body : BitVec 256
  deriving DecidableEq, Repr

/-- The operands of an outgoing rotation (R401, R402): group (1 for .cl), the A block's offset in own local memory,
the B offset, and the attribute of A at issue. -/
structure Handoff where
  cluster : Bool
  aOff : Nat
  bOff : Nat
  attr : BitVec 9
  deriving DecidableEq, Repr

/-- Deferred publications and deferred effects of a region (R247, R275, R192). -/
inductive Publication where
  /-- A release store, STP, STF, an atomic with d = 0, AFADDV. -/
  | access (r : Req)
  /-- WPUSH and LAUNCH to a worklist of module `m`. -/
  | push (m : Nat) (p : Push)
  | seal (handle : Word) (scope : BitVec 4)
  | free (handle : Word)
  | send (m : Message)
  /-- POUT: the queue as it stood at the write. -/
  | pout (core queue : Nat) (value : Word)
  | rotate (h : Handoff)
  /-- PUMP's arrival (R419): the pump, the page whose move it joins, the push. -/
  | arrival (io : Nat) (asid : BitVec 8) (page : Nat) (p : Push)
  /-- An access whose translation a TLBINV has removed: it is translated again (R343). -/
  | stale (r : Req)
  deriving DecidableEq, Repr

/-- Undo records (R270). -/
inductive UndoRec where
  /-- A 64-byte line: its place, old bytes, old full bits, the address written through and the level. -/
  | line (va : Word) (loc : Nat) (old : List Byte) (full : BitVec 8) (level : Nat)
  | accum (n : Nat) (old : Acc)
  | pop (wl : Nat) (item : Item) (poison : Bool)
  | countDown (die base : Nat) (gen : BitVec 12) (n : Nat)
  | grant (die base : Nat) (gen : BitVec 12)
  | pin (core queue : Nat) (flit : Word)
  | recvm (body : BitVec 256)
  | publish (p : Publication)
  deriving DecidableEq, Repr

/-- The port state of a thread (R141, R447). -/
structure Port where
  en : Bool
  up : BitVec 3
  dn : BitVec 3
  ch : BitVec 2
  deriving DecidableEq, Repr

/-- The register snapshot of RBEGIN (R270). -/
structure Snapshot where
  g : List Word
  gFull : BitVec 32
  v : List VWord
  vFull : BitVec 16
  m1 : Word
  m2 : Word
  m3 : Word
  rnd : BitVec 3
  port : Port
  deriving DecidableEq, Repr

/-- An open region level (R266, R269); `Thread.levels` has the innermost first. `dirty` lists the accumulators written in the level (R279 step 5). -/
structure Level where
  target : BitVec 19
  limit : BitVec 4
  count : BitVec 4
  mark : Nat
  snapshot : Snapshot
  dirty : List Nat
  deriving DecidableEq, Repr

/-- A preserved range (R272). -/
structure PRange where
  base : Word
  len : Nat
  level : Nat
  deriving DecidableEq, Repr

/-! ### Threads -/

/-- Which queued products of its core's matrix unit an instruction waits for (R396, R200, R410): those of its thread that write
an accumulator, all of its thread, those that decode with a codebook register, all. -/
inductive Products where
  | acc (ad : BitVec 3)
  | own
  | book (n : BitVec 3)
  | all
  deriving DecidableEq, Repr

/-- What a TLBINV waits for (R171 step 3), as it stood at its issue: an access by its thread and that thread's count of issues,
a command by its owner and its issue, a pending store by its thread, place and cycle, a deferred publication by its thread
and record. -/
inductive Awaited where
  | access (uid issued : Nat)
  | command (owner issue : Nat)
  | store (owner loc since : Nat)
  | record (uid off : Nat)
  deriving DecidableEq, Repr

/-- What an instruction that is executed again keeps of its issue: the attributes of A and B and the codebooks (R166, R200), the
bytes of a shape record with its ROWS array and the tag (R417), the attributes of the lanes of a vector load that lie in local memory
(R166), the pump and page of a PUMP (R419), the bytes of a job's descriptor that has been read (R430). -/
inductive AtIssue where
  | operands (attrA attrB : BitVec 9) (books : List (List (BitVec 16)))
  | record (bytes : List (BitVec 8)) (rows : Option (List Word)) (tag : Word)
  | lanes (attrs : List (Nat × BitVec 9))
  | pump (io page : Nat) (resident : Bool)
  | descriptor (bytes : List (BitVec 8))
  deriving DecidableEq, Repr

/-- What a parked thread that will execute its instruction again waits for (R135). -/
inductive Wait where
  /-- The empty ones among its g and v sources (R318). -/
  | register (gs : List (BitVec 5)) (vs : List Nat)
  | page (asid : BitVec 8) (page : Nat)
  | seal (die base : Nat)
  | products (which : Products)
  /-- MMRT: every word of its A block full, every line of its B columns ready (R402 step 1). -/
  | operands (cluster : Bool) (aOff bOff : Nat)
  | rotationBuffer
  | pinQueue (queue order : Nat)
  /-- Its end, by a trap or a detected error, follows within the step. -/
  | settling
  | mailbox
  | jobNumber
  | arrivalQueue (io : Nat)
  | commands
  /-- What remains acts on other cores and follows the issues of its cycle (R140, R148). -/
  | issues
  /-- A plain store of its thread is to be performed first, and follows a request that has reached its home (R228, R238). -/
  | stores
  /-- Items that its rollback pushes again have no room yet (R88, R97). -/
  | repushes
  deriving DecidableEq, Repr

/-- A queued product (R396): its owner, accumulator, formats, and its operands as they stand at issue. -/
structure Product where
  owner : Nat
  ad : BitVec 3
  dist : Bool
  attrA : BitVec 9
  attrB : BitVec 9
  a : List Byte
  b : List Byte
  scaleA : List Byte
  scaleB : List Byte
  bookA : List (BitVec 16)
  bookB : List (BitVec 16)
  /-- The tile that the product consumed to zero, freed when it has been read (R186): die, base, generation. -/
  frees : Option (Nat × Nat × BitVec 12)
  deriving DecidableEq, Repr

/-- Why a thread is parked (R135), with what completes it. `order` numbers the waiters of a home by arrival (R236). -/
inductive Park where
  /-- The instruction is executed again on the wake. -/
  | retry (w : Wait)
  /-- A TLB miss; WALK_COMPLETE decides it (R168). -/
  | walk (va : Word) (read write : Bool)
  /-- An access that has left the core; ACCESS_COMPLETION performs it. -/
  | access (r : Req)
  /-- An access on its way to another core's local memory; REMOTE_ACCESS decides it (R151). -/
  | remote (r : Req)
  /-- Waiting at the home on the full bit, or on the word's value (R235, R241). -/
  | home (r : Req) (order : Nat)
  /-- WPOP on an empty worklist (R82). -/
  | pop (wl : Nat) (d : BitVec 5) (order : Nat)
  /-- A push to module `m` that cannot linearise or enter its shadow (R88, R94); `since` for its timeout (R91). -/
  | push (m : Nat) (p : Push) (since order : Nat)
  /-- A TALLOC waiter (R181). -/
  | talloc (d : BitVec 5) (req : Word) (die order : Nat)
  /-- GBAR, arrived (R428). -/
  | gbar
  /-- TCSWAP of a slot, by its number, with a context: its thread finishes what it must first (R257). -/
  | swap (slot context : Nat) (operand : Word)
  /-- SEND: the message, the number of its last refused attempt, 0 before the first, and the cycle of the next (R145);
  `buffered` unless it has been refused and holds no entry of the retry buffer. -/
  | send (m : Message) (attempt due : Nat) (buffered : Bool)
  /-- A division or square root on its way: the register and its value (R135). -/
  | divide (d : BitVec 5) (value : Word) (flags : BitVec 6)
  | vdivide (d : BitVec 5) (value : VWord) (flags : BitVec 6)
  /-- A product that waits for an entry of the unit's queue (R396); of an MMRT with its rotation (R402). -/
  | enqueue (p : Product) (rotation : Option Handoff) (order : Nat)
  /-- MMRT after its product was queued (R402). -/
  | product (h : Handoff) (ad : BitVec 3)
  /-- MMRT after its product, the rotation buffer still busy (R402 step 3). -/
  | handoff (h : Handoff)
  /-- MTOPK: the states to write and the flags (R413). -/
  | select (writes : List (Nat × List Byte)) (flags : BitVec 6)
  /-- A result for POUT whose downstream queue is full (R319, R142), and the PC that follows the instruction. -/
  | pout (core queue : Nat) (value : Word) (order : Nat) (next : BitVec 19)
  /-- Its accesses, or the access to a register away from its core, are on their way back (R135); the result it brings. -/
  | ending (result : Option (BitVec 5 × Word))
  /-- At the store comparator or the full load-value queue: the instruction is executed when the trailing thread has reached
  it (R262). -/
  | compare
  /-- JWAIT on the DONE word (R431). -/
  | jwait (job : Nat) (d : BitVec 5) (r : Req) (order : Nat)
  /-- TLBINV until what was translated through the entries it has removed has been performed (R171). -/
  | invalidate (awaited : List Awaited)
  deriving DecidableEq, Repr

/-- The trailing thread of a redundant pair, as it differs from the leading one (R262): the instructions that it has still to
issue, each with whether it takes a value from the load-value queue and with the fills that entered the queue behind it; when it
may issue, its issues and its turns. -/
structure Trail where
  lag : List (Bool × Nat)
  readyAt : Nat
  issued : Nat
  phase : Nat
  deriving DecidableEq, Repr

/-- A pending hint: its kind and its data (R309). -/
structure Hint where
  kind : BitVec 2
  data : BitVec 24
  deriving DecidableEq, Repr

/-- A thread: its registers (R137), trap registers (R254), region state (R266 to R270) and issue state (R131). -/
structure Thread where
  uid : Nat
  g : List Word
  gFull : BitVec 32
  v : List VWord
  vFull : BitVec 16
  m1 : Word
  m2 : Word
  m3 : Word
  acc : List Acc
  pc : BitVec 19
  rnd : BitVec 3
  fpst : BitVec 14
  wab : BitVec 12
  slpreq : BitVec 2
  port : Port
  -- trap registers
  sv : Bool
  psv : Bool
  hnd : Bool
  pair : Bool
  epc : BitVec 19
  trapc : BitVec 10
  trapv : Word
  -- identity
  job : BitVec 16
  gang : BitVec 14
  index : BitVec 14
  /-- The slot from which the context was saved last, which is kept for the supervisor alone (R447, R258). -/
  tid : BitVec 4
  asid : BitVec 8
  -- regions
  rgnSize : BitVec 12
  rgnBase : BitVec 38
  rtryTotal : BitVec 16
  levels : List Level
  fill : Nat
  ranges : List PRange
  undo : List (Nat × UndoRec)
  committed : Bool
  /-- The parked instruction is an outermost REND that waits on its oldest deferred publication (R277). -/
  closing : Bool
  -- issue
  fetchBuf : Option (Nat × List Byte)
  hints : List Hint
  park : Option Park
  /-- The flit that the parked instruction took from PIN (R318), by queue; withdrawal and traps give it back. -/
  taken : Option (Nat × Word)
  /-- The job whose count a withdrawn push has raised; its reissue does not raise it again (R96). -/
  counted : Option Nat
  /-- What an instruction that is executed again took at its issue. -/
  atIssue : Option AtIssue
  /-- A result for POUT that a withdrawn instruction still owes, all else of it done, with the PC that follows (R143). -/
  owed : Option (Word × BitVec 19)
  /-- The floating-point flags of a result for POUT that waits for room: they are raised with it (R368). -/
  late : BitVec 6
  /-- The slot has stopped issuing for a swap-out (R257 step 1). -/
  stopping : Bool
  /-- It executes again an instruction that a swap-out lets complete (R257). -/
  again : Bool
  halted : Bool
  departed : Bool
  lastIssue : Option Nat
  readyAt : Nat
  yieldTo : List Nat
  yieldEnd : Nat
  skipPhase : Nat
  /-- Its context read back with an uncorrectable error: its first instruction consumes one (R259). -/
  spoiled : Bool
  /-- Registers that an upset has left with bad parity (R260). -/
  badG : BitVec 32
  badV : BitVec 16
  trail : Trail
  /-- The fills of a cycle (R140): the cycle, the register, a v register when the flag is set, and its value. -/
  filled : List (Nat × Bool × Nat × BitVec 512)
  issued : Nat
  residentFrom : Nat
  residentSum : Nat
  deriving DecidableEq, Repr

/-- A thread slot (R130). A redundant pair is one thread in its leading slot; its other slot is `trailing`, and what sets the
trailing thread apart is the leading one's `trail` (R262). -/
inductive Slot where
  | empty
  | held (gang : Nat)
  | busy (t : Thread)
  | trailing (lead : Nat)
  | retiring (gang : Nat)
  deriving DecidableEq, Repr

/-! ### Cores -/

/-- A cached translation (R168): the space, the first address and the size of the page, its leaf entry and where that
entry lies. -/
structure Trans where
  asid : BitVec 8
  base : Nat
  size : Nat
  leaf : BitVec 64
  entry : Nat
  deriving DecidableEq, Repr

/-- The rotation in a core's buffer (R402 step 5): what is captured, and which half is still to be delivered. -/
structure Rotation where
  cluster : Bool
  aOff : Nat
  bOff : Nat
  attrA : BitVec 9
  attrB : BitVec 9
  a : List Byte
  scaleA : List Byte
  b : List Byte
  scaleB : List Byte
  /-- The 64-byte units of the A block and of the B columns that are poisoned (R60), by number. -/
  aBad : List Nat
  bBad : List Nat
  aSent : Bool
  bSent : Bool
  deriving DecidableEq, Repr

/-- A code tag (R111). -/
structure CodeTag where
  image : Word
  len : Nat
  loadOff : Nat
  used : Nat
  deriving DecidableEq, Repr

structure Core where
  codebooks : List (List (BitVec 16))
  bsfmt : BitVec 9
  tsfmt : BitVec 9
  lmfmt : List (BitVec 9)
  lmwin : List Word
  delay : BitVec 4
  maxd : BitVec 2
  asleep : BitVec 2
  /-- The cycle from which the core is awake again after its last sleep (R152). -/
  awakeAt : Nat
  svec : BitVec 17
  tcxBase : BitVec 40
  tcxCount : BitVec 10
  /-- The thread-context cache, most recently used first (R256), by context number; an empty context too is cached. -/
  ctxCache : List (Nat × Option Thread)
  /-- What the device keeps of contexts that lie in the area, by address there (R258). -/
  ctxArea : NatMap Thread
  mailbox : List (BitVec 256)
  /-- Messages of completions that wait for room (R418), with the thread that issued the command. -/
  mailPending : List (Nat × BitVec 256)
  queues : NatMap (List Word)
  tags : List CodeTag
  lastSlot : Nat
  freeAt : Nat
  products : List Product
  rotation : Option Rotation
  tlb : List Trans
  debugArmed : Bool
  /-- The cycle in which its last resident thread left (R152). -/
  leftAt : Nat
  /-- The accumulators of threads that have ended, as they left them, by slot (R466): no instruction reads them. -/
  leftAcc : NatMap (List Acc)
  injection : Option Nat
  deriving DecidableEq, Repr

/-! ### Compute dies -/

/-- A live tile (R175 to R178, R184): its base offset in the die's tile store. -/
structure Tile where
  base : Nat
  cls : Nat
  part : Nat
  gen : BitVec 12
  count : BitVec 12
  persistent : Bool
  sealed : Bool
  scope : BitVec 4
  job : Nat
  freePending : Bool
  /-- The thread whose count-down last reached zero. -/
  zeroBy : Nat
  deriving DecidableEq, Repr

/-- An HBM channel (R56, R61). -/
structure Channel where
  transfers : Nat
  /-- By lane: failures counted, and the address of the last failing transfer. -/
  failures : NatMap (Nat × Nat)
  spares : Nat
  /-- Lanes whose count has reached 3 and that wait for the next refresh interval, with that address (R61). -/
  due : List (Nat × Nat)
  deriving DecidableEq, Repr

/-- What the reading of a template at an item's pop comes to (R105); none when the item has none to read. -/
inductive TemplateRead where
  | none
  | bad
  | away
  | found (bytes : List Byte)
  deriving DecidableEq, Repr

structure Die where
  tpOpen : Bool
  tpLow : Nat
  tpmin : List Nat
  tpcap : List Nat
  tiles : List Tile
  gens : NatMap (BitVec 12)
  slots : NatMap BankSlot
  clmap : List (BitVec 5)
  rakecfg : BitVec 64
  rakeLast : Nat
  /-- Worklists the rake refrains from, with the cycle at which it may pop them again (R112). -/
  backoff : NatMap Nat
  /-- Items handed over by other rakes, with the rake's die, the worklist they came from, and what the reading of their
  template at the pop came to (R105, R108). -/
  rakeIn : List (Nat × Nat × Entry × TemplateRead)
  elogBase : BitVec 25
  elogJob : BitVec 16
  elogWl : BitVec 6
  elogNote : Bool
  elogEn : Bool
  /-- Records ever written to the array log and to the transfer log (R64). -/
  arrayRecords : Nat
  transferRecords : Nat
  harrowRate : BitVec 4
  harrowEn : Bool
  uncor : BitVec 32
  cor : BitVec 32
  tcache : List Trans
  /-- The issue-skip factor that the die asks for (R16, R117). -/
  skip : BitVec 3
  deriving DecidableEq, Repr

/-! ### I/O dies and links -/

/-- An inbound move in flight (R70): the page, its entry and slot, its completions and arrivals in request order. -/
structure Move where
  asid : BitVec 8
  page : Nat
  entry : Nat
  old : BitVec 64
  slot : Nat
  frame : Option Nat
  /-- Completions of PUMPs: thread, register (`none`: a mailbox message), the core, and the thread's count of issues. -/
  fills : List (Nat × Option (BitVec 5) × Nat × Nat)
  arrivals : List Push
  deriving DecidableEq, Repr

structure Io where
  ringLogN : BitVec 6
  ringBase : BitVec 40
  ringEn : Bool
  ringHead : BitVec 32
  /-- The pump has stopped taking frames (R159). -/
  ringStopped : Bool
  spareFrames : List Nat
  moves : List Move
  arrivalsUsed : Nat
  /-- Shadow entries: target module, worklist, item, cycle of entry (R94), oldest first. -/
  shadows : List (Nat × Nat × Item × Nat)
  /-- Items lost, by target module and job (R95). -/
  lost : NatMap Nat
  /-- Frames returned to the supervisor by outbound moves (R69). -/
  returned : List Nat
  deriving DecidableEq, Repr

/-- A packet of a parked request on its way (R21 to R24): the thread and its count of issues, the node it goes to, the node
that holds it whole (Machine/Route.lean), and the flits that the next link has accepted of it. -/
structure Carried where
  uid : Nat
  issued : Nat
  dest : Nat
  node : Nat
  link : Nat
  flits : Nat
  deriving DecidableEq, Repr

/-- A packet of another module in this one (R22, R24, R30): what it asks, the node that it goes to and the node that holds it
whole, the flits that its next link has accepted, the cycle in which it came, and, once it waits at its home for the full bit,
its order of arrival there (R236). -/
structure Inbound where
  who : Asker
  loc : Nat
  op : CargoOp
  dest : Nat
  node : Nat
  link : Nat
  flits : Nat
  since : Nat
  order : Option Nat
  deriving DecidableEq, Repr

/-- A die bridge or fabric link (R18 to R29). -/
structure LinkState where
  rebuild : BitVec 16
  replay : BitVec 16
  railBad : BitVec 5
  spares : List Nat
  retrains : BitVec 4
  state : BitVec 2
  /-- Sequence number of the first flit that has not been accepted, and the flits accepted beyond it (R20), each with
  its packet. -/
  expect : BitVec 12
  ahead : List (BitVec 12 × FlitOf)
  /-- The packet begun that is no request of this module, and its flits that have been accepted (R24). -/
  begun : Option Cargo
  partFlits : Nat
  delivered : Nat
  /-- The flit acknowledged last, and successive replays of those after it (R23, R26). -/
  lastAck : BitVec 12
  replays : List (BitVec 12 × Nat)
  /-- Packets whose remaining flits will never arrive (R24). -/
  discarded : Nat
  /-- Failures to retrain in succession (R27), which a write to LINKSTAT does not clear. -/
  failedRetrains : Nat
  deriving DecidableEq, Repr

/-! ### Saltern, jobs and gangs -/

/-- A bittern run (R89, R90): its slot in the area, its address, and its remaining items by index. -/
structure Run where
  slot : Nat
  addr : Word
  pan : Nat
  next : Nat
  total : Nat
  leastKey : BitVec 32
  /-- Push orders of the items in the run, in run order (R87 item 2 breaks ties by them). -/
  seqs : List Nat
  deriving DecidableEq, Repr

structure Worklist where
  en : Bool
  tout : BitVec 4
  scope : BitVec 4
  home : BitVec 6
  repro : Bool
  bound : BitVec 12
  runSlots : BitVec 12
  spillBase : BitVec 36
  /-- Run slots taken out of use (R92). -/
  badSlots : List Nat
  window : List Entry
  held : List Entry
  runs : List Run
  deriving DecidableEq, Repr

/-- The verdict of a job (R124). -/
inductive Verdict where
  | clean
  | corrected
  | tainted
  deriving DecidableEq, Repr

structure Job where
  live : Bool
  count : Nat
  record : Word
  table : Word
  ntempl : Nat
  scope : BitVec 4
  pod : Bool
  asid : BitVec 8
  sv : Bool
  /-- The opener: gang and thread index, while the opening reference is held or a JWAIT still waits (R430, R431). -/
  opener : Option (Nat × Nat)
  refHeld : Bool
  waited : Bool
  verdict : Verdict
  errors : Nat
  rollbacks : Nat
  reclaimed : Nat
  kills : Nat
  tasks : Nat
  resident : Nat
  issued : Nat
  /-- Modules whose flush replies are awaited, one entry for each reply (R122 step 1). -/
  flushing : List Nat
  /-- Retired, its number kept for a JWAIT (R431). -/
  kept : Bool
  pred : Option Nat
  /-- The hold area: place of its address in the job's space, capacity, pushes held, whether only the supervisor ends it. -/
  holdAddr : Word
  holdCap : Nat
  holding : List Push
  stuck : Bool
  deriving DecidableEq, Repr

structure Gang where
  job : Nat
  size : Nat
  live : List Nat
  /-- A thread of it has ended by GEXIT: it has not been killed and arrives no more (R428). -/
  exited : Bool
  arrived : List Nat
  scope : BitVec 4
  slots : List Nat
  /-- Threads to start once the image copies are complete (R111): slot and thread. -/
  starting : List (Nat × Thread)
  image : Word
  len : Nat
  loadOff : Nat
  item : Item
  wl : Nat
  /-- Accumulators that each of its slots takes. -/
  accs : Nat
  /-- The cores it was placed on, and those among them whose streamer still copies the image (R111). -/
  cores : List Nat
  loads : List Nat
  /-- The die whose rake placed it, and the die whose rake popped its item (R112). -/
  rakes : Nat × Nat
  /-- The reservation that its placement used up, until it starts (R113). -/
  reserved : Option Nat
  deriving DecidableEq, Repr

/-- A row of a copy (R416): its moves, each a source place, a destination place and bytes; then the padding, each a destination
place and bytes. -/
structure CopyRow where
  moves : List (Nat × Nat × Nat)
  pads : List (Nat × Nat)
  deriving DecidableEq, Repr

/-- A copy command in flight (R415 to R418). -/
structure Copy where
  owner : Nat
  core : Nat
  d : Option (BitVec 5)
  tag : Word
  code : Nat
  recOff : Nat
  scope : BitVec 4
  rows : List CopyRow
  bytes : Nat
  /-- The space and the first addresses of the pieces of its footprint (R171). -/
  asid : BitVec 8
  vas : List Word
  /-- Its thread's count of issues, and the cycle. -/
  issue : Nat
  since : Nat
  /-- Source lines that a transfer has delivered poisoned (R59), by number. -/
  bad : List Nat
  /-- The fill offset of its thread's undo area at issue: deferred stores from there on are later than it (R276). -/
  fill : Nat
  /-- Issued in a handler: a rollback does not undo what it writes (R252). -/
  hnd : Bool
  deriving DecidableEq, Repr

def Copy.moves (c : Copy) : List (Nat × Nat × Nat) := c.rows.flatMap CopyRow.moves
def Copy.pads (c : Copy) : List (Nat × Nat) := c.rows.flatMap CopyRow.pads

/-- A unit of a plain store that the network interface has accepted and that is not yet performed (R225, R227 item 3), with
its core, its address and the cycle of its acceptance. -/
structure PendingStore where
  owner : Nat
  core : Nat
  va : Word
  since : Nat
  loc : Nat
  data : List Byte
  /-- It is part of a store of a whole aligned 64-byte unit (R341). -/
  whole : Bool
  deriving DecidableEq, Repr

/-- What follows from a step and is still to be done. -/
inductive Todo where
  /-- A job's count has reached zero (R122). -/
  | jobZero (job : Nat)
  /-- A counted push by a device block that waits for room. -/
  | push (p : Push)
  /-- The thread of that identity consumes a detected error (R260). -/
  | consume (uid : Nat) (va : Word)
  /-- The thread of that identity takes a trap at its completion (R248). -/
  | trap (uid : Nat) (cause : Nat) (value : Word)
  /-- The thread of that identity rolls back once its commands in flight have completed (R279 step 1); whether by an error. -/
  | rollback (uid : Nat) (err : Bool)
  /-- A write of a device block or walker wakes what waits on the bytes (R236, R241). -/
  | serve (p n : Nat)
  /-- A push that an already counted item makes (R97, R112, R125), and the thread that waits for it, or 0. -/
  | repush (uid wl : Nat) (item : Item) (who : Pusher) (poison : Bool)
  /-- The thread of that identity consumes a failed residue check of its product (R400). -/
  | residue (uid : Nat)
  /-- A job's completion record waits for its page (R123). -/
  | record (job : Nat)
  /-- A tile that has been consumed to zero and read is freed (R186): die, base, generation. -/
  | free (die base : Nat) (gen : BitVec 12)
  /-- A fatal error or a thermal shutdown that waits for an instruction after a hint (R264, R310): the cause. -/
  | halt (cause : Nat)
  deriving DecidableEq, Repr

/-- Whose turn is next: what the model leaves to the surroundings. -/
inductive Turn where
  /-- An event of the device or its surroundings takes place. -/
  | event (i : Instr)
  /-- Core `core` issues. -/
  | issue (core : Nat)
  /-- The pending store of that number is performed at its home. -/
  | drain (n : Nat)
  /-- Unit `n` of the load on which that slot is parked is read (R225). -/
  | early (slot n : Nat)
  /-- The access on which that slot is parked reaches its home (R238). -/
  | arrive (slot : Nat)
  /-- Time passes. -/
  | wait (cycles : Nat)
  /-- An upset leaves register `r` of the thread in that slot with bad parity (R260), a v register when `v`. -/
  | upset (slot : Nat) (v : Bool) (r : Nat)
  /-- The store comparator finds the pair in that slot apart (R260, R262). -/
  | mismatch (slot : Nat)
  /-- A single-bit error is corrected in an SRAM on its way to the thread in that slot (R260). -/
  | repaired (slot : Nat)
  /-- The intake thread of command ring `n` goes on (R47). -/
  | intake (n : Nat)
  /-- The thread in that slot goes on with an instruction that acts on other cores (R140, R148). -/
  | resume (slot : Nat)
  /-- Packet `n` of another module has met no path for 1 ms (R28). -/
  | stale (n : Nat)
  /-- Bring-up goes on (R48). -/
  | boot
  deriving DecidableEq, Repr

/-! ### The host's side -/

/-- SLCTL and the counts of SLSTAT (R43). -/
structure Sluice where
  en : Bool
  dropFmt : BitVec 16
  dropCred : BitVec 16
  dropItem : BitVec 16
  queue : List Item
  deriving DecidableEq, Repr

/-- A range of the HDM decoders (R469): CXL addresses and the I/O die they lie behind. -/
structure Decoder where
  base : Nat
  size : Nat
  io : Nat
  deriving DecidableEq, Repr

/-- What bring-up meets (R48): of the firmware copies A and B whether key and signature verify and the version carried,
which of the further steps fail, of the device images as made whether they verify and the version carried (by number;
unlisted: verified, version 0), the HDM decoders in the configurations of copies A and B (R469), the bridges and fabric links that do not train (R35 numbers), the attempts at training
MHL that fail yet, the spare core of each cluster (R172), the number of device images beside the firmware. -/
structure BootPlan where
  copyA : Bool × BitVec 32
  copyB : Bool × BitVec 32
  hbmFails : Bool
  dieFails : Bool
  down : List Nat
  mhlFails : Nat
  made : NatMap (Bool × BitVec 32)
  treeFails : Bool
  spares : List (BitVec 5)
  images : Nat
  decoders : List Decoder
  decodersB : List Decoder
  deriving DecidableEq, Repr

/-- The intake thread of a command ring (R47): head and last tail seen, a push that has been issued and waits,
and whether its accesses to the ring have faulted (R159). -/
structure RingThread where
  head : BitVec 32
  seen : BitVec 32
  /-- Module, push and the cycle of its issue. -/
  pushing : Option (Nat × Push × Nat)
  faulted : Bool
  deriving DecidableEq, Repr

/-- The module. -/
structure State where
  -- turns and free values (the model's own)
  cur : Nat × Nat
  agenda : List Turn
  devTurn : Bool
  turnNo : Nat
  fresh : Nat
  nextUid : Nat
  todo : List Todo
  now : Nat
  /-- The first cycle in which a core may issue: the events of a cycle follow its issues (R140, R148). -/
  issueFrom : Nat
  -- memory
  mem : Memory
  emptyWords : List Nat
  poisoned : List Nat
  notReady : List Nat
  stores : List PendingStore
  /-- Units of loads on their way that have been read (R225): thread, its count of issues, place, bytes. -/
  seen : List (Nat × Nat × Nat × List Byte)
  /-- Accesses that have reached their home and wait for an earlier one to their location (R238): thread, its count of
  issues. -/
  arrived : List (Nat × Nat)
  -- threads, cores, dies
  slots : NatMap Slot
  cores : NatMap Core
  dies : NatMap Die
  ios : NatMap Io
  channels : NatMap Channel
  frames : NatMap (List Nat × Bool)
  links : NatMap LinkState
  carried : List Carried
  inbound : List Inbound
  /-- Spare fabric links: the partners that they are wired to, and those assigned in the place of links taken down (R31). -/
  spareWires : NatMap Nat
  inService : List Nat
  decoders : List Decoder
  /-- Lines that a transfer has delivered poisoned to a request on its way (R59): thread, its count of issues, line. -/
  badTransfers : List (Nat × Nat × Nat)
  /-- Lines that a transfer delivers poisoned to the next read of a walker, a device block or the host (R59). -/
  badReads : List Nat
  -- saltern, jobs
  worklists : NatMap Worklist
  sluices : NatMap Sluice
  /-- Numbers pushes (R87) and waiters by their order of arrival. -/
  pushSeq : Nat
  jobs : NatMap Job
  gangs : NatMap Gang
  slotres : NatMap (Bool × BitVec 8)
  noteJob : BitVec 16
  noteWl : BitVec 6
  noteEn : Bool
  asroot : NatMap (Bool × BitVec 37)
  copies : List Copy
  -- other modules
  /-- WLCFG.TOUT of their worklists, by module × 64 + worklist (R91, R94). -/
  podTout : NatMap (BitVec 4)
  modNum : Nat
  pod : List Nat
  shadowOut : List (Nat × Nat × List Item)
  /-- Flush requests of other modules for their jobs (R122): module and job, not yet answered; and the answers given, with
  the items lost. -/
  flushAsked : List (Nat × Nat)
  flushOut : List (Nat × Nat × Nat)
  -- management core and host
  status : BitVec 3
  /-- STATE has reached 2 since the last reset (R49). -/
  ready : Bool
  booterr : BitVec 4
  snap : Bool
  snapLost : BitVec 4
  /-- The cycle of the last assertion of the snapshot trigger (R55). -/
  snapAt : Option Nat
  topleft : BitVec 16
  mbxGo : Bool
  mbxDone : Bool
  hostId : Option Nat
  hostRead : List Byte
  /-- The bytes last delivered to the host are marked poisoned (R59, R60). -/
  hostPoison : Bool
  fusedMin : BitVec 32
  fwVersion : BitVec 32
  lowerLeft : Nat
  /-- Images committed to the non-volatile store (R54), by number: 0 and 1 firmware copies, 2 intake program, 3 on others. -/
  images : NatMap (List Byte)
  /-- The images loaded at bring-up, in load order: number, and bytes when committed. -/
  loaded : List (Nat × Option (List Byte))
  boot : BootPlan
  /-- The intake threads of the command rings (R47), by ring. -/
  rings : NatMap RingThread
  /-- MHL has trained; the cycle of the last attempt that failed (R48). -/
  mhl : Bool
  mhlTried : Nat
  /-- The steps of bring-up that are still to come (R48): 0 none, 1 all, from 2 on steps 3 to 6, with firmware copy A (2) or B (3)
  loaded. -/
  booting : Nat
  excessSince : Option Nat
  powerSkip : BitVec 3
  stopped : Bool
  deriving DecidableEq, Repr

/-! ### How a step can stop -/

/-- A stop that is not an outcome of the machine. -/
inductive Fault where
  /-- Raised by the meaning of a word when the slot `State.cur` names holds no resident thread: only step issues, and
  it issues for a resident thread, so no run meets it. Safe. -/
  | noThread
  deriving DecidableEq, Repr

/-- What the model declines to give a meaning. -/
inductive Refusal where
  /-- Raised by an arm of exec that has no meaning yet. Safe. -/
  | notModelled (mnemonic : String)
  deriving DecidableEq, Repr

/-! ### Reset -/

/-- A core after module reset: R153, R199, R395, R394; the slot that issued last is 15 (log entry 3). -/
def Core.reset : Core where
  codebooks := List.replicate 8 (List.replicate 16 0)
  bsfmt := 0
  tsfmt := 0
  lmfmt := [0, 0, 0, 0]
  lmwin := [0, 0, 0, 0]
  delay := 4
  maxd := 1
  asleep := 0
  awakeAt := 0
  svec := 0
  tcxBase := 0
  tcxCount := 0
  ctxCache := []
  ctxArea := []
  mailbox := []
  mailPending := []
  queues := []
  tags := []
  lastSlot := 15
  freeAt := 0
  products := []
  rotation := none
  tlb := []
  debugArmed := false
  leftAt := 0
  leftAcc := []
  injection := none

/-- A compute die after module reset: R176, R182, R261; CLMAP, generations and the rake's turn by log entry 3. -/
def Die.reset : Die where
  tpOpen := false
  tpLow := 64
  tpmin := List.replicate 16 0
  tpcap := List.replicate 16 0
  tiles := []
  gens := []
  slots := []
  clmap := List.replicate 8 16
  rakecfg := 0
  rakeLast := 63
  backoff := []
  rakeIn := []
  elogBase := 0
  elogJob := 0
  elogWl := 0
  elogNote := false
  elogEn := false
  arrayRecords := 0
  transferRecords := 0
  harrowRate := 8
  harrowEn := true
  uncor := 0
  cor := 0
  tcache := []
  skip := 0

def Io.reset : Io where
  ringLogN := 0
  ringBase := 0
  ringEn := false
  ringHead := 0
  ringStopped := false
  spareFrames := []
  moves := []
  arrivalsUsed := 0
  shadows := []
  lost := []
  returned := []

def Channel.reset : Channel where
  transfers := 0
  failures := []
  spares := 2
  due := []

/-- A link after reset (R29): down; 2 spare lanes on each rail of a bridge, 1 on each of a fabric link (R18). -/
def LinkState.reset (n : Nat) : LinkState where
  rebuild := 0
  replay := 0
  railBad := 0
  spares := List.replicate 5 (if n < 14 then 2 else 1)
  retrains := 0
  state := 0
  expect := 0
  ahead := []
  begun := none
  partFlits := 0
  delivered := 0
  lastAck := 0xFFF
  replays := []
  discarded := 0
  failedRetrains := 0

/-- A worklist after reset (R98, R100): disabled, SCOPE .mo. -/
def Worklist.reset : Worklist where
  en := false
  tout := 0
  scope := 5
  home := 0
  repro := false
  bound := 0
  runSlots := 0
  spillBase := 0
  badSlots := []
  window := []
  held := []
  runs := []

def Sluice.reset : Sluice where
  en := false
  dropFmt := 0
  dropCred := 0
  dropItem := 0
  queue := []

/-- A job number that is free (R118). -/
def Job.free : Job where
  live := false
  count := 0
  record := 0
  table := 0
  ntempl := 0
  scope := 5
  pod := false
  asid := 0
  sv := false
  opener := none
  refHeld := false
  waited := false
  verdict := .clean
  errors := 0
  rollbacks := 0
  reclaimed := 0
  kills := 0
  tasks := 0
  resident := 0
  issued := 0
  flushing := []
  kept := false
  pred := none
  holdAddr := 0
  holdCap := 0
  holding := []
  stuck := false

def BankSlot.reset : BankSlot where
  sum := 0
  nan := false
  pinf := false
  ninf := false
  posOnly := true
  negOnly := true

/-- The state of a thread whose gang has just been placed (R114), g1 to g4 still zero. -/
def Thread.start (uid : Nat) : Thread where
  uid := uid
  g := List.replicate 32 0
  gFull := BitVec.allOnes 32
  v := List.replicate 16 0
  vFull := BitVec.allOnes 16
  m1 := 0
  m2 := 0
  m3 := 0
  acc := []
  pc := 0
  rnd := 0
  fpst := 0
  wab := 0
  slpreq := 2
  port := ⟨false, 0, 0, 0⟩
  sv := false
  psv := false
  hnd := false
  pair := false
  epc := 0
  trapc := 0
  trapv := 0
  job := 0
  gang := 0
  index := 0
  tid := 0
  asid := 0
  rgnSize := 0
  rgnBase := 0
  rtryTotal := 0
  levels := []
  fill := 512
  ranges := []
  undo := []
  committed := false
  closing := false
  fetchBuf := none
  hints := []
  park := none
  taken := none
  counted := none
  atIssue := none
  owed := none
  late := 0
  stopping := false
  again := false
  halted := false
  departed := false
  lastIssue := none
  readyAt := 0
  yieldTo := []
  yieldEnd := 0
  skipPhase := 0
  spoiled := false
  badG := 0
  badV := 0
  trail := ⟨[], 0, 0, 0⟩
  filled := []
  issued := 0
  residentFrom := 0
  residentSum := 0

/-- Where HBM, the CXL tier and the tile stores lie among the places of memory (`Place` in Machine/Store.lean): their
contents after reset are open (R468), those of local memory, B stores and codebooks are zero. -/
def openAtReset : List Span :=
  [⟨0x0100_0000_0000_0000, 0x0100_0000_0000_0000, 0⟩,
   ⟨0x0200_0000_0000_0000, 0x0100_0000_0000_0000, 0⟩,
   ⟨0x0300_0000_0000_0000, 0x0100_0000_0000_0000, 0⟩]

/-- A bring-up in which every step passes (log entry 3). -/
def BootPlan.reset : BootPlan where
  copyA := (true, 0)
  copyB := (true, 0)
  hbmFails := false
  dieFails := false
  down := []
  mhlFails := 0
  made := []
  treeFails := false
  spares := List.replicate 64 16
  images := 1
  decoders := [⟨0, 2 ^ 48, 0⟩, ⟨2 ^ 48, 2 ^ 52 - 2 ^ 48, 1⟩]
  decodersB := [⟨0, 2 ^ 48, 0⟩, ⟨2 ^ 48, 2 ^ 52 - 2 ^ 48, 1⟩]

/-- The module right after reset (R36 STATE 0): nothing booted, no thread, no job. -/
def State.reset : State where
  cur := (0, 0)
  agenda := []
  devTurn := false
  turnNo := 0
  fresh := 0
  nextUid := 1
  todo := []
  now := 0
  issueFrom := 0
  mem := ⟨[], openAtReset⟩
  emptyWords := []
  poisoned := []
  notReady := []
  stores := []
  seen := []
  arrived := []
  slots := []
  cores := []
  dies := []
  ios := []
  channels := []
  frames := []
  links := []
  carried := []
  inbound := []
  spareWires := []
  inService := []
  decoders := []
  badTransfers := []
  badReads := []
  worklists := []
  sluices := []
  pushSeq := 0
  jobs := []
  gangs := []
  slotres := []
  noteJob := 0
  noteWl := 0
  noteEn := false
  asroot := []
  copies := []
  podTout := []
  modNum := 0
  pod := [0]
  shadowOut := []
  flushAsked := []
  flushOut := []
  status := 0
  ready := false
  booterr := 0
  snap := false
  snapLost := 0
  snapAt := none
  topleft := 32768
  mbxGo := false
  mbxDone := false
  hostId := none
  hostRead := []
  hostPoison := false
  fusedMin := 0
  fwVersion := 0
  lowerLeft := 0
  images := []
  loaded := []
  boot := BootPlan.reset
  rings := []
  mhl := false
  mhlTried := 0
  booting := 0
  excessSince := none
  powerSkip := 0
  stopped := false

end Sys2Proof.Machine
end

