-- ==== Sys2Proof/Machine/Store.lean ====
section
/-!
DEFINITION. Reading and writing plain state: maps by number, memory, full bits and poison, and the slots, cores and
dies of a state.
-/
namespace Sys2Proof.Machine

/-! ### Maps by number -/

/-- The value of `k`, or the default. -/
def NatMap.get {α : Type} (m : NatMap α) (k : Nat) (dflt : α) : α :=
  match m with
  | [] => dflt
  | (k', v) :: rest => if k' = k then v else NatMap.get rest k dflt

/-- The map with `v` at `k`. -/
def NatMap.set {α : Type} (m : NatMap α) (k : Nat) (v : α) : NatMap α :=
  match m with
  | [] => [(k, v)]
  | (k', v') :: rest =>
    if k < k' then (k, v) :: (k', v') :: rest
    else if k = k' then (k, v) :: rest
    else (k', v') :: NatMap.set rest k v

/-- The map without `k`. -/
def NatMap.drop {α : Type} (m : NatMap α) (k : Nat) : NatMap α :=
  m.filter fun e => decide (e.1 ≠ k)

/-- A sorted list of numbers with `k` in it. -/
def insertNat (l : List Nat) (k : Nat) : List Nat :=
  match l with
  | [] => [k]
  | x :: rest => if k < x then k :: x :: rest else if k = x then x :: rest else x :: insertNat rest k

/-! ### Bytes -/

/-- The number whose little-endian bytes these are (R5). -/
def ofBytes (bytes : List Byte) : Nat :=
  bytes.foldr (fun b n => b.toNat + 256 * n) 0

/-- The `n` little-endian bytes of a number (R5). -/
def toBytes (n x : Nat) : List Byte :=
  match n with
  | 0 => []
  | n + 1 => BitVec.ofNat 8 x :: toBytes n (x / 256)

/-- The word in 8 bytes. -/
def wordOf (bytes : List Byte) : Word := BitVec.ofNat 64 (ofBytes bytes)

/-- Bits `[hi:lo]` of a number. -/
def bitsOf (x hi lo : Nat) : Nat := x / 2 ^ lo % 2 ^ (hi + 1 - lo)

/-- Field `[hi:lo]` of `old` replaced by `v`. -/
def setBits (old hi lo v : Nat) : Nat :=
  old - bitsOf old hi lo * 2 ^ lo + v % 2 ^ (hi + 1 - lo) * 2 ^ lo

/-- CRC-32C (Castagnoli), reflected, as R68 names it. -/
def crc32cByte (crc : BitVec 32) (b : Byte) : BitVec 32 :=
  let step (c : BitVec 32) : BitVec 32 :=
    if c.getLsbD 0 then (c >>> 1) ^^^ 0x82F63B78#32 else c >>> 1
  step (step (step (step (step (step (step (step (crc ^^^ b.zeroExtend 32))))))))

def crc32c (bytes : List Byte) : BitVec 32 :=
  ~~~ (bytes.foldl crc32cByte (BitVec.allOnes 32))

/-! ### Memory -/

/-- The open span that covers an address, if any. -/
def Memory.spanAt (m : Memory) (a : Nat) : Option Span :=
  m.spans.find? fun sp => decide (sp.base ≤ a ∧ a < sp.base + sp.len)

/-- What an unlisted address reads as: open contents in an open span, zero elsewhere (log entry 2). -/
def Memory.unlisted (m : Memory) (a : Nat) : Byte :=
  match m.spanAt a with
  | some sp => Config.openByte sp.tag a
  | none => 0

/-- The listed byte at `a`, if there is one. -/
def listedAt (cells : List Host.Cell) (a : Nat) : Option Byte :=
  (cells.find? fun c => decide (c.1 = a)).map (·.2)

/-- The byte at address `a`. -/
def Memory.byte (m : Memory) (a : Nat) : Byte :=
  (listedAt m.cells a).getD (m.unlisted a)

/-- The bytes at `a, …, a + n - 1`, in pieces of 64 so that a long read looks at each cell few times. -/
def Memory.read (m : Memory) (a n : Nat) : List Byte :=
  let near := m.cells.filter fun c => decide (a ≤ c.1 ∧ c.1 < a + n)
  (List.range ((n + 63) / 64)).flatMap fun k =>
    let lo := a + 64 * k
    let len := Nat.min 64 (n - 64 * k)
    let nearer := near.filter fun c => decide (lo ≤ c.1 ∧ c.1 < lo + len)
    (List.range len).map fun i => (listedAt nearer (lo + i)).getD (m.unlisted (lo + i))

/-- A span without the stretch `[a, a + n)`. -/
def Span.carve (sp : Span) (a n : Nat) : List Span :=
  if a + n ≤ sp.base ∨ sp.base + sp.len ≤ a then [sp]
  else
    (if sp.base < a then [{ sp with len := a - sp.base }] else []) ++
      (if a + n < sp.base + sp.len then [{ sp with base := a + n, len := sp.base + sp.len - (a + n) }] else [])

/-- The list entries of bytes from `a` on: a zero is not listed. -/
def listing (a : Nat) (bytes : List Byte) : List Host.Cell :=
  match bytes with
  | [] => []
  | b :: rest => if b = 0 then listing (a + 1) rest else (a, b) :: listing (a + 1) rest

/-- Memory with these bytes from `a` on. -/
def Memory.write (m : Memory) (a : Nat) (bytes : List Byte) : Memory :=
  if bytes = [] then m
  else
    { cells := (m.cells.filter fun c => decide (c.1 < a)) ++ listing a bytes ++
        (m.cells.filter fun c => decide (a + bytes.length ≤ c.1))
      spans := m.spans.flatMap fun sp => sp.carve a bytes.length }

/-- The spans with a new one in its place by base. -/
def insertSpan (spans : List Span) (new : Span) : List Span :=
  match spans with
  | [] => [new]
  | sp :: rest => if new.base < sp.base then new :: sp :: rest else sp :: insertSpan rest new

/-- Memory whose contents at `[a, a + n)` have become open. -/
def Memory.forget (m : Memory) (a n tag : Nat) : Memory :=
  if n = 0 then m
  else
    { cells := (m.cells.filter fun c => decide (c.1 < a)) ++ (m.cells.filter fun c => decide (a + n ≤ c.1))
      spans := insertSpan (m.spans.flatMap fun sp => sp.carve a n) ⟨a, n, tag⟩ }

/-- Memory with zeros at `[a, a + n)`. -/
def Memory.wipe (m : Memory) (a n : Nat) : Memory where
  cells := (m.cells.filter fun c => decide (c.1 < a)) ++ (m.cells.filter fun c => decide (a + n ≤ c.1))
  spans := m.spans.flatMap fun sp => sp.carve a n

/-- Addresses strictly rising. -/
def rising : List Host.Cell → Bool
  | [] => true
  | [_] => true
  | a :: b :: rest => decide (a.1 < b.1) && rising (b :: rest)

/-- Spans apart from one another, rising and not empty. -/
def apart : List Span → Bool
  | [] => true
  | [a] => decide (0 < a.len)
  | a :: b :: rest => decide (0 < a.len) && decide (a.base + a.len ≤ b.base) && apart (b :: rest)

/-- The canonical form: cells rising, none equal to what an unlisted address reads as (no zero outside the spans, no
cell inside one), spans in order. -/
def Memory.wf (m : Memory) : Bool :=
  rising m.cells && apart m.spans && m.cells.all fun c => decide (c.2 ≠ 0) && (m.spanAt c.1).isNone

/-! ### Places -/

/-- What kind of memory a place lies in. -/
inductive Tier where
  | localMem
  | tileStore
  | hbm
  | cxl
  | bStore
  | staging
  deriving DecidableEq, Repr

namespace Place

def unit : Nat := 0x0100_0000_0000_0000

/-- Local memory of core `c` (R147). -/
def lm (c off : Nat) : Nat := c * 0x8_0000 + off

/-- Tile store of die `d` (R174). -/
def tile (d off : Nat) : Nat := unit + d * 0x400_0000 + off

/-- HBM of module `m` (R57). -/
def hbm (m pa : Nat) : Nat := 2 * unit + m * 0x4_0000_0000_0000 + pa

/-- The CXL tier behind the ports of module `m` (R66). -/
def cxl (m a : Nat) : Nat := 3 * unit + m * 0x10_0000_0000_0000 + a

/-- The B store of core `c` (R394): 32 slices of 128 KiB. -/
def bstore (c off : Nat) : Nat := 4 * unit + c * 0x40_0000 + off

/-- The control window's memory: mailbox areas, descriptors and snapshot buffer (R35). -/
def control (off : Nat) : Nat := 5 * unit + off

/-- The staging buffer of ID0 (R54). -/
def staging (off : Nat) : Nat := 6 * unit + off

def tier (p : Nat) : Tier :=
  match p / unit with
  | 0 => .localMem
  | 1 => .tileStore
  | 2 => .hbm
  | 3 => .cxl
  | 4 => .bStore
  | _ => .staging

/-- The core of a place in local memory. -/
def core (p : Nat) : Nat := p / 0x8_0000

/-- The die of a place in a tile store, and its offset there. -/
def die (p : Nat) : Nat := (p - unit) / 0x400_0000
def tileOff (p : Nat) : Nat := (p - unit) % 0x400_0000

/-- The module of a place. -/
def module (p : Nat) : Nat :=
  match tier p with
  | .localMem => core p / 1024
  | .tileStore => die p / 8
  | .hbm => p % unit / 0x4_0000_0000_0000
  | .cxl => p % unit / 0x10_0000_0000_0000
  | .bStore => p % unit / 0x40_0000 / 1024
  | .staging => 0

/-- Whether words there carry full bits (R234). -/
def hasFullBits (p : Nat) : Bool :=
  match tier p with
  | .localMem | .tileStore | .hbm => true
  | _ => false

end Place

/-! ### Memory of a state -/

namespace State

def bytes (s : State) (p n : Nat) : List Byte := s.mem.read p n

def word (s : State) (p : Nat) : Word := wordOf (s.bytes p 8)

/-- The poison units that `[p, p + n)` touches. -/
def touchedUnits (p n : Nat) : List Nat :=
  if n = 0 then [] else (List.range ((p + n - 1) / 64 + 1 - p / 64)).map (· + p / 64)

/-- A write: it clears the poison of the 64-byte units it writes whole (R341). -/
def write (s : State) (p : Nat) (data : List Byte) : State :=
  { s with
    mem := s.mem.write p data
    poisoned := s.poisoned.filter fun u => decide ¬(p ≤ 64 * u ∧ 64 * u + 64 ≤ p + data.length) }

/-- The poison of the units that lie wholly in `[p, p + n)` cleared. -/
def clearPoison (s : State) (p n : Nat) : State :=
  { s with poisoned := s.poisoned.filter fun u => decide ¬(p ≤ 64 * u ∧ 64 * u + 64 ≤ p + n) }

def writeWord (s : State) (p : Nat) (w : Word) : State := s.write p (toBytes 8 w.toNat)

/-- Whether a read of `[p, p + n)` meets poison (R60). -/
def poisonIn (s : State) (p n : Nat) : Bool :=
  s.poisoned.any fun u => decide (64 * u < p + n ∧ p < 64 * u + 64)

def setPoison (s : State) (p : Nat) : State := { s with poisoned := insertNat s.poisoned (p / 64) }

/-- The full bit of the word at `p` (R234). -/
def full (s : State) (p : Nat) : Bool := !s.emptyWords.contains (p / 8)

def setFull (s : State) (p : Nat) (f : Bool) : State :=
  { s with emptyWords :=
      if f then s.emptyWords.filter fun w => decide (w ≠ p / 8) else insertNat s.emptyWords (p / 8) }

/-- Every word that `[p, p + n)` touches set full. -/
def fillWords (s : State) (p n : Nat) : State :=
  { s with emptyWords := s.emptyWords.filter fun w => decide ¬(8 * w < p + n ∧ p < 8 * w + 8) }

/-- Contents that have become open under a tag of their own. -/
def openUp (s : State) (p n : Nat) : State :=
  { s with mem := s.mem.forget p n (s.fresh + 1), fresh := s.fresh + 1 }

/-- One of `n` candidates that the spec leaves open (R9; log entry 5). -/
def choose (s : State) (n : Nat) : Nat × State :=
  if n ≤ 1 then (0, s) else (Config.pick s.fresh % n, { s with fresh := s.fresh + 1 })

/-- A follow-up for the end of the step. -/
def later (s : State) (x : Todo) : State := { s with todo := s.todo ++ [x] }

/-! ### Parts of a state -/

/-- Whether a thread waits at its home on a word of `[p, p + n)`. -/
def waitedOn (s : State) (p n : Nat) : Bool :=
  s.slots.any fun e => match e.2 with
    | .busy t => match t.park with
      | some (.home r _) | some (.jwait _ _ r _) => r.parts.any fun x => decide (p ≤ x.loc + 7) && decide (x.loc < p + n)
      | _ => false
    | _ => false

def core (s : State) (c : Nat) : Core := NatMap.get s.cores c Core.reset
def setCore (s : State) (c : Nat) (v : Core) : State := { s with cores := NatMap.set s.cores c v }
def modCore (s : State) (c : Nat) (f : Core → Core) : State := s.setCore c (f (s.core c))

def die (s : State) (d : Nat) : Die := NatMap.get s.dies d Die.reset
def setDie (s : State) (d : Nat) (v : Die) : State := { s with dies := NatMap.set s.dies d v }
def modDie (s : State) (d : Nat) (f : Die → Die) : State := s.setDie d (f (s.die d))

def io (s : State) (i : Nat) : Io := NatMap.get s.ios i Io.reset
def setIo (s : State) (i : Nat) (v : Io) : State := { s with ios := NatMap.set s.ios i v }
def modIo (s : State) (i : Nat) (f : Io → Io) : State := s.setIo i (f (s.io i))

def channel (s : State) (c : Nat) : Channel := NatMap.get s.channels c Channel.reset
def setChannel (s : State) (c : Nat) (v : Channel) : State := { s with channels := NatMap.set s.channels c v }

def link (s : State) (n : Nat) : LinkState := NatMap.get s.links n (LinkState.reset n)
def setLink (s : State) (n : Nat) (v : LinkState) : State := { s with links := NatMap.set s.links n v }

def wl (s : State) (w : Nat) : Worklist := NatMap.get s.worklists w Worklist.reset
def setWl (s : State) (w : Nat) (v : Worklist) : State := { s with worklists := NatMap.set s.worklists w v }
def modWl (s : State) (w : Nat) (f : Worklist → Worklist) : State := s.setWl w (f (s.wl w))

def sluice (s : State) (w : Nat) : Sluice := NatMap.get s.sluices w Sluice.reset
def setSluice (s : State) (w : Nat) (v : Sluice) : State := { s with sluices := NatMap.set s.sluices w v }

def job (s : State) (j : Nat) : Job := NatMap.get s.jobs j Job.free
def setJob (s : State) (j : Nat) (v : Job) : State := { s with jobs := NatMap.set s.jobs j v }
def modJob (s : State) (j : Nat) (f : Job → Job) : State := s.setJob j (f (s.job j))

def gang? (s : State) (g : Nat) : Option Gang := (s.gangs.find? fun e => decide (e.1 = g)).map (·.2)
def setGang (s : State) (g : Nat) (v : Gang) : State := { s with gangs := NatMap.set s.gangs g v }

/-- Slot `n` of core `c`. -/
def slot (s : State) (c n : Nat) : Slot := NatMap.get s.slots (c * 16 + n) .empty
def setSlot (s : State) (c n : Nat) (v : Slot) : State := { s with slots := NatMap.set s.slots (c * 16 + n) v }

/-- The thread resident in slot `n` of core `c`. -/
def threadIn (s : State) (c n : Nat) : Option Thread :=
  match s.slot c n with
  | .busy t => some t
  | _ => none

/-- The thread whose turn it is. -/
def thread? (s : State) : Option Thread := s.threadIn s.cur.1 s.cur.2

/-- The slot whose turn it is holds `t`. -/
def putThread (s : State) (t : Thread) : State := s.setSlot s.cur.1 s.cur.2 (.busy t)

def setThread (s : State) (c n : Nat) (t : Thread) : State := s.setSlot c n (.busy t)

/-- The slot of number `k` (core × 16 + slot) holds `t`. -/
def putSlot (s : State) (k : Nat) (t : Thread) : State := { s with slots := NatMap.set s.slots k (.busy t) }

/-- Every resident thread, with its slot's number (core × 16 + slot). -/
def residents (s : State) : List (Nat × Thread) :=
  s.slots.filterMap fun e => match e.2 with
    | .busy t => some (e.1, t)
    | _ => none

/-- Every thread with its core: resident, in a context cache or in a context area. -/
def everyThread (s : State) : List (Nat × Thread) :=
  s.residents.map (fun e => (e.1 / 16, e.2)) ++
    s.cores.flatMap fun e => (e.2.ctxCache.filterMap (·.2) ++ e.2.ctxArea.map (·.2)).map fun t => (e.1, t)

/-- The slot of the thread of that identity. -/
def slotOf (s : State) (uid : Nat) : Option (Nat × Thread) :=
  s.residents.find? fun e => decide (e.2.uid = uid)

/-- Change the resident thread in slot number `k`. -/
def modSlot (s : State) (k : Nat) (f : Thread → Thread) : State :=
  match NatMap.get s.slots k .empty with
  | .busy t => { s with slots := NatMap.set s.slots k (.busy (f t)) }
  | _ => s

/-- The model's numbers of a core: its module, its die and its place in the mesh (R157, R104). -/
def dieOf (c : Nat) : Nat := c / 1024 * 8 + c % 1024 / 128
def coreX (c : Nat) : Nat := c % 16
def coreY (c : Nat) : Nat := c / 16 % 8
def clusterOf (c : Nat) : Nat := dieOf c * 8 + 4 * (coreY c / 4) + coreX c / 4
def quadOf (c : Nat) : Nat := dieOf c * 32 + 8 * (coreY c / 2) + coreX c / 2

/-- A member of this pod (R30). -/
def inPod (s : State) (m : Nat) : Bool := s.pod.contains m

/-- The next number of arrival. -/
def nextOrder (s : State) : Nat × State := (s.pushSeq, { s with pushSeq := s.pushSeq + 1 })

end State

/-! ### How an instruction's meaning ends early -/

/-- A trap with its cause and value (R250), a park (R135), or a detected error that the thread consumes (R260) with
the address of its access (R251). -/
inductive Stop where
  | trap (cause : Nat) (value : Word)
  | park (p : Park)
  | error (value : Word)
  deriving DecidableEq, Repr

end Sys2Proof.Machine
end

