-- ==== Sys2Proof/Machine/Channel.lean ====
section
/-!
DEFINITION. HBM's channels: where an address lies (R57), and the transfers of 64 bytes into which a request is split, counted
by their channel (R58, R61).
-/
namespace Sys2Proof.Machine

/-- The die that owns an HBM physical address, its stack and its channel within the stack (R57). -/
def hbmDie (pa : Nat) : Nat := pa / 0x30_0000_0000
def hbmGranule (pa : Nat) : Nat := pa % 0x30_0000_0000 / 4096
def hbmStack (pa : Nat) : Nat := 3 * hbmDie pa + hbmGranule pa % 3
def hbmChannel (pa : Nat) : Nat := hbmGranule pa / 3 % 32

/-- The channel of a stack among the channels of the module. -/
def channelKey (stack channel : Nat) : Nat := stack * 32 + channel

/-- The physical address of a place in this module's HBM. -/
def hbmAddress (s : State) (p : Nat) : Option Nat :=
  if Place.tier p = .hbm ∧ Place.module p = s.modNum then some (p % Place.unit % 0x4_0000_0000_0000) else none

/-- The channel of an HBM address. -/
def channelAt (pa : Nat) : Nat := channelKey (hbmStack pa) (hbmChannel pa)

/-- One more transfer of a channel (R61). -/
def countTransfer (s : State) (pa : Nat) : State :=
  s.setChannel (channelAt pa) { s.channel (channelAt pa) with transfers := (s.channel (channelAt pa)).transfers + 1 }

/-- The transfers of `[p, p + n)`, one for each line of HBM that it touches (R58). -/
def countTransfers (s : State) (p n : Nat) : State :=
  (State.touchedUnits p n).foldl (fun s u => match hbmAddress s (64 * u) with
    | some pa => countTransfer s pa
    | none => s) s

/-- What a request reads or writes: its parts, and the scale bytes of a decoding one. -/
def Req.spans (r : Req) : List (Nat × Nat) :=
  r.parts.map (fun p => (p.loc, p.len)) ++ match r.op with
    | .vdecode _ _ _ (some q) _ => [(q, 1)]
    | .mldb _ _ x => [x]
    | _ => []

/-- The transfers of a request. -/
def countRequest (s : State) (r : Req) : State := r.spans.foldl (fun s x => countTransfers s x.1 x.2) s

/-- A write by a device block or a walker, with its transfers and what it wakes by the end of the step (R58, R236, R241). -/
def State.blockWrite (s : State) (p : Nat) (data : List Byte) : State :=
  let s1 := (countTransfers s p data.length).write p data
  if s.waitedOn p data.length then s1.later (.serve p data.length) else s1

/-- A line of `[p, p + n)` that a transfer is to deliver poisoned to a device block, a walker or the host (R59). -/
def State.badLine (s : State) (p n : Nat) : Bool := (State.touchedUnits p n).any fun u => s.badReads.contains u

/-- Such a read has taken place. -/
def State.spendBad (s : State) (p n : Nat) : State :=
  { s with badReads := s.badReads.filter fun u => !(State.touchedUnits p n).contains u }

/-- Reads of `[p, p + n)` in which the transfers that R59 delivers poisoned read as poison, which stays out of memory. -/
def State.readingBad (s : State) (p n : Nat) (f : State → State) : State :=
  let bad := s.badReads.filter fun u => decide (64 * u < p + n ∧ p < 64 * u + 64) && !s.poisoned.contains u
  if bad = [] then f s
  else
    let s1 := f (bad.foldl (fun s u => s.setPoison (64 * u)) s)
    { s1 with poisoned := s1.poisoned.filter fun u => !bad.contains u }.spendBad p n

/-- What a read by a device block, a walker or the host meets: poison, or a transfer that delivers it (R59, R60). -/
def State.poisonRead (s : State) (p n : Nat) : Bool := s.poisonIn p n || s.badLine p n

end Sys2Proof.Machine
end

