-- ==== Sys2Proof/Machine/Route.lean ====
section
/-!
DEFINITION. The ways between the dies and to the other modules of the pod (R11 to R13, R27, R28, R31): bridges and fabric
links that are up, the shortest path over them, and whether a place can be reached from a core. Nodes are the compute dies
0 to 7, ID0 8, ID1 9, and 16 + m for module m.
-/
namespace Sys2Proof.Machine

/-- The link carries flits. Whether traffic waits for a link that is in training is not said; DESIGN CHOICE (log entry 15): it
goes another way, as for one that is down. -/
def LinkState.isUp (l : LinkState) : Bool := decide (2 ≤ l.state.toNat)

/-- The bridges in the order of R12, which is that of their numbers. -/
def bridges : List (Nat × Nat) :=
  [(0, 1), (1, 2), (2, 3), (4, 5), (5, 6), (6, 7), (0, 4), (1, 5), (2, 6), (3, 7), (8, 0), (8, 4), (9, 3), (9, 7)]

/-- The node at the other end of bridge `b`, if it ends at `node`. -/
def acrossBridge (b node : Nat) : Option Nat :=
  (bridges[b]?).bind fun e => if e.1 = node then some e.2 else if e.2 = node then some e.1 else none

/-! ### Fabric links (R31) -/

/-- The other modules of the pod, in ascending number: the partners. -/
def partners (s : State) : List Nat := (List.range 8).filter fun m => decide (m ≠ s.modNum) && s.inPod m

/-- Pairs that run to each partner. -/
def pairsEach (s : State) : Nat := 7 / (partners s).length

/-- A fabric link of a spare pair. -/
def isSpare (s : State) (n : Nat) : Bool := decide ((partners s).length * pairsEach s ≤ n / 2)

/-- The module to which fabric link `n` runs: by R31, a spare one as the system designer has wired it. -/
def partnerOf (s : State) (n : Nat) : Option Nat :=
  if isSpare s n then (s.spareWires.find? fun e => decide (e.1 = n)).map (·.2) else (partners s)[n / 2 / pairsEach s]?

/-- A fabric link carries traffic: it is up, and a working link, or a spare one that has been assigned. -/
def fabricUp (s : State) (n : Nat) : Bool := (s.link (14 + n)).isUp && (!isSpare s n || s.inService.contains n)

/-- A spare link in the place of a working one that is down (R31): of the same I/O die, wired to the same partner. R31 speaks of
working links; DESIGN CHOICE (log entry 15): a spare link in service that goes down is replaced by none. -/
def assignSpare (s : State) (n : Nat) : State :=
  if isSpare s n then s
  else
    match (List.range 16).find? fun x => isSpare s x && decide (x % 2 = n % 2) && decide (partnerOf s x = partnerOf s n) &&
        (s.link (14 + x)).isUp && !s.inService.contains x with
    | some x => { s with inService := insertNat s.inService x }
    | none => s

/-- Fabric links of an I/O die that lead to module `m`: its own, or where no link of the pair is left those to a module
that relays (R27). -/
def linksTo (s : State) (io m : Nat) : List Nat :=
  let direct (n : Nat) : Bool := fabricUp s n && decide (partnerOf s n = some m)
  let onIo (n : Nat) : Bool := decide (n % 2 = io)
  if (List.range 16).any direct then (List.range 16).filter fun n => direct n && onIo n
  else (List.range 16).filter fun n => fabricUp s n && onIo n && (partnerOf s n).isSome

/-! ### Paths (R13, R27) -/

/-- The nodes from which `target` can be reached over at most `n` bridges that are up. -/
def within (s : State) (target : Nat) : Nat → List Nat
  | 0 => [target]
  | n + 1 =>
    let near := within s target n
    (List.range 14).foldl (fun l b => match bridges[b]? with
      | some e =>
        if ¬(s.link b).isUp then l
        else if near.contains e.1 then insertNat l e.2 else if near.contains e.2 then insertNat l e.1 else l
      | none => l) near

/-- The bridges on the way from one node to another, if there is a way. -/
def distance (s : State) (node target : Nat) : Option Nat :=
  (List.range 10).find? fun n => (within s target n).contains node

/-- The next bridge of the shortest path; of two equally short ones the horizontal one first. -/
def nextBridge (s : State) (node target : Nat) : Option Nat :=
  match distance s node target with
  | some (n + 1) => (List.range 14).find? fun b =>
      (s.link b).isUp && (acrossBridge b node).any fun x => (within s target n).contains x
  | _ => none

/-- The I/O die nearer to a node. -/
def nearerIo (node : Nat) : Nat := if node = 8 ∨ (node < 8 ∧ node % 4 < 2) then 0 else 1

/-- The I/O die through which a node's traffic to module `m` goes: the nearer, unless only the other has a link and can be
reached (R13, R27). -/
def ioTo (s : State) (node m : Nat) : Option Nat :=
  let near := nearerIo node
  let leads (io : Nat) : Bool := decide (linksTo s io m ≠ []) && (distance s node (8 + io)).isSome
  if leads near then some near else if leads (1 - near) then some (1 - near) else none

/-- The next link on the way of a packet at `node`: 0 to 13 a bridge, 14 on a fabric link. Of several links of an I/O die to the
module, or to a relay, the spec names none; DESIGN CHOICE (log entry 15): the lowest-numbered. -/
def nextLink (s : State) (node dest : Nat) : Option Nat :=
  if dest < 16 then nextBridge s node dest
  else
    match ioTo s node (dest - 16) with
    | none => none
    | some io => if node = 8 + io then ((linksTo s io (dest - 16)).head?).map (14 + ·) else nextBridge s node (8 + io)

/-- The node behind a link. -/
def across (l node dest : Nat) : Nat := if l < 14 then (acrossBridge l node).getD node else dest

/-- Whether a path leads from a node to a destination. -/
def pathFrom (s : State) : Nat → Nat → Nat → Bool
  | 0, node, dest => decide (node = dest)
  | fuel + 1, node, dest =>
    node = dest || (nextLink s node dest).any fun l => pathFrom s fuel (across l node dest) dest

def pathTo (s : State) (node dest : Nat) : Bool := pathFrom s 12 node dest

/-! ### Where a place lies -/

/-- The I/O die behind whose ports a CXL address lies (R469). -/
def ioOf (s : State) (a : Nat) : Option Nat :=
  (s.decoders.find? fun d => decide (d.base ≤ a) && decide (a < d.base + d.size)).map (·.io)

/-- The node that holds a place, seen from this module. -/
def nodeOf (s : State) (p : Nat) : Nat :=
  let m := Place.module p
  if m ≠ s.modNum then 16 + m
  else
    match Place.tier p with
    | .localMem => State.dieOf (Place.core p) % 8
    | .tileStore => Place.die p % 8
    | .hbm => p % Place.unit % 0x4_0000_0000_0000 / 0x30_0000_0000
    | .cxl => 8 + (ioOf s (p % Place.unit % 0x10_0000_0000_0000)).getD 0
    | .bStore => p % Place.unit / 0x40_0000 / 128 % 8
    | .staging => 8

/-- The streamer beside the home of a place (R56, R416): one for each core, die of tile store, HBM channel and I/O die. -/
def streamerOf (s : State) (p : Nat) : Nat × Nat :=
  match Place.tier p with
  | .localMem => (0, Place.core p)
  | .tileStore => (1, Place.die p)
  | .hbm => (2, Place.module p * 0x1000 + channelAt (p % Place.unit % 0x4_0000_0000_0000))
  | .cxl => (3, nodeOf s p)
  | .bStore => (0, p % Place.unit / 0x40_0000)
  | .staging => (4, 0)

/-- The node of a core of this module. -/
def coreNode (core : Nat) : Nat := State.dieOf core % 8

/-- Whether what a core sends can get to a node; of the cores of another module the ways are not this module's. -/
def linked (s : State) (core node : Nat) : Bool :=
  decide (core / 1024 ≠ s.modNum) || pathTo s (coreNode core) node

/-- Whether what a core sends can get to a place. -/
def linkedTo (s : State) (core p : Nat) : Bool := linked s core (nodeOf s p)

/-- 1 ms in cycles of 800 MHz (R28, R2). -/
def oneMs : Nat := 800000

end Sys2Proof.Machine
end

