-- ==== Sys2Proof/Machine/Walk.lean ====
section
/-!
DEFINITION. Virtual addresses: the fixed region (R155 to R157), page table entries and their checks (R161 to R164),
the walk (R160, R163, R169), the translation structures (R168), and the layout of block-scaled pages (R165).
-/
namespace Sys2Proof.Machine

/-! ### The fixed region -/

/-- Where an address leads before translation. -/
inductive Target where
  /-- Local memory of a core, `own` when it is the issuing core's. -/
  | localMem (core off : Nat) (own : Bool)
  | tileStore (die off : Nat) (podAlias : Bool)
  /-- A pod-alias address on a module that is absent from the pod (R157). -/
  | absent (module : Nat)
  | paged
  deriving DecidableEq, Repr

/-- R155: bits [63:52] all equal bit 51. -/
def isCanonical (va : Word) : Bool := va == (va.extractLsb' 0 52).signExtend 64

/-- A module's own part of the fixed region: an address less 0x100_0000_0000, on module `m`. -/
def fixedRow (m off : Nat) (issuer : Nat) (podAlias : Bool) : Option Target :=
  if off < 0x2000_0000 then
    let c := m * 1024 + off / 0x8_0000
    some (.localMem c (off % 0x8_0000) (decide (c = issuer)))
  else if 0x100_0000_0000 ≤ off ∧ off < 0x100_2000_0000 then
    let o := off - 0x100_0000_0000
    some (.tileStore (m * 8 + o / 0x400_0000) (o % 0x400_0000) podAlias)
  else none

/-- The row of R156 that an address falls in, for an access by core `issuer` (numbered across modules); none for an
access fault. `mine` is the issuing module's number, `pod` the members. -/
def targetOf (issuer : Nat) (pod : List Nat) (va : Word) : Option Target :=
  let a := va.toNat
  let mine := issuer / 1024
  if ¬isCanonical va then none
  else if 0x2000_0000_0000 ≤ a then some .paged
  else if a < 0x8_0000 then some (.localMem issuer a true)
  else if a < 0x100_0000_0000 then none
  else if a < 0x1000_0000_0000 then fixedRow mine (a - 0x100_0000_0000) issuer false
  else
    let m := (a - 0x1000_0000_0000) / 0x200_0000_0000
    let off := (a - 0x1000_0000_0000) % 0x200_0000_0000
    match fixedRow m off issuer true with
    | none => none
    | some t => if m < 8 ∧ pod.contains m then some t else if m < 8 then some (.absent m) else none

/-! ### Format attributes -/

/-- FMT, GEOM and CB of an attribute (R161 bits [16:8], R167). -/
def attrFmt (a : BitVec 9) : Nat := (a.extractLsb' 0 4).toNat
def attrGeom (a : BitVec 9) : Nat := (a.extractLsb' 4 2).toNat
def attrBook (a : BitVec 9) : Nat := (a.extractLsb' 6 3).toNat

/-- R164. -/
def attrValid (a : BitVec 9) : Bool :=
  let f := attrFmt a
  let g := attrGeom a
  let c := attrBook a
  (decide (f ≤ 13) && decide (g = 0) && decide (c = 0)) ||
    ((decide (f = 5) || decide (f = 6)) && decide (g ≤ 2) && decide (c = 0)) ||
    (decide (f = 14) && (decide (g = 0) || decide (g = 2)))

/-- Elements in a block of the geometry (R165). -/
def blockLen (a : BitVec 9) : Nat := if attrGeom a = 1 then 16 else 32

/-- Whether an offset in its 128 KiB unit lies in the scale area of a block-scaled unit (R165). -/
def inScaleArea (a : BitVec 9) (off : Nat) : Bool :=
  decide (attrGeom a ≠ 0) && decide (0x1_E000 ≤ off % 0x2_0000)

/-- The scale byte's offset for the element byte at offset `off` (R165): the unit's, plus the block number. -/
def scaleOffset (a : BitVec 9) (off : Nat) : Nat :=
  let unit := off / 0x2_0000 * 0x2_0000
  let elem := if attrFmt a = 14 then off % 0x2_0000 * 2 else off % 0x2_0000
  unit + 0x1_E000 + elem / blockLen a

/-! ### Page table entries (R161, R162) -/

namespace Pte

def valid (e : BitVec 64) : Bool := e.getLsbD 63
def leaf (e : BitVec 64) : Bool := e.getLsbD 62
def strm (e : BitVec 64) : Bool := e.getLsbD 61
def res (e : BitVec 64) : Bool := e.getLsbD 60
def wr (e : BitVec 64) : Bool := e.getLsbD 59
def rd (e : BitVec 64) : Bool := e.getLsbD 58
def priv (e : BitVec 64) : Bool := e.getLsbD 57
def mod (e : BitVec 64) : Nat := bitsOf e.toNat 56 54
def tierCxl (e : BitVec 64) : Bool := e.getLsbD 53
def frame (e : BitVec 64) : Nat := bitsOf e.toNat 49 17 * 0x2_0000
def slot (e : BitVec 64) : Nat := bitsOf e.toNat 49 12 * 0x1000
def attr (e : BitVec 64) : BitVec 9 := e.extractLsb' 8 9
def dirty (e : BitVec 64) : Bool := e.getLsbD 1
def pointer (e : BitVec 64) : Nat := bitsOf e.toNat 49 8 * 0x100

/-- A leaf's page size by level (R160). -/
def pageSize (level : Nat) : Nat :=
  match level with
  | 1 => 0x1_0000_0000
  | 2 => 0x800_0000
  | 3 => 0x40_0000
  | _ => 0x2_0000

/-- A leaf that is not malformed under R163. -/
def leafFormed (e : BitVec 64) (level mine : Nat) : Bool :=
  decide (level ≠ 0) && decide (bitsOf e.toNat 52 50 = 0) && (!strm e || decide (level = 4)) &&
    (if strm e && !res e then decide (bitsOf e.toNat 11 0 = 0)
     else
      decide (bitsOf e.toNat 7 2 = 0) && decide (frame e % pageSize level = 0) && attrValid (attr e) &&
        (!strm e || (!tierCxl e && decide (mod e = mine))))

/-- A pointer that is not malformed under R162 and R163. -/
def pointerFormed (e : BitVec 64) (level : Nat) : Bool :=
  decide (level < 4) && decide (bitsOf e.toNat 61 50 = 0) && decide (bitsOf e.toNat 7 0 = 0) &&
    (decide (level ≠ 0) || decide (bitsOf e.toNat 12 8 = 0))

end Pte

/-- What an access needs of a page: reading, writing or both, and whether the thread is privileged. -/
structure Need where
  read : Bool
  write : Bool
  sv : Bool
  deriving DecidableEq, Repr

/-- Permission under R163. -/
def Need.granted (n : Need) (e : BitVec 64) : Bool :=
  (!n.read || Pte.rd e) && (!n.write || Pte.wr e) && (n.sv || !Pte.priv e)

/-- How a walk ends (R163). -/
inductive WalkEnd where
  | page (t : Trans)
  | wait (page entry : Nat) (old : BitVec 64)
  | fault (cause : Nat)
  | poisoned
  deriving DecidableEq, Repr

/-- The decision on an entry that ends the walk (R163), in the order of its table. -/
def decideLeaf (e : BitVec 64) (level mine asid va entry : Nat) (n : Need) : WalkEnd :=
  if Pte.strm e && !Pte.res e && Pte.leafFormed e level mine then .wait (va / 0x2_0000) entry e
  else if !Pte.strm e && !Pte.res e then .fault 4
  else if !n.granted e then .fault 3
  else if !Pte.leafFormed e level mine then .fault 5
  else
    .page ⟨BitVec.ofNat 8 asid, va / Pte.pageSize level * Pte.pageSize level, Pte.pageSize level, e, entry⟩

/-- Index of a level (R160). -/
def walkIndex (va level : Nat) : Nat :=
  match level with
  | 0 => bitsOf va 51 42
  | 1 => bitsOf va 41 32
  | 2 => bitsOf va 31 27
  | 3 => bitsOf va 26 22
  | _ => bitsOf va 21 17

/-- The walk from a table on (R160, R163): at most five levels. What a table beyond the installed HBM reads as is not said; DESIGN
CHOICE (log entry 51): as open memory like any other, without a check. -/
def walkFrom (s : State) (mine asid va : Nat) (n : Need) : Nat → Nat → Nat → WalkEnd
  | 0, _, _ => .fault 5
  | fuel + 1, level, table =>
    let p := Place.hbm mine (table + 8 * walkIndex va level)
    if s.poisonRead p 8 then .poisoned
    else
      let e : BitVec 64 := s.word p
      if !Pte.valid e then .fault 4
      else if Pte.leaf e then decideLeaf e level mine asid va p n
      else if !Pte.pointerFormed e level then .fault 5
      else walkFrom s mine asid va n fuel (level + 1) (Pte.pointer e)

/-- The walk from the root (R158). -/
def walk (s : State) (asid : BitVec 8) (va : Word) (n : Need) : WalkEnd :=
  let root := NatMap.get s.asroot asid.toNat (false, 0)
  if root.1 then
    walkFrom s s.modNum asid.toNat (va.toNat % 2 ^ 52) n 5 0 (root.2.toNat * 0x2000)
  else .fault 4

/-- The entries that the walk reads. -/
def walkPlaces (s : State) (mine va : Nat) : Nat → Nat → Nat → List Nat
  | 0, _, _ => []
  | fuel + 1, level, table =>
    let p := Place.hbm mine (table + 8 * walkIndex va level)
    let e : BitVec 64 := s.word p
    p :: (if s.poisonRead p 8 || !Pte.valid e || Pte.leaf e || !Pte.pointerFormed e level then []
      else walkPlaces s mine va fuel (level + 1) (Pte.pointer e))

/-- The entries that the walk of an address in a space reads. -/
def entriesRead (s : State) (asid : BitVec 8) (va : Word) : List Nat :=
  let root := NatMap.get s.asroot asid.toNat (false, 0)
  if root.1 then walkPlaces s s.modNum (va.toNat % 2 ^ 52) 5 0 (root.2.toNat * 0x2000) else []

/-- A walk's transfers (R58, R61); a poisoned delivery to it is spent (R59). -/
def countWalk (s : State) (asid : BitVec 8) (va : Word) : State :=
  (entriesRead s asid va).foldl (fun s p => (countTransfers s p 8).spendBad p 8) s

/-- The entry with A, and D when writing, set (R161, R169). -/
def markEntry (s : State) (t : Trans) (write : Bool) : State × Trans :=
  let e := t.leaf ||| 1#64 ||| (if write then 2#64 else 0#64)
  if e = t.leaf then (s, t) else (s.blockWrite t.entry (toBytes 8 e.toNat), { t with leaf := e })

/-- The place that an address in a cached page reaches. -/
def Trans.place (t : Trans) (va : Word) : Nat :=
  let off := va.toNat % 2 ^ 52 - t.base
  if Pte.tierCxl t.leaf then Place.cxl (Pte.mod t.leaf) (Pte.frame t.leaf + off)
  else Place.hbm (Pte.mod t.leaf) (Pte.frame t.leaf + off)

def Trans.covers (t : Trans) (asid : BitVec 8) (va : Word) : Bool :=
  decide (t.asid = asid) && decide (t.base ≤ va.toNat % 2 ^ 52) && decide (va.toNat % 2 ^ 52 < t.base + t.size)

/-- A cached translation that serves the access: a write needs D set, so that the walker sets it first (R161). -/
def findTrans (l : List Trans) (asid : BitVec 8) (va : Word) (write : Bool) : Option Trans :=
  l.find? fun t => t.covers asid va && (!write || Pte.dirty t.leaf || !Pte.wr t.leaf)

/-- The cached translation that serves an access by a core: in its TLB, or behind a miss in its die's translation cache
(R168). -/
def cachedTrans (s : State) (core : Nat) (asid : BitVec 8) (va : Word) (write : Bool) : Option Trans :=
  (findTrans (s.core core).tlb asid va write).orElse fun _ =>
    findTrans (s.die (State.dieOf core)).tcache asid va write

/-- A structure of `n` entries with a new one; a victim that the spec leaves open gives way (R168). -/
def cacheInsert (s : State) (l : List Trans) (n : Nat) (t : Trans) : List Trans × State :=
  let rest := l.filter fun u => !(decide (u.asid = t.asid) && decide (u.base = t.base) && decide (u.size = t.size))
  if rest.length < n then (t :: rest, s)
  else
    let c := s.choose rest.length
    (t :: rest.eraseIdx c.1, c.2)

/-- Both structures on the way of a core (R168). -/
def installTrans (s : State) (core : Nat) (t : Trans) : State :=
  let a := cacheInsert s (s.core core).tlb 64 t
  let s1 := a.2.modCore core fun c => { c with tlb := a.1 }
  let d := State.dieOf core
  let b := cacheInsert s1 (s1.die d).tcache 4096 t
  b.2.modDie d fun x => { x with tcache := b.1 }

/-! ### Translations for device blocks (R159) and descriptors -/

/-- An address of a space, translated without the caches: its place when it is mapped, resident and permitted, in the
fixed region as a thread on core `issuer` would reach it. -/
def deviceWalk (s : State) (asid : BitVec 8) (va : Word) (write : Bool) (issuer : Nat) : Option Nat :=
  match targetOf issuer s.pod va with
  | some (.localMem c off _) => some (Place.lm c off)
  | some (.tileStore d off _) => some (Place.tile d off)
  | some .paged =>
    match walk s asid va ⟨!write, write, true⟩ with
    | .page t => some (t.place va)
    | _ => none
  | _ => none

/-- The same for a device block, which has no local memory of its own. -/
def blockWalk (s : State) (asid : BitVec 8) (va : Word) (write : Bool) : Option Nat :=
  if va.toNat < 0x8_0000 then none else deviceWalk s asid va write (s.modNum * 1024)

/-- The A bit, and the D bit when it writes, of the entry through which an address is translated (R161, R169); addresses of
the fixed region are not translated (R157). -/
def markVia (s : State) (asid : BitVec 8) (va : Word) (n : Need) (write : Bool) : State :=
  match targetOf 0 s.pod va, walk s asid va n with
  | some .paged, .page t => (markEntry s t write).1
  | _, _ => s

/-- The same by a walk of its own, with its transfers. -/
def walkMark (s : State) (asid : BitVec 8) (va : Word) (n : Need) (write : Bool) : State :=
  let walked := match targetOf 0 s.pod va with
    | some .paged => countWalk s asid va
    | _ => s
  markVia walked asid va n write

/-- The same for a device block. -/
def deviceMark (s : State) (asid : BitVec 8) (va : Word) (write : Bool) : State :=
  walkMark s asid va ⟨!write, write, true⟩ write

/-- A read of `n` bytes within one page by a device block. -/
def deviceRead (s : State) (asid : BitVec 8) (va : Word) (n : Nat) : Option (List Byte × State) :=
  match blockWalk s asid va false with
  | some p => if s.poisonRead p n then none else some (s.bytes p n, countTransfers (deviceMark s asid va false) p n)
  | none => none

/-- The state after a read by a device block that has met a fault or poison: a delivery that R59 makes poisoned is spent. -/
def spentRead (s : State) (asid : BitVec 8) (va : Word) (n : Nat) : State :=
  let s1 := countWalk s asid va
  match blockWalk s asid va false with
  | some p => s1.spendBad p n
  | none => s1

/-- A read of a ring, which R159 wants mapped, writable and resident in address space 0. -/
def ringRead (s : State) (va : Word) (n : Nat) : Option (List Byte × State) :=
  if (blockWalk s 0 va true).isSome then deviceRead s 0 va n else none

/-- A write by a device block, full bits set as R256, R123 and R89 need. -/
def deviceWrite (s : State) (asid : BitVec 8) (va : Word) (data : List Byte) : Option State :=
  match blockWalk s asid va true with
  | some p => some ((deviceMark s asid va true).blockWrite p data)
  | none => none

end Sys2Proof.Machine
end

