-- ==== Sys2Proof/Machine/Frames.lean ====
section
/-!
DEFINITION. The frames of the pumps (R73, R45) and the start of an inbound move (R70, R72).
-/
namespace Sys2Proof.Machine

/-! ### The free-frame ring (R73, R45) -/

/-- The pump stops taking frames (R159). -/
def stopRing (s : State) (i : Nat) : Option Nat × State := (none, s.modIo i fun x => { x with ringStopped := true })

/-- The ring's address: BASE holds its bits [51:12]. -/
def ringAt (x : Io) : Word := (x.ringBase ++ 0#12).signExtend 64

/-- The head word, written by the pump. -/
def writeHead (s : State) (i : Nat) (head : BitVec 32) : Option State :=
  let x := s.io i
  (deviceWrite s 0 (ringAt x + 64) (toBytes 4 head.toNat)).map fun s1 =>
    s1.setIo i { x with ringHead := head }

/-- The next aligned frame of the ring: entries that are not aligned are skipped, an overrun takes none. R73 skips no others; an
aligned address that HBM does not have is taken like a frame (DESIGN CHOICE, log entry 32). -/
def ringFrame (i : Nat) : Nat → State → Option Nat × State
  | 0, s => (none, s)
  | fuel + 1, s =>
    let x := s.io i
    let base := ringAt x
    let n := 2 ^ x.ringLogN.toNat
    if ¬x.ringEn ∨ x.ringLogN.toNat < 1 ∨ 16 < x.ringLogN.toNat ∨ x.ringStopped then (none, s)
    else
      match ringRead s base 4 with
      | none => stopRing (spentRead s 0 base 4) i
      | some (tailBytes, s) =>
        let tail : BitVec 32 := BitVec.ofNat 32 (ofBytes tailBytes)
        if tail = x.ringHead then (none, s)
        else if n < (tail - x.ringHead).toNat then
          match writeHead s i tail with
          | none => stopRing s i
          | some s1 => (none, s1)
        else
          let at' := base + 128 + BitVec.ofNat 64 (8 * (x.ringHead.toNat % n))
          match ringRead s at' 8 with
          | none => stopRing (spentRead s 0 at' 8) i
          | some (entry, s) =>
            match writeHead s i (x.ringHead + 1) with
            | none => stopRing s i
            | some s1 => if ofBytes entry % 0x2_0000 = 0 then (some (ofBytes entry), s1) else ringFrame i fuel s1

/-- A frame for an inbound move: one kept by an earlier move (R70 step 4), or the ring's next. -/
def takeFrame (s : State) (i : Nat) : Option Nat × State :=
  match (s.io i).spareFrames with
  | f :: rest => (some f, s.modIo i fun x => { x with spareFrames := rest })
  | [] => ringFrame i 0x1_0001 s

/-! ### Moves in flight (R70, R72) -/

def Move.isFor (m : Move) (asid : BitVec 8) (page : Nat) : Bool := decide (m.asid = asid) && decide (m.page = page)

/-- The pump that has an inbound move of the page in flight. -/
def movingIo (s : State) (asid : BitVec 8) (page : Nat) : Option Nat :=
  [0, 1].find? fun i => (s.io i).moves.any fun m => m.isFor asid page

/-- An inbound move started or joined (R70, R72): the page, its entry and what the entry reads. A move from a slot that no
decoder covers, which R469 gives to no pump, is ID0's (DESIGN CHOICE, log entry 32). -/
def startMove (s : State) (asid : BitVec 8) (page entry : Nat) (old : BitVec 64) : State :=
  if (movingIo s asid page).isSome then s
  else
    let i := (ioOf s (Pte.slot old)).getD 0
    let f := takeFrame s i
    f.2.modIo i fun x => { x with moves := x.moves ++ [⟨asid, page, entry, old, Pte.slot old, f.1, [], []⟩] }

end Sys2Proof.Machine
end

