-- ==== Sys2Proof/Machine/Exact.lean ====
section
/-!
DEFINITION. Exact values and their rounding (R194 to R204, R209 to R214): formats, decoding, exact sums, products,
quotients, roots and powers of two, and the one rounding of each result. A result that is not a multiple of a power
of two (a quotient, a root, a power) is carried to more bits than any format has, with a last bit that stands for the
rest; every mode then rounds it as it rounds the exact value.
-/
namespace Sys2Proof.Machine

/-! ### Formats -/

/-- A floating-point format of R194: fraction width, exponent width, bias, whether the all-ones exponent is reserved
for infinities and NaN. -/
structure FloatFmt where
  frac : Nat
  exp : Nat
  bias : Nat
  ieee : Bool
  deriving DecidableEq, Repr

/-- The format of a code 1 to 6 (R194). -/
def floatFmt (code : Nat) : FloatFmt :=
  match code with
  | 1 => ⟨52, 11, 1023, true⟩
  | 2 => ⟨23, 8, 127, true⟩
  | 3 => ⟨7, 8, 127, true⟩
  | 4 => ⟨10, 5, 15, true⟩
  | 5 => ⟨3, 4, 7, false⟩
  | _ => ⟨2, 5, 15, true⟩

namespace FloatFmt

def width (f : FloatFmt) : Nat := 1 + f.exp + f.frac

/-- Largest finite magnitude as an encoding (R194, R195). -/
def maxBits (f : FloatFmt) : Nat :=
  if f.ieee then (2 ^ f.exp - 1) * 2 ^ f.frac - 1 else 2 ^ (f.exp + f.frac) - 2

/-- The default NaN (R194, R195). -/
def nanBits (f : FloatFmt) : Nat :=
  if f.ieee then (2 ^ f.exp - 1) * 2 ^ f.frac + 2 ^ (f.frac - 1) else 2 ^ (f.exp + f.frac) - 1

/-- +∞ where the format has it. -/
def infBits (f : FloatFmt) : Nat := (2 ^ f.exp - 1) * 2 ^ f.frac

def signBit (f : FloatFmt) : Nat := 2 ^ (f.exp + f.frac)

/-- Exponent of the least subnormal. -/
def minExp (f : FloatFmt) : Int := 1 - (f.bias : Int) - f.frac

end FloatFmt

/-- Width in bits of an element format (R194, R196, R199). -/
def fmtWidth (code : Nat) : Nat :=
  match code with
  | 1 | 13 => 64
  | 2 | 11 | 12 => 32
  | 3 | 4 | 9 | 10 => 16
  | 14 => 4
  | _ => 8

/-- i8, i16, i32, i64 (R196). -/
def fmtSigned (code : Nat) : Bool := code = 7 || code = 9 || code = 11 || code = 13

/-! ### Exact values -/

/-- The sign of an exact zero: +0, −0, or the mode's (R203). -/
inductive Zero where
  | pos
  | neg
  | byMode
  deriving DecidableEq, Repr

/-- An exact value: `fin neg m e` is ±m × 2^e with m ≠ 0. -/
inductive Exact where
  | nan
  | inf (neg : Bool)
  | zero (z : Zero)
  | fin (neg : Bool) (m : Nat) (e : Int)
  deriving DecidableEq, Repr

namespace Exact

/-- An integer times a power of two; a zero takes the sign of the mode. -/
def ofInt (i e : Int) : Exact :=
  match i with
  | .ofNat 0 => .zero .byMode
  | .ofNat m => .fin false m e
  | .negSucc m => .fin true (m + 1) e

/-- The value of an integer element (R196). -/
def ofInteger (i : Int) : Exact := if i = 0 then .zero .pos else ofInt i 0

def neg : Exact → Exact
  | .nan => .nan
  | .inf n => .inf (!n)
  | .zero .pos => .zero .neg
  | .zero .neg => .zero .pos
  | .zero .byMode => .zero .byMode
  | .fin n m e => .fin (!n) m e

def isNeg : Exact → Bool
  | .inf n => n
  | .zero .neg => true
  | .fin n _ _ => n
  | _ => false

def signedZero (n : Bool) : Exact := .zero (if n then .neg else .pos)

/-- The sum of two values (R214, R203): exact, and free of order when taken over several. -/
def add : Exact → Exact → Exact
  | .nan, _ => .nan
  | _, .nan => .nan
  | .inf a, .inf b => if a = b then .inf a else .nan
  | .inf a, _ => .inf a
  | _, .inf b => .inf b
  | .zero a, .zero b => .zero (if a = b then a else .byMode)
  | .zero _, x => x
  | x, .zero _ => x
  | .fin na ma ea, .fin nb mb eb =>
    let e := min ea eb
    let a : Int := (if na then -1 else 1) * (ma * 2 ^ (ea - e).toNat : Nat)
    let b : Int := (if nb then -1 else 1) * (mb * 2 ^ (eb - e).toNat : Nat)
    ofInt (a + b) e

/-- The exact sum of a list of terms (R210, R220); the empty sum is +0 (R215). -/
def sum : List Exact → Exact
  | [] => .zero .pos
  | x :: rest => rest.foldl add x

/-- The exact product; 0 × ∞ is NaN (R204). -/
def mul : Exact → Exact → Exact
  | .nan, _ => .nan
  | _, .nan => .nan
  | .inf a, .inf b => .inf (a != b)
  | .inf _, .zero _ => .nan
  | .zero _, .inf _ => .nan
  | .inf a, .fin b _ _ => .inf (a != b)
  | .fin a _ _, .inf b => .inf (a != b)
  | .zero a, y => signedZero ((a == .neg) != y.isNeg)
  | x, .zero b => signedZero (x.isNeg != (b == .neg))
  | .fin na ma ea, .fin nb mb eb => .fin (na != nb) (ma * mb) (ea + eb)

/-- The value times 2^k. -/
def scale (x : Exact) (k : Int) : Exact :=
  match x with
  | .fin n m e => .fin n m (e + k)
  | y => y

/-- The integer square root of `n`, by Newton's steps from above. -/
def isqrtFrom (fuel n x : Nat) : Nat :=
  match fuel with
  | 0 => x
  | fuel + 1 =>
    let y := (x + n / x) / 2
    if y < x then isqrtFrom fuel n y else x

def isqrt (n : Nat) : Nat := if n = 0 then 0 else isqrtFrom 64 n (2 ^ (Nat.log2 n / 2 + 1))

/-- The quotient of two finite nonzero values, with a last bit for the rest. -/
def quotient (na : Bool) (ma : Nat) (ea : Int) (nb : Bool) (mb : Nat) (eb : Int) : Exact :=
  let k := 128 + Nat.log2 mb
  let num := ma * 2 ^ k
  let q := num / mb
  .fin (na != nb) (2 * q + if q * mb = num then 0 else 1) (ea - eb - k - 1)

/-- The root of a positive finite value, with a last bit for the rest. -/
def root (m : Nat) (e : Int) : Exact :=
  let m' := if e % 2 = 0 then m else 2 * m
  let e' := if e % 2 = 0 then e else e - 1
  let n := m' * 2 ^ 256
  let r := isqrt n
  .fin false (2 * r + if r * r = n then 0 else 1) (e' / 2 - 129)

/-- The reciprocal of the root of a positive finite value, with a last bit for the rest. -/
def rootInv (m : Nat) (e : Int) : Exact :=
  let m' := if e % 2 = 0 then m else 2 * m
  let e' := if e % 2 = 0 then e else e - 1
  let k := 128 + Nat.log2 m'
  let r := isqrt (2 ^ (2 * k) / m')
  .fin false (2 * r + if r * r * m' = 2 ^ (2 * k) then 0 else 1) (-(e' / 2) - k - 1)

/-- −1, 0 or 1 as `a` is less than, equal to or greater than `b`; none when one is NaN (R372). -/
def compare (a b : Exact) : Option Int :=
  match a, b with
  | .nan, _ => none
  | _, .nan => none
  | .inf x, .inf y => some (if x = y then 0 else if x then -1 else 1)
  | .inf x, _ => some (if x then -1 else 1)
  | _, .inf y => some (if y then 1 else -1)
  | x, y =>
    match add x (neg y) with
    | .zero _ => some 0
    | d => some (if d.isNeg then -1 else 1)

end Exact

/-! ### Decoding -/

/-- The exact value of a float encoding (R194, R195). -/
def decodeFloat (f : FloatFmt) (x : Nat) : Exact :=
  let n := decide (x / f.signBit % 2 = 1)
  let e := x / 2 ^ f.frac % 2 ^ f.exp
  let fr := x % 2 ^ f.frac
  if f.ieee ∧ e = 2 ^ f.exp - 1 then (if fr = 0 then .inf n else .nan)
  else if ¬f.ieee ∧ x % f.signBit = f.nanBits then .nan
  else if e = 0 then (if fr = 0 then Exact.signedZero n else .fin n fr f.minExp)
  else .fin n (2 ^ f.frac + fr) (f.minExp + e - 1)

/-- The value of an integer encoding (R196). -/
def decodeInteger (code x : Nat) : Int :=
  let w := fmtWidth code
  let y := x % 2 ^ w
  if fmtSigned code ∧ 2 ^ (w - 1) ≤ y then (y : Int) - 2 ^ w else y

/-- decode of R220: the exact value of an element; a cb4 code decodes through the codebook entries (R199). -/
def decodeElem (code x : Nat) (book : List (BitVec 16)) : Exact :=
  if code = 14 then decodeFloat (floatFmt 3) (book.getD (x % 16) 0).toNat
  else if code ≤ 6 then decodeFloat (floatFmt code) x
  else .ofInteger (decodeInteger code x)

/-- scale of R220 (R198) applied to an exact value. -/
def applyScale (x : Exact) (s : Byte) : Exact :=
  if s = 255 then .nan else x.scale (s.toNat - 127)

/-! ### Flags -/

/-- The flags of R204, in the positions of FPST (R207). -/
abbrev FlagSet := BitVec 6

def NX : FlagSet := 1
def UF : FlagSet := 2
def OF : FlagSet := 4
def DZ : FlagSet := 8
def NV : FlagSet := 16
def SAT : FlagSet := 32

/-! ### Rounding -/

/-- Rounding modes of R201. -/
inductive Mode where
  | rne
  | rtz
  | rdn
  | rup
  | rna
  | rod
  deriving DecidableEq, Repr

/-- The mode of a code 0 to 5 (R201). -/
def Mode.ofCode (c : BitVec 3) : Mode :=
  match c.toNat with
  | 1 => .rtz
  | 2 => .rdn
  | 3 => .rup
  | 4 => .rna
  | 5 => .rod
  | _ => .rne

/-- Whether a magnitude that lies strictly between `q` and `q + 1` goes up, by what is left below `q` against half a
step (R201). -/
def roundsUp (mode : Mode) (n : Bool) (q rest half : Nat) : Bool :=
  match mode with
  | .rne => decide (half < rest ∨ (rest = half ∧ q % 2 = 1))
  | .rtz => false
  | .rdn => n
  | .rup => !n
  | .rna => decide (half ≤ rest)
  | .rod => decide (q % 2 = 0)

/-- A magnitude m × 2^e on a grid with significands of `prec` bits and no step below 2^`low`: its multiple and step,
and whether it is inexact (R201). -/
def roundGrid (prec : Nat) (low : Int) (mode : Mode) (n : Bool) (m : Nat) (e : Int) : Nat × Int × Bool :=
  let g := max (e + Nat.log2 m + 1 - prec) low
  if g ≤ e then (m * 2 ^ (e - g).toNat, g, false)
  else
    let k := (g - e).toNat
    let q := m / 2 ^ k
    let rest := m % 2 ^ k
    if rest = 0 then (q, g, false)
    else (if roundsUp mode n q rest (2 ^ (k - 1)) then q + 1 else q, g, true)

/-- The encoding of q × 2^g, which the format represents or which lies beyond its range (without the sign). -/
def encodeMagnitude (f : FloatFmt) (q : Nat) (g : Int) : Nat :=
  if q = 0 then 0
  else
    -- the significand at the format's width
    let top := g + Nat.log2 q
    let step := max (top - f.frac) f.minExp
    let q' := if step ≤ g then q * 2 ^ (g - step).toNat else q / 2 ^ (step - g).toNat
    (step - f.minExp).toNat * 2 ^ f.frac + q'

/-- The result of an overflow (R202): whether it is the infinity, by mode and sign. -/
def overflowsToInf (mode : Mode) (n : Bool) : Bool :=
  match mode with
  | .rne | .rna => true
  | .rtz | .rod => false
  | .rdn => n
  | .rup => !n

/-- An infinity in a format; e4m3 has none and gives its NaN with NV (R195). -/
def infinity (f : FloatFmt) (n : Bool) : Nat × FlagSet :=
  if f.ieee then (f.infBits + (if n then f.signBit else 0), 0) else (f.nanBits, NV)

/-- A finite nonzero value rounded to significands of `prec` bits in a format (R201 to R204); `sat` for the saturating
forms (R209). -/
def roundFinite (f : FloatFmt) (prec : Nat) (sat : Bool) (mode : Mode) (n : Bool) (m : Nat) (e : Int) :
    Nat × FlagSet :=
  let r := roundGrid prec f.minExp mode n m e
  let sign := if n then f.signBit else 0
  let enc := encodeMagnitude f r.1 r.2.1
  if enc ≤ f.maxBits then
    let tiny := decide (e + Nat.log2 m < 1 - (f.bias : Int))
    (enc + sign, if r.2.2 then (if tiny then UF ||| NX else NX) else 0)
  else if sat then (f.maxBits + sign, SAT ||| NX)
  else if overflowsToInf mode n then
    let i := infinity f n
    (i.1, i.2 ||| OF ||| NX)
  else (f.maxBits + sign, OF ||| NX)

/-- round_to and round_sat of R220, with significands of `prec` bits. -/
def roundPrec (f : FloatFmt) (prec : Nat) (sat : Bool) (mode : Mode) (x : Exact) : Nat × FlagSet :=
  match x with
  | .nan => (f.nanBits, NV)
  | .inf n => if sat then (f.maxBits + (if n then f.signBit else 0), SAT ||| NX) else infinity f n
  | .zero z =>
    (if z = .neg ∨ (z = .byMode ∧ mode = .rdn) then f.signBit else 0, 0)
  | .fin n m e => roundFinite f prec sat mode n m e

/-- round_to of R220. -/
def roundTo (code : Nat) (mode : Mode) (x : Exact) : Nat × FlagSet :=
  roundPrec (floatFmt code) ((floatFmt code).frac + 1) false mode x

/-- round_sat of R220. -/
def roundSat (code : Nat) (mode : Mode) (x : Exact) : Nat × FlagSet :=
  roundPrec (floatFmt code) ((floatFmt code).frac + 1) true mode x

/-- Least and largest value of an integer format (R196). -/
def intRange (code : Nat) : Int × Int :=
  let w := fmtWidth code
  if fmtSigned code then (-(2 ^ (w - 1) : Nat), (2 ^ (w - 1) : Nat) - 1) else (0, (2 ^ w : Nat) - 1)

/-- The encoding of an integer, modulo 2^w. -/
def encodeInteger (code : Nat) (i : Int) : Nat := (i % (2 ^ fmtWidth code : Nat)).toNat

/-- to_int of R220: the float-to-integer row of R209. -/
def toInt (code : Nat) (mode : Mode) (x : Exact) : Nat × FlagSet :=
  let r := intRange code
  match x with
  | .nan => (0, NV)
  | .inf n => (encodeInteger code (if n then r.1 else r.2), NV)
  | .zero _ => (0, 0)
  | .fin n m e =>
    let g : Int := max e 0
    let q : Nat × Bool :=
      if 0 ≤ e then (m * 2 ^ e.toNat, false)
      else
        let k := (g - e).toNat
        if m % 2 ^ k = 0 then (m / 2 ^ k, false)
        else
          (if roundsUp mode n (m / 2 ^ k) (m % 2 ^ k) (2 ^ (k - 1)) then m / 2 ^ k + 1 else m / 2 ^ k, true)
    let i : Int := if n then -(q.1 : Int) else q.1
    if i < r.1 then (encodeInteger code r.1, NV)
    else if r.2 < i then (encodeInteger code r.2, NV)
    else (encodeInteger code i, if q.2 then NX else 0)

/-- narrow_int of R220: the integer-narrowing row of R209. -/
def narrowInt (code : Nat) (sat : Bool) (i : Int) : Nat × FlagSet :=
  let r := intRange code
  if sat then
    if i < r.1 then (encodeInteger code r.1, SAT)
    else if r.2 < i then (encodeInteger code r.2, SAT)
    else (encodeInteger code i, 0)
  else (encodeInteger code i, 0)

/-! ### Scalar operations (R371, R374) -/

def fpDiv (x y : Exact) : Exact × FlagSet :=
  match x, y with
  | .nan, _ => (.nan, 0)
  | _, .nan => (.nan, 0)
  | .inf _, .inf _ => (.nan, 0)
  | .zero _, .zero _ => (.nan, 0)
  | .inf a, y => (.inf (a != y.isNeg), 0)
  | x, .inf b => (Exact.signedZero (x.isNeg != b), 0)
  | x, .zero b => (.inf (x.isNeg != (b == .neg)), DZ)
  | .zero a, y => (Exact.signedZero ((a == .neg) != y.isNeg), 0)
  | .fin na ma ea, .fin nb mb eb => (Exact.quotient na ma ea nb mb eb, 0)

def fpSqrt (x : Exact) : Exact :=
  match x with
  | .nan => .nan
  | .inf n => if n then .nan else .inf false
  | .zero z => .zero z
  | .fin n m e => if n then .nan else Exact.root m e

/-! ### Powers of two and estimates (R379, R380) -/

/-- ln 2 in units of 2^-p, from below, by the series of 1/(k 2^k); it lies less than p + 8 units above. -/
def ln2Below (p : Nat) : Nat :=
  (List.range (p + 4)).foldl (fun acc k => acc + 2 ^ p / ((k + 1) * 2 ^ (k + 1))) 0

/-- Σ t^k / k! from k = 1 on in units of 2^-p: each term from the last, rounded down. -/
def expTail (p t : Nat) : Nat → Nat → Nat → Nat
  | 0, _, _ => 0
  | fuel + 1, k, term =>
    let next := term * t / (k * 2 ^ p)
    next + expTail p t fuel (k + 1) next

/-- 2^f for f = num / 2^den in (0, 1): a value in units of 2^-p less than `4 p + 600` units below the power. -/
def exp2Below (p num den : Nat) : Nat :=
  let t := num * ln2Below p / 2 ^ den
  2 ^ p + expTail p t (p / 2 + 8) 1 (2 ^ p)

/-- 2^x for x that is no integer, x = n + num / 2^den, rounded once: with more digits until both ends of the interval
round alike. -/
def exp2Round (f : FloatFmt) (mode : Mode) (n : Int) (num den : Nat) : Nat → Nat → Nat × FlagSet
  | 0, p => roundFinite f (f.frac + 1) false mode false (2 * exp2Below p num den + 1) (n - p - 1)
  | fuel + 1, p =>
    let lo := exp2Below p num den
    let a := roundFinite f (f.frac + 1) false mode false (2 * lo + 1) (n - p - 1)
    let b := roundFinite f (f.frac + 1) false mode false (2 * (lo + 4 * p + 600) + 1) (n - p - 1)
    if a = b then a else exp2Round f mode n num den fuel (2 * p)

/-- VFEXP2 of one lane (R380). -/
def exp2Lane (code : Nat) (mode : Mode) (x : Exact) : Nat × FlagSet :=
  let f := floatFmt code
  match x with
  | .nan => (f.nanBits, NV)
  | .inf n => if n then (0, 0) else infinity f false
  | .zero _ => roundTo code mode (.fin false 1 0)
  | .fin n m e =>
    if 13 ≤ e + Nat.log2 m then
      -- far beyond every format's range
      roundTo code mode (.fin false 1 (if n then -8192 else 8192))
    else if 0 ≤ e then
      let i : Int := (m * 2 ^ e.toNat : Nat)
      roundTo code mode (.fin false 1 (if n then -i else i))
    else if e + Nat.log2 m < -80 then
      -- nearer to 1 than any format resolves
      roundTo code mode (if n then .fin false (2 ^ 80 - 1) (-80) else .fin false (2 ^ 80 + 1) (-80))
    else
      let den := (-e).toNat
      let v : Int := if n then -(m : Int) else m
      let whole := v / (2 ^ den : Nat)
      let num := (v % (2 ^ den : Nat)).toNat
      if num = 0 then roundTo code mode (.fin false 1 whole)
      else exp2Round f mode whole num den 4 128

/-- Significand width of the estimates (R379). -/
def estimateBits (code : Nat) : Nat := min 12 ((floatFmt code).frac + 1)

/-- VFRCP of one lane (R379). -/
def rcpLane (code : Nat) (x : Exact) : Nat × FlagSet :=
  let f := floatFmt code
  match x with
  | .zero z => ((infinity f (z == .neg)).1, DZ)
  | .inf n => (if n then f.signBit else 0, 0)
  | .nan => (f.nanBits, NV)
  | .fin n m e => roundPrec f (estimateBits code) false .rne (Exact.quotient false 1 0 n m e)

/-- VFRSQ of one lane (R379). -/
def rsqLane (code : Nat) (x : Exact) : Nat × FlagSet :=
  let f := floatFmt code
  match x with
  | .zero z => ((infinity f (z == .neg)).1, DZ)
  | .inf n => if n then (f.nanBits, NV) else (0, 0)
  | .nan => (f.nanBits, NV)
  | .fin n m e => if n then (f.nanBits, NV) else roundPrec f (estimateBits code) false .rne (Exact.rootInv m e)

/-! ### Comparison, minimum, classes (R372) -/

/-- Whether −0 is distinguished, `a` is the lesser operand of FMIN (R372: −0 is less than +0). -/
def lessForMin (a b : Exact) : Bool :=
  match a, b with
  | .zero x, .zero y => x == .neg && y != .neg
  | a, b => Exact.compare a b == some (-1)

/-- FMIN and FMAX on encodings (R372). -/
def fpMinMax (code : Nat) (isMax : Bool) (a b : Nat) : Nat × FlagSet :=
  let f := floatFmt code
  let x := decodeFloat f a
  let y := decodeFloat f b
  if x = .nan ∨ y = .nan then (f.nanBits, NV)
  else if isMax then (if lessForMin x y then b else a, 0)
  else (if lessForMin y x then b else a, 0)

/-- The comparison conditions of FEQ, FLT and FLE, or unordered (R372, R381). -/
inductive FpCond where
  | eq
  | lt
  | le
  | un
  deriving DecidableEq, Repr

def fpCompare (code : Nat) (c : FpCond) (a b : Nat) : Bool × FlagSet :=
  match Exact.compare (decodeFloat (floatFmt code) a) (decodeFloat (floatFmt code) b), c with
  | none, .eq => (false, 0)
  | none, .un => (true, 0)
  | none, _ => (false, NV)
  | some r, .eq => (decide (r = 0), 0)
  | some r, .lt => (decide (r < 0), 0)
  | some r, .le => (decide (r ≤ 0), 0)
  | some _, .un => (false, 0)

/-- FCLASS (R372). -/
def fpClass (code x : Nat) : Nat :=
  let f := floatFmt code
  let e := x / 2 ^ f.frac % 2 ^ f.exp
  let sign := x / f.signBit % 2 * 8
  sign + match decodeFloat f x with
    | .zero _ => 0
    | .inf _ => 3
    | .nan => 4
    | .fin _ _ _ => if e = 0 then 1 else 2

/-- FSGN (R372). -/
def fpSign (code a b : Nat) : Nat :=
  let f := floatFmt code
  a % f.signBit + b / f.signBit % 2 * f.signBit

/-! ### Conversions (R209) -/

def isFloatCode (code : Nat) : Bool := 1 ≤ code && code ≤ 6

/-- Every conversion of R209 between formats 1 to 13, and cb4 to bf16; `sat` for the saturating form. -/
def convert (src dst : Nat) (sat : Bool) (mode : Mode) (x : Nat) (book : List (BitVec 16)) : Nat × FlagSet :=
  if src = 14 then ((book.getD (x % 16) 0).toNat, 0)
  else if isFloatCode src then
    let v := decodeFloat (floatFmt src) x
    if isFloatCode dst then (if sat then roundSat dst mode v else roundTo dst mode v)
    else toInt dst mode v
  else
    let i := decodeInteger src x
    if isFloatCode dst then roundTo dst mode (.ofInteger i)
    else narrowInt dst sat i

end Sys2Proof.Machine
end

