-- ==== Sys2Proof/Machine/Flags.lean ====
section
/-!
DEFINITION. FPST, the accumulator flags and RND: which flags an instruction leaves, when they trap, and the mode an
instruction rounds in (R205 to R208, R218, R219, R368).
-/
namespace Sys2Proof.Machine

/-- The trap enables of FPST. -/
def Thread.enables (t : Thread) : FlagSet := t.fpst.extractLsb' 8 6

/-- The thread with these flags raised (R207). -/
def Thread.flagged (t : Thread) (f : FlagSet) : Thread := { t with fpst := t.fpst ||| f.zeroExtend 14 }

/-- R207, R208: the thread with these flags raised, or the arithmetic trap when one of them is enabled. -/
def Thread.raise (t : Thread) (f : FlagSet) : Except Stop Thread :=
  if f &&& t.enables = 0 then .ok (t.flagged f)
  else .error (.trap 15 (f.zeroExtend 64))

/-- mode_of of R220 for a field that encoding checks have found not to be 6 (R205). -/
def Thread.mode (t : Thread) (field : BitVec 3) : Mode :=
  if field = 7 then Mode.ofCode t.rnd else Mode.ofCode field

/-- The flags of a list of results. -/
def flagsOf (l : List (Nat × FlagSet)) : FlagSet := l.foldl (fun acc r => acc ||| r.2) 0

/-- R218: an accumulator with these flags raised; bit 3 stays 0. -/
def Acc.raise (a : Acc) (f : FlagSet) : Acc := { a with flags := a.flags ||| (f &&& ~~~DZ) }

end Sys2Proof.Machine
end

