-- ==== Sys2Proof/Machine/Operands.lean ====
section
/-!
DEFINITION. What an instruction reads and writes in its thread: hints (R305 to R309), g, v and m registers with their
full bits (R138, R139, R318, R319, R366), PIN and POUT (R141 to R143), and the undo records of an open region
(R269, R270, R283).
-/
namespace Sys2Proof.Machine

/-! ### Hints -/

/-- What hints apply to an instruction (R306 to R308). -/
structure HintUse where
  himm : Bool := false
  sat : Bool := false
  cp : Bool := false
  sc : Bool := false
  rm : Bool := false
  gc : Bool := false
  deriving DecidableEq, Repr

/-- R306, R307, R308. -/
def hintUse : Instr → HintUse
  | .addi .. | .slti .. | .sltiu .. | .andi .. | .ori .. | .xori .. | .ldhi .. | .addpc .. => { himm := true }
  | .ldb .. | .ldh .. | .ldw .. | .ldd .. | .ldbz .. | .ldhz .. | .ldwz .. | .vld .. =>
    { himm := true, cp := true, sc := true }
  | .stb .. | .sth .. | .stw .. | .std .. | .vst .. => { himm := true, cp := true, sc := true }
  | .lda .. | .ldc .. | .ldo .. | .stl .. | .stp .. | .stf .. | .empty .. => { himm := true }
  | .vlds .. | .vsts .. | .vgath .. | .vscat .. => { cp := true, sc := true }
  | .cpy .. | .cpyr .. => { cp := true }
  | .vadd .. | .vsub .. => { sat := true }
  | .vfadd .. | .vfsub .. | .vfmul .. | .vfdiv .. | .vfexp2 .. | .vfma .. | .afaddv .. => { rm := true }
  | .acas .. => { gc := true }
  | _ => {}

/-- The fields of HMOD data (R307). -/
def hmodSat (d : BitVec 24) : Bool := d.getLsbD 10
def hmodCp (d : BitVec 24) : BitVec 2 := d.extractLsb' 8 2
def hmodSc (d : BitVec 24) : BitVec 4 := d.extractLsb' 4 4
def hmodRm (d : BitVec 24) : BitVec 3 := d.extractLsb' 0 3

/-- HMOD data without a reserved bit or value (R307). -/
def hmodFormed (d : BitVec 24) : Bool :=
  decide (d.extractLsb' 11 13 = 0) && !d.getLsbD 3 && decide (hmodCp d ≠ 3) && decide (hmodRm d ≠ 6) &&
    (decide ((hmodSc d).toNat ≤ 8) || decide (hmodSc d = 15))

/-- A hint that applies something to the instruction and nothing that does not apply (R309). -/
def hintApplies (u : HintUse) (h : Hint) : Bool :=
  if h.kind = 0 then u.himm
  else if h.kind = 1 then
    hmodFormed h.data &&
      (hmodSat h.data || decide (hmodCp h.data ≠ 0) || decide (hmodSc h.data ≠ 15) || decide (hmodRm h.data ≠ 7)) &&
      (!hmodSat h.data || u.sat) && (decide (hmodCp h.data = 0) || u.cp) &&
      (decide (hmodSc h.data = 15) || u.sc) && (decide (hmodRm h.data = 7) || u.rm)
  else decide (h.kind = 2) && u.gc && decide (h.data.extractLsb' 5 19 = 0)

/-- R309, and R308 for ACAS: the pending hints are in order for the instruction. -/
def hintsOk (i : Instr) (hints : List Hint) : Bool :=
  let u := hintUse i
  hints.all (hintApplies u) && decide ((hints.map (·.kind)).Nodup) &&
    (!u.gc || hints.any fun h => decide (h.kind = 2))

/-- The data of the pending hint of a kind. -/
def Thread.hint (t : Thread) (kind : BitVec 2) : Option (BitVec 24) :=
  (t.hints.find? fun h => decide (h.kind = kind)).map (·.data)

def Thread.himm (t : Thread) : Option (BitVec 24) := t.hint 0

/-- The scope that an HMOD gives the access, if it does (R307). -/
def Thread.hmodScope (t : Thread) : Option (BitVec 4) :=
  match t.hint 1 with
  | some d => if hmodSc d = 15 then none else some (hmodSc d)
  | none => none

/-- The mode of an instruction that rounds by HMOD RM (R307). -/
def Thread.hmodMode (t : Thread) : Mode := t.mode ((t.hint 1).elim 7 hmodRm)

/-- HMOD SAT (R376). -/
def Thread.hmodSatOn (t : Thread) : Bool := (t.hint 1).elim false hmodSat

/-- GC of HMOD2 (R308). -/
def Thread.expectedReg (t : Thread) : BitVec 5 := (t.hint 2).elim 0 fun d => d.extractLsb' 0 5

/-! ### Immediates, offsets and targets (R305) -/

def immSigned (himm : Option (BitVec 24)) (i : BitVec 16) : Word :=
  match himm with
  | some d => (d ++ i).signExtend 64
  | none => i.signExtend 64

def immZero (himm : Option (BitVec 24)) (i : BitVec 16) : Word :=
  match himm with
  | some d => (d ++ i).zeroExtend 64
  | none => i.zeroExtend 64

def immLdhi (himm : Option (BitVec 24)) (i : BitVec 16) : Word := immZero himm i <<< 24

/-- off_m: scaled by the access size without a hint, in bytes with one. -/
def offM (himm : Option (BitVec 24)) (o : BitVec 12) (size : Nat) : Word :=
  match himm with
  | some d => (d ++ o).signExtend 64
  | none => o.signExtend 64 * BitVec.ofNat 64 size

def offMs (himm : Option (BitVec 24)) (o : BitVec 8) : Word :=
  match himm with
  | some d => (d ++ o).signExtend 64
  | none => o.signExtend 64 * 8

def targetB (pc : BitVec 19) (o : BitVec 16) : Word := pc.zeroExtend 64 + o.signExtend 64 * 4
def targetJ (pc : BitVec 19) (o : BitVec 26) : Word := pc.zeroExtend 64 + o.signExtend 64 * 4

/-! ### Step 8: admission -/

/-- The requesters that a window's RANGE admits (R150). -/
def inRange (range owner core : Nat) : Bool :=
  match range with
  | 0 => decide (State.quadOf owner = State.quadOf core)
  | 1 => decide (State.clusterOf owner = State.clusterOf core)
  | 2 => decide (State.dieOf owner = State.dieOf core)
  | 3 => decide (owner / 1024 = core / 1024)
  | 4 => true
  | _ => false

/-- One window admits the access (R151). -/
def windowAdmits (w : Word) (owner core off len : Nat) (rd wr : Bool) : Bool :=
  w.getLsbD 63 && (!rd || w.getLsbD 62) && (!wr || w.getLsbD 61) &&
    inRange (bitsOf w.toNat 59 57) owner core &&
    decide (bitsOf w.toNat 12 0 ≤ off / 64) && decide ((off + len - 1) / 64 ≤ bitsOf w.toNat 44 32)

/-- The live tile that covers an offset of a die's store. -/
def Die.tileAt (d : Die) (off : Nat) : Option Tile :=
  d.tiles.find? fun t => decide (t.base ≤ off) && decide (off < t.base + 0x1000 * 4 ^ t.cls)

/-- Admission of one part (R151, R176, R187) for an access by a thread on `core`; `rd` and `wr` are what it needs of a
window. -/
def admitPart (s : State) (core : Nat) (t : Thread) (rd wr : Bool) (p : Part) : Except Stop Unit :=
  match Place.tier p.loc with
  | .localMem =>
    let owner := Place.core p.loc
    if owner = core then .ok ()
    else if (s.core owner).lmwin.any fun w => windowAdmits w owner core (p.loc % 0x8_0000) p.len rd wr then .ok ()
    else .error (.trap 6 p.va)
  | .tileStore =>
    let d := s.die (Place.die p.loc)
    let off := Place.tileOff p.loc
    if off / 0x1_0000 < d.tpLow then
      (if d.tpOpen || t.sv then .ok () else .error (.trap 3 p.va))
    else
      match d.tileAt off with
      | none => .error (.trap 3 p.va)
      | some tile =>
        let j := s.job tile.job
        if j.asid ≠ t.asid ∧ ¬t.sv then .error (.trap 3 p.va)
        else if 0x1000_0000_0000 ≤ p.va.toNat ∧ ¬j.pod then .error (.trap 3 p.va)
        else if wr ∧ tile.sealed then .error (.trap 9 p.va)
        else .ok ()
  | _ => .ok ()

/-- Step 8 over the lanes. -/
def admitParts (s : State) (core : Nat) (t : Thread) (rd wr : Bool) : List Part → Except Stop Unit
  | [] => .ok ()
  | p :: rest =>
    match admitPart s core t rd wr p with
    | .error e => .error e
    | .ok _ => admitParts s core t rd wr rest

/-! ### Regions: the undo area -/

/-- The thread's accesses are logged and its publications deferred: a region is open and no handler runs (R252). -/
def Thread.inRegion (t : Thread) : Bool := !t.levels.isEmpty && !t.hnd

/-- The place of byte `off` of the thread's undo area (R267), if it can be written there: an access that its translation
or its admission (R151, R176, R187) refuses meets a fault (R283). -/
def undoPlace (s : State) (core : Nat) (t : Thread) (off : Nat) : Option Nat :=
  let va := (t.rgnBase ++ 0#14).signExtend 64 + BitVec.ofNat 64 off
  (deviceWalk s t.asid va true core).filter fun p =>
    match admitPart s core t false true ⟨va, p, 64, [], 0⟩ with
    | .ok _ => true
    | .error _ => false

/-- Whether `size` bytes from the fill offset on can be written (R283): below the area's end, every line mapped. -/
def undoFits (s : State) (core : Nat) (t : Thread) (size : Nat) : Bool :=
  decide (t.fill + size ≤ t.rgnSize.toNat * 0x4000) &&
    (List.range (size / 64)).all fun i => (undoPlace s core t (t.fill + 64 * i)).isSome

/-- The undo-overflow trap (R283, R250). -/
def undoOverflow (t : Thread) : Stop := .trap 11 (BitVec.ofNat 64 t.fill)

/-- The address of byte `off` of the thread's undo area. -/
def undoAddress (t : Thread) (off : Nat) : Word := (t.rgnBase ++ 0#14).signExtend 64 + BitVec.ofNat 64 off

/-- The bytes of a record that R270 lays down, by their unit of 64 in it: a line's old contents, an accumulator's
elements after its header. The layout of the rest is open (log entry 8). -/
def recordUnit (r : Option UndoRec) (i : Nat) : Option (List Byte) :=
  match r with
  | some (.line _ _ old _ _) => if i = 0 then some old else none
  | some (.accum _ old) =>
    if i = 0 then none
    else some (((old.elems.drop (16 * (i - 1))).take 16).flatMap fun (e : BitVec 32) => toBytes 4 e.toNat)
  | _ => none

/-- A record written in the area (R269), through its pages (R161): each unit is written whole, so that no earlier poison
stays (R341). -/
def openArea (s : State) (core : Nat) (t : Thread) (size : Nat) (r : Option UndoRec) : State :=
  (List.range (size / 64)).foldl (fun s i =>
    match undoPlace s core t (t.fill + 64 * i) with
    | some p =>
      let s1 := countTransfers (deviceMark s t.asid (undoAddress t (t.fill + 64 * i)) true) p 64
      match recordUnit r i with
      | some bytes => s1.write p bytes
      | none => (s1.clearPoison p 64).openUp p 64
    | none => s) s

/-- A record of `size` bytes written at the fill offset (R269, R270). -/
def logRecord (s : State) (core : Nat) (t : Thread) (size : Nat) (r : UndoRec) : Except Stop (State × Thread) :=
  if undoFits s core t size then
    .ok (openArea s core t size (some r), { t with undo := (t.fill, r) :: t.undo, fill := t.fill + size })
  else .error (undoOverflow t)

/-- The reservation of `n` operation records at issue (R283). -/
def reserveAll (s : State) (core : Nat) (t : Thread) (n : Nat) : Except Stop Unit :=
  if t.inRegion && !undoFits s core t (64 * n) then .error (undoOverflow t) else .ok ()

/-- The reservation of an operation record at issue (R283). -/
def reserve (s : State) (core : Nat) (t : Thread) : Except Stop Unit := reserveAll s core t 1

/-- The records that an instruction with result `d` takes beside its own: one for POUT (R143). -/
def Thread.poutRecords (t : Thread) (d : BitVec 5) : Nat := if t.port.en && d = 29 then 1 else 0

/-- An operation record when a region is open (R270, R275). -/
def logOp (s : State) (core : Nat) (t : Thread) (r : UndoRec) : Except Stop (State × Thread) :=
  if t.inRegion then logRecord s core t 64 r else .ok (s, t)

/-! ### Port chains (R141 to R143) -/

/-- The core in a direction of the mesh (R141): 0 self, 1 north, 2 east, 3 south, 4 west. -/
def neighbour (core dir : Nat) : Option Nat :=
  match dir with
  | 0 => some core
  | 1 => if State.coreY core = 0 then none else some (core - 16)
  | 2 => if State.coreX core = 15 then none else some (core + 1)
  | 3 => if State.coreY core = 7 then none else some (core + 16)
  | 4 => if State.coreX core = 0 then none else some (core - 1)
  | _ => none

/-- The opposite direction (R142). -/
def opposite (dir : Nat) : Nat :=
  match dir with
  | 1 => 3
  | 2 => 4
  | 3 => 1
  | 4 => 2
  | _ => 0

/-- The thread's own inbound queue (UP, CH). -/
def Thread.pinQueue (t : Thread) : Nat := t.port.up.toNat * 4 + t.port.ch.toNat

/-- The queue that POUT appends to: the core in direction DN and its queue (R142). -/
def Thread.poutTarget (t : Thread) (core : Nat) : Nat × Nat :=
  ((neighbour core t.port.dn.toNat).getD core, opposite t.port.dn.toNat * 4 + t.port.ch.toNat)

def State.queue (s : State) (core q : Nat) : List Word := NatMap.get (s.core core).queues q []

def State.setQueue (s : State) (core q : Nat) (l : List Word) : State :=
  s.modCore core fun c => { c with queues := NatMap.set c.queues q l }

/-- The oldest thread of a core that waits for a flit of queue `q` (R142). -/
def State.pinWaiter (s : State) (core q : Nat) : Option (Nat × Thread) :=
  (s.residents.filterMap fun e => match e.2.park with
    | some (.retry (.pinQueue q' n)) => if e.1 / 16 = core ∧ q' = q then some (n, e) else none
    | _ => none).foldl (fun best x => match best with
      | none => some x
      | some b => if x.1 < b.1 then some x else some b) none |>.map (·.2)

/-! ### Sleep (R152) -/

/-- The resident threads of a core. -/
def coreThreads (s : State) (core : Nat) : List Thread := (List.range 16).filterMap (s.threadIn core)

/-- The depth that a core enters. -/
def sleepDepth (s : State) (core : Nat) : BitVec 2 :=
  (coreThreads s core).foldl (fun d t => if t.slpreq.toNat < d.toNat then t.slpreq else d) (s.core core).maxd

/-- A parked operation that has begun, so that its value is still to come. -/
def Park.begun : Park → Bool
  | .retry _ | .walk .. | .swap .. | .compare => false
  | _ => true

/-- The cycle from which the trailing thread of a pair is ready (R262): while the leading one is ahead of it, but not for a
value that has not come, and at an instruction that waits at the comparator. -/
def Thread.trailFrom (t : Thread) : Option Nat :=
  if !t.pair || t.halted then none
  else match t.trail.lag with
    | [] => if t.park = some .compare ∧ ¬t.stopping then some t.trail.readyAt else none
    | [value] => if value.1 && t.park.any Park.begun then none else some t.trail.readyAt
    | _ => some t.trail.readyAt

/-- The cycle of a thread's last issue, of a pair the later of its two threads' (R262): the trailing one is ready 8 cycles
after each. -/
def Thread.issuedAt (t : Thread) : Nat :=
  let lead := t.lastIssue.getD t.readyAt
  if t.pair && decide (t.trail.issued ≠ 0) then Nat.max lead (t.trail.readyAt - 8) else lead

/-- The cycle from which every resident thread has been parked, if they all are: the latest of their last issues, or the
leave of the last thread of an empty core. -/
def allParkedFrom (s : State) (core : Nat) : Option Nat :=
  let ts := coreThreads s core
  if ts.all fun t => t.park.isSome && t.trailFrom.isNone then
    some (ts.foldl (fun m t => Nat.max m t.issuedAt) (if ts = [] then (s.core core).leftAt else 0))
  else none

/-- The cycle at which a core that is awake falls asleep as things stand. -/
def sleepDue (s : State) (core : Nat) : Option Nat :=
  let c := s.core core
  if c.asleep ≠ 0 ∨ c.products ≠ [] ∨ sleepDepth s core = 0 then none
  else (allParkedFrom s core).map (· + 2 ^ c.delay.toNat)

/-- The depth at which a core sleeps: the one it has entered, or the one that is due by now. -/
def depthNow (s : State) (core : Nat) : BitVec 2 :=
  if (sleepDue s core).any fun due => decide (due ≤ s.now) then sleepDepth s core else (s.core core).asleep

/-- A core's sleep ends (R152): it is awake after the latency of its depth. -/
def State.rouse (s : State) (core : Nat) : State :=
  match (depthNow s core).toNat with
  | 1 => s.modCore core fun c => { c with asleep := 0, awakeAt := s.now + 2 }
  | 2 => s.modCore core fun c => { c with asleep := 0, awakeAt := s.now + 40 }
  | _ => s

/-- A wait whose instruction a swap-out lets complete (R257, last row). -/
def Wait.finishes : Wait → Bool
  | .settling | .products _ | .rotationBuffer | .commands | .issues => true
  | _ => false

/-- A thread that leaves its park, and a pair's trailing one with it, is ready 8 cycles after its issue and once its core has
woken (R136, R152). -/
def wakeThread (s : State) (core : Nat) (t : Thread) : Thread :=
  let again : Bool := match t.park with
    | some (.retry w) => w.finishes
    | _ => false
  let awake := (s.core core).awakeAt
  { t with
    park := none, closing := false, again := again, readyAt := Nat.max t.readyAt (Nat.max s.now awake)
    trail := { t.trail with readyAt := Nat.max t.trail.readyAt awake } }

/-- A wake ends the core's sleep. -/
def State.wake (s : State) (k : Nat) : State :=
  match NatMap.get s.slots k .empty with
  | .busy t =>
    let s1 := s.rouse (k / 16)
    { s1 with slots := NatMap.set s1.slots k (.busy (wakeThread s1 (k / 16) t)) }
  | _ => s

/-- The thread of slot `k` parks (R135, R136). -/
def parkIn (s : State) (k : Nat) (t : Thread) (p : Park) : State :=
  { s with
    slots := NatMap.set s.slots k (.busy { t with park := some p })
    pushSeq := s.pushSeq + 1 }

/-- A stop that the thread in slot `k` meets at its completion: it follows within the step. -/
def State.stopLater (s : State) (k : Nat) (t : Thread) : Stop → State
  | .trap c v => (s.putSlot k { t with park := some (.retry .settling) }).later (.trap t.uid c v)
  | .error v => (s.putSlot k { t with park := some (.retry .settling) }).later (.consume t.uid v)
  | .park p => s.putSlot k { t with park := some p }

/-- A flit is offered to the parked readers of a queue, the oldest first: a reader whose undo record no longer fits traps
(R283), and the next one is offered it. -/
def State.offerFlit (core q : Nat) (flit : Word) : Nat → State → State
  | 0, s => s.setQueue core q (s.queue core q ++ [flit])
  | fuel + 1, s =>
    match s.pinWaiter core q with
    | none => s.setQueue core q (s.queue core q ++ [flit])
    | some (k, t) =>
      match logOp s core t (.pin core q flit) with
      | .ok (s1, t1) => (s1.modSlot k fun _ => { t1 with taken := some (q, flit) }).wake k
      | .error e => State.offerFlit core q flit fuel (s.stopLater k t e)

/-- A flit that arrives: the oldest parked reader gets it, or it joins the queue's tail (R142). -/
def State.pushFlit (s : State) (core q : Nat) (flit : Word) : State := State.offerFlit core q flit (s.slots.length + 1) s

/-- An instruction's end at its thread: PC at the next word, hints spent (R309). -/
def Thread.advance (t : Thread) : Thread :=
  { t with pc := t.pc + 4, hints := [], taken := none, counted := none, atIssue := none }

/-- The undo records without the oldest deferred publication. -/
def dropPublication (undo : List (Nat × UndoRec)) : List (Nat × UndoRec) :=
  let old := undo.reverse
  let isPub (r : Nat × UndoRec) : Bool := match r.2 with
    | .publish _ => true
    | _ => false
  (old.takeWhile (fun r => !isPub r) ++ (old.dropWhile fun r => !isPub r).drop 1).reverse

/-- The end of a parked operation: its instruction's end, or one deferred publication of the REND that waits, which
then goes on with the rest (R277). -/
def Thread.complete (t : Thread) : Thread :=
  if t.closing then { t with closing := false, undo := dropPublication t.undo } else t.advance

/-- The parked threads that a test of their wait picks, by the order number it gives, oldest first. -/
def State.waiters (s : State) (f : Thread → Option Nat) : List (Nat × Nat × Thread) :=
  let found := s.residents.filterMap fun e => (f e.2).map fun n => (n, e)
  found.foldl (fun acc x => acc.takeWhile (fun y => decide (y.1 < x.1)) ++ [x] ++
    acc.dropWhile (fun y => decide (y.1 < x.1))) []

/-- The order of a thread among those whose flit waits for room in queue `q` of a core (R142). -/
def poutOrder (core q : Nat) (t : Thread) : Option Nat :=
  match t.park with
  | some (.pout c p _ n _) => if c = core ∧ p = q then some n else none
  | _ => none

/-- A flit of a core can join queue `q` of core `core`: there is room, and no flit issued earlier waits for it (R142). -/
def State.poutRoom (s : State) (core q : Nat) : Bool :=
  decide ((s.queue core q).length < 8) && !(s.residents.any fun e => (poutOrder core q e.2).isSome)

/-- A POUT that waited is done: its instruction's end, at the PC that follows it, or one publication of a REND (R277). -/
def Thread.poutDone (t : Thread) (next : BitVec 19) : Thread :=
  if t.closing then t.complete
  else { t.advance with pc := next, owed := none, fpst := t.fpst ||| t.late.zeroExtend 14, late := 0 }

/-- Room has come in queue `q` of a core: the flits that wait for it join in the order of their issue (R142). -/
def State.queueRoom (s : State) (core q : Nat) : State :=
  (s.waiters (poutOrder core q)).foldl (fun s x =>
    match x.2.2.park with
    | some (.pout _ _ v _ next) =>
      if (s.queue core q).length < 8 then
        ((s.pushFlit core q v).modSlot x.2.1 fun t => t.poutDone next).wake x.2.1
      else s
    | _ => s) s

/-! ### Reading registers -/

/-- The value of a g register once it is full: g0 is zero, POUT reads zero, PIN is the flit taken (R138, R318). -/
def Thread.gVal (t : Thread) (r : BitVec 5) : Word :=
  if r = 0 then 0
  else if t.port.en && r = 29 then 0
  else if t.port.en && r = 28 then (t.taken.map (·.2)).getD 0
  else t.g.getD r.toNat 0

def Thread.gIsFull (t : Thread) (r : BitVec 5) : Bool :=
  r = 0 || (t.port.en && (r = 28 || r = 29)) || t.gFull.getLsbD r.toNat

def Thread.vVal (t : Thread) (r : Nat) : VWord := t.v.getD (r % 16) 0

def Thread.vIsFull (t : Thread) (r : Nat) : Bool := t.vFull.getLsbD (r % 16)

/-- m0 reads all ones (R137). -/
def Thread.mVal (t : Thread) (r : BitVec 2) : Word :=
  match r.toNat with
  | 0 => BitVec.allOnes 64
  | 1 => t.m1
  | 2 => t.m2
  | _ => t.m3

/-- A write to m0 is discarded (R138). -/
def Thread.setM (t : Thread) (r : BitVec 2) (w : Word) : Thread :=
  match r.toNat with
  | 0 => t
  | 1 => { t with m1 := w }
  | 2 => { t with m2 := w }
  | _ => { t with m3 := w }

/-- The flit of a PIN read (R142, R318): taken once however many fields name g28; the read is logged in a region. -/
def takePin (s : State) (core : Nat) (t : Thread) : Except Stop (State × Thread) :=
  match t.taken, reserve s core t with
  | some _, _ => .ok (s, t)
  | none, .error e => .error e
  | none, .ok _ =>
    let q := t.pinQueue
    match s.queue core q with
    | [] => .error (.park (.retry (.pinQueue q s.pushSeq)))
    | flit :: rest =>
      match logOp s core t (.pin core q flit) with
      | .error e => .error e
      | .ok (s1, t1) => .ok ((s1.setQueue core q rest).queueRoom core q, { t1 with taken := some (q, flit) })

/-- Whether a g register reads with bad parity (R260); g0, PIN and POUT lie in no register file. -/
def Thread.gBad (t : Thread) (r : BitVec 5) : Bool :=
  !(r = 0 || (t.port.en && (r = 28 || r = 29))) && t.badG.getLsbD r.toNat

def Thread.vBad (t : Thread) (r : Nat) : Bool := t.badV.getLsbD (r % 16)

/-- R318, R366: every source is full, or the thread parks; a parity error is consumed (R260); PIN gives its flit. -/
def readSources (s : State) (t : Thread) (gs : List (BitVec 5)) (vs : List Nat) : Except Stop (State × Thread) :=
  if gs.all t.gIsFull && vs.all t.vIsFull then
    if gs.any t.gBad || vs.any t.vBad then .error (.error 0)
    else if t.port.en && gs.contains 28 then takePin s s.cur.1 t else .ok (s, t)
  else .error (.park (.retry (.register (gs.filter fun r => !t.gIsFull r) (vs.filter fun r => !t.vIsFull r))))

/-! ### Writing registers -/

/-- A g register that is written and set full, without regard to ports (R139). -/
def Thread.fillG (t : Thread) (d : BitVec 5) (w : Word) : Thread :=
  if d = 0 then t
  else { t with
    g := t.g.set d.toNat w, gFull := t.gFull ||| (1#32 <<< d.toNat), badG := t.badG &&& ~~~(1#32 <<< d.toNat) }

def Thread.setV (t : Thread) (d : Nat) (w : VWord) : Thread :=
  { t with
    v := t.v.set (d % 16) w, vFull := t.vFull ||| (1#16 <<< (d % 16)), badV := t.badV &&& ~~~(1#16 <<< (d % 16)) }

/-- R319: the result of an instruction of the thread in slot's core `core`; it waits for room downstream in the order of
issue. -/
def writeG (s : State) (core : Nat) (t : Thread) (d : BitVec 5) (w : Word) : Except Stop (State × Thread) :=
  if t.port.en && d = 28 then .ok (s, t)
  else if t.port.en && d = 29 then
    let target := t.poutTarget core
    if t.inRegion then logOp s core t (.publish (.pout target.1 target.2 w))
    else
      if s.poutRoom target.1 target.2 then .ok (s.pushFlit target.1 target.2 w, t)
      else .error (.park (.pout target.1 target.2 w s.pushSeq (t.pc + 4)))
  else .ok (s, t.fillG d w)

/-! ### Lanes (R367) -/

/-- Lane `i` of `w` bits. -/
def lane (v : VWord) (w i : Nat) : Nat := v.toNat / 2 ^ (w * i) % 2 ^ w

/-- The register with these lanes of `w` bits, lane 0 first. -/
def ofLanes (w : Nat) (lanes : List Nat) : VWord :=
  BitVec.ofNat 512 (lanes.foldr (fun x acc => x % 2 ^ w + 2 ^ w * acc) 0)

/-- Whether lane `i` is active. -/
def active (m : Word) (i : Nat) : Bool := m.getLsbD i

/-- Lanes of `old` with the active ones replaced (R367). -/
def mergeLanes (w : Nat) (m : Word) (old : VWord) (f : Nat → Nat) : VWord :=
  ofLanes w ((List.range (512 / w)).map fun i => if active m i then f i else lane old w i)

/-- The bytes of a v register (R367). -/
def vBytes (v : VWord) : List Byte := toBytes 64 v.toNat

def ofVBytes (bytes : List Byte) : VWord := BitVec.ofNat 512 (ofBytes bytes)

/-- A signed lane. -/
def signedLane (w x : Nat) : Int := if 2 ^ (w - 1) ≤ x then (x : Int) - 2 ^ w else x

/-- A lane width in bits from its 2-bit code (R367). -/
def laneBits (w : BitVec 2) : Nat := 8 * 2 ^ w.toNat

/-- A float format code from the 2-bit field (R367). -/
def laneFmt (f : BitVec 2) : Nat :=
  match f.toNat with
  | 0 => 3
  | 1 => 4
  | 2 => 2
  | _ => 1

/-- The accumulator `n`, when assigned (R138). -/
def Thread.accAt (t : Thread) (n : BitVec 3) : Option Acc := t.acc[n.toNat]?

def Thread.setAcc (t : Thread) (n : Nat) (a : Acc) : Thread := { t with acc := t.acc.set n a }

end Sys2Proof.Machine
end

