-- ==== Sys2Proof/Machine/Home.lean ====
section
/-!
DEFINITION. What accesses to memory share: the checks of R339 in their passes over the lanes, what an operation needs of
windows (R151) and full bits, a thread's own view of memory (R224, R276), the lines that a region logs (R274), pending
stores (R224, R227), and the service of parked accesses (R236).
-/
namespace Sys2Proof.Machine

/-! ### Checks 3 to 6 of R339 -/

/-- One lane after translation. -/
structure Spot where
  part : Part
  attr : Option (BitVec 9)
  remote : Bool
  own : Bool
  deriving DecidableEq, Repr

/-- The place of a module that is absent from the pod (R157, R28). -/
def Place.nowhere : Nat := 7 * Place.unit

/-- Whether anything answers at a place: a module of the pod (R28), an address that HBM has (R57), a CXL address that
a decoder covers (R469). -/
def reachable (s : State) (p : Nat) : Bool :=
  if p ≥ Place.nowhere then false
  else s.inPod (Place.module p) && match Place.tier p with
    | .hbm => decide (p % Place.unit % 0x4_0000_0000_0000 < 0x180_0000_0000)
    | .cxl =>
      Place.module p ≠ s.modNum ||
        s.decoders.any fun d =>
          decide (d.base ≤ p % Place.unit % 0x10_0000_0000_0000) &&
            decide (p % Place.unit % 0x10_0000_0000_0000 < d.base + d.size)
    | _ => true

/-- The attribute of a core's local-memory page (R167). -/
def lmAttr (s : State) (core off : Nat) : BitVec 9 := (s.core core).lmfmt.getD (off / 0x2_0000) 0

/-- Step 6 for one lane: the place and the attribute. -/
def locate (s : State) (core : Nat) (t : Thread) (n : Need) (lane len : Nat) (va : Word) : Target → Except Stop Spot
  | .localMem c off own => .ok ⟨⟨va, Place.lm c off, len, [], lane⟩, some (lmAttr s c off), !own, own⟩
  | .tileStore d off _ => .ok ⟨⟨va, Place.tile d off, len, [], lane⟩, none, false, false⟩
  | .absent _ => .ok ⟨⟨va, Place.nowhere, len, [], lane⟩, none, false, false⟩
  | .paged =>
    match cachedTrans s core t.asid va n.write with
    | none => .error (.park (.walk va n.read n.write))
    | some tr =>
      if n.granted tr.leaf then .ok ⟨⟨va, tr.place va, len, [], lane⟩, some (Pte.attr tr.leaf), false, false⟩
      else .error (.trap 3 va)

/-- Steps 3 to 6 of R339, each a pass over the lanes; `fullBits` when the operation needs them (step 5: R234, R340). -/
def resolve (s : State) (core : Nat) (t : Thread) (rd wr fullBits : Bool) (len align : Nat)
    (lanes : List (Nat × Word)) : Except Stop (List Spot) :=
  match lanes.find? fun l => (targetOf core s.pod l.2).isNone with
  | some l => .error (.trap 3 l.2)
  | none =>
    match lanes.find? fun l => decide (l.2.toNat % align ≠ 0) with
    | some l => .error (.trap 2 l.2)
    | none =>
      match lanes.mapM fun l =>
          locate s core t ⟨rd, wr, t.sv⟩ l.1 len l.2 ((targetOf core s.pod l.2).getD .paged) with
      | .error e => .error e
      | .ok spots =>
        match spots.find? fun x => fullBits && decide (Place.tier x.part.loc = .cxl) with
        | some x => .error (.trap 3 x.part.va)
        | none => .ok spots

/-! ### Step 8: admission -/

/-- What an operation needs of a window (R151): reading, writing. -/
def MemOp.needs : MemOp → Bool × Bool
  | .load .. | .vload .. | .vdecode .. | .ldo .. | .waita .. | .bankGet .. => (true, false)
  | .mld .. | .mcbk .. | .mldb .. | .tget .. | .fetch | .jwait .. => (true, false)
  | .store | .stp | .stf | .bankSet .. | .bankAdd .. | .fence | .mst .. => (false, true)
  | .atomic .. | .afaddv .. | .ldc .. | .empty => (true, true)

/-- Whether an operation needs full bits at its word (R234, R340 step 5). -/
def MemOp.fullBits : MemOp → Bool
  | .ldo .. | .ldc .. | .stp | .stf | .empty | .afaddv .. | .jwait .. => true
  | _ => false

/-! ### Deferred and early values (R276, R225) -/

/-- A stretch of bytes with one store laid over it. -/
def overlay (p : Nat) (old : List Byte) (loc : Nat) (data : List Byte) : List Byte :=
  old.mapIdx fun i b => if loc ≤ p + i ∧ p + i < loc + data.length then data.getD (p + i - loc) b else b

/-- The store parts of a deferred release store or STF (R276). -/
def deferredParts (t : Thread) : List Part :=
  t.undo.reverse.flatMap fun r => match r.2 with
    | .publish (.access q) | .publish (.stale q) => match q.op with
      | .store | .stf => q.parts
      | _ => []
    | _ => []

/-- Whether an STF to the word at `loc` is deferred: its thread finds the word full (R276). -/
def stfPending (t : Thread) (loc : Nat) : Bool :=
  t.undo.any fun r => match r.2 with
    | .publish (.access q) | .publish (.stale q) => decide (q.op = .stf) && q.parts.any fun p => decide (p.loc = loc)
    | _ => false

/-- What a thread's own load of a place returns: memory, in which its earlier stores to the place have been performed
(R224, R227 item 1), the units that the load has read already (R225), and its deferred stores over both (R276). -/
def ownView (s : State) (t : Thread) (p n : Nat) : List Byte :=
  let read := (s.seen.filter fun x => decide (x.1 = t.uid ∧ x.2.1 = t.issued)).foldl
    (fun b x => overlay p b x.2.2.1 x.2.2.2) (s.bytes p n)
  (deferredParts t).foldl (fun b x => overlay p b x.loc x.data) read

/-! ### Stores in a region (R274) -/

/-- The 64-byte lines that a part touches, with the address of each. -/
def linesOf (p : Part) : List (Word × Nat) :=
  (State.touchedUnits p.loc p.len).map fun u =>
    (if 64 * u ≤ p.loc then p.va else p.va + BitVec.ofNat 64 (64 * u - p.loc), 64 * u)

/-- A part line by line: what admits it asks at each (R150, R187). -/
def piecesOf (p : Part) : List Part :=
  (State.touchedUnits p.loc p.len).map fun u =>
    let lo := Nat.max p.loc (64 * u)
    { p with va := p.va + BitVec.ofNat 64 (lo - p.loc), loc := lo, len := Nat.min (p.loc + p.len) (64 * u + 64) - lo, data := [] }

/-- Whether an open level's ranges cover the line at an address (R272). -/
def preserved (t : Thread) (va : Word) : Bool :=
  t.ranges.any fun r => decide (r.base.toNat ≤ va.toNat) && decide (va.toNat < r.base.toNat + r.len)

/-- Whether the line lies in a tile whose grant is logged in an open level (R192). -/
def grantedTile (s : State) (t : Thread) (loc : Nat) : Bool :=
  decide (Place.tier loc = .tileStore) &&
    match (s.die (Place.die loc)).tileAt (Place.tileOff loc) with
    | none => false
    | some tile => t.undo.any fun r => match r.2 with
      | .grant d b g => decide (d = Place.die loc) && decide (b = tile.base) && decide (g = tile.gen)
      | _ => false

/-- The eight full bits of a line. -/
def fullBitsAt (s : State) (loc : Nat) : BitVec 8 :=
  BitVec.ofNat 8 ((List.range 8).foldl (fun acc i => acc + if s.full (loc + 8 * i) then 2 ^ i else 0) 0)

/-- One line that a store of an open region writes (R274): logged at its first write in the level, let through in a
granted tile, refused elsewhere. -/
def logLine (s : State) (core : Nat) (t : Thread) (va : Word) (loc : Nat) : Except Stop (State × Thread) :=
  let own := decide (Place.tier loc = .localMem) && decide (Place.core loc = core)
  if own || preserved t va then
    let level := t.levels.length
    let done := t.undo.any fun r => match r.2 with
      | .line _ l _ _ lv => decide (l = loc) && decide (lv = level)
      | _ => false
    if done then .ok (s, t)
    else
      match logRecord s core t 128 (.line va loc (s.bytes loc 64) (fullBitsAt s loc) level) with
      | .error e => .error e
      | .ok (s1, t1) =>
        -- poison travels into the record (R60)
        match s.poisonIn loc 64, undoPlace s core t t.fill with
        | true, some p => .ok (s1.setPoison p, t1)
        | _, _ => .ok (s1, t1)
  else if grantedTile s t loc then .ok (s, t)
  else .error (.trap 10 va)

def logLines (core : Nat) : List (Word × Nat) → State × Thread → Except Stop (State × Thread)
  | [], st => .ok st
  | (va, loc) :: rest, st =>
    match logLine st.1 core st.2 va loc with
    | .error e => .error e
    | .ok st1 => logLines core rest st1

/-- A pending deferred value that later data for its place replace (R276). -/
def replaceRecord (p : Part) (r : UndoRec) : UndoRec :=
  let laid (q : Req) : Req := match q.op with
    | .store | .stf => { q with parts := q.parts.map fun x => { x with data := overlay x.loc x.data p.loc p.data } }
    | _ => q
  match r with
  | .publish (.access q) => .publish (.access (laid q))
  | .publish (.stale q) => .publish (.stale (laid q))
  | _ => r

def replaceDeferred (t : Thread) (p : Part) : Thread :=
  { t with undo := t.undo.map fun r => (r.1, replaceRecord p r.2) }

/-! ### Stores in a handler (R252) -/

/-- A line record after an access in a handler has laid `new` over its bytes from `loc` on, or changed the `full` bits of the words
of `[loc, loc + n)`: a later rollback does not undo that. -/
def amendRecord (s : State) (loc n : Nat) (new : List Byte) (full' : Bool) : UndoRec → UndoRec
  | .line va l old full lv =>
    if l < loc + n ∧ loc < l + 64 then
      let now := fullBitsAt s l
      let words := (List.range 8).filter fun i => full' && decide (l + 8 * i < loc + n ∧ loc < l + 8 * i + 8)
      .line va l (overlay l old loc new)
        (words.foldl (fun (f : BitVec 8) i => (f &&& ~~~(1#8 <<< i)) ||| (now &&& (1#8 <<< i))) full) lv
    else .line va l old full lv
  | r => r

/-- What a part leaves at its place: the bytes that a store carries, which may still be on their way (R227), or what stands
there. -/
def Part.leaves (s : State) (p : Part) : List Byte := if p.data.isEmpty then s.bytes p.loc p.len else p.data

/-- What a part that has been performed in a handler has changed takes effect in what its thread's open regions hold of the
place: line records (R252) and deferred values (R276). -/
def amend (s : State) (data full : Bool) (t : Thread) (p : Part) : Thread :=
  let new := if data then p.leaves s else []
  let t1 := if data then replaceDeferred t { p with data := new } else t
  { t1 with undo := t1.undo.map fun r => (r.1, amendRecord s p.loc p.len new full r.2) }

/-- Data that an engine has brought to a place for its thread at once take effect in what the thread's open regions hold of the
place: deferred values (R276), and for a handler's engine write the line records too (R252). -/
def brought (s : State) (t : Thread) (p : Part) : Thread :=
  if t.hnd && !t.levels.isEmpty then amend s true true t p else replaceDeferred t { p with data := s.bytes p.loc p.len }

/-! ### Register results and wakes -/

/-- What an access brings to its thread. -/
inductive Fill where
  | nothing
  | g (d : BitVec 5) (w : Word)
  | v (d : Nat) (x : VWord)
  /-- An accumulator, its elements written (MLD) or only its flags raised (MST). -/
  | acc (d : BitVec 3) (a : Acc) (written : Bool)
  /-- Nothing, to an instruction that parks until then in its own local memory too (MCBK, MLDB). -/
  | ended
  /-- What the instruction has read and goes on with: it is executed again. -/
  | again (x : AtIssue)
  deriving DecidableEq, Repr

/-- An accumulator is written: every open region remembers it (R279 step 5). -/
def Thread.markDirty (t : Thread) (n : Nat) : Thread :=
  if t.inRegion then { t with levels := t.levels.map fun l => { l with dirty := insertNat l.dirty n } } else t

/-- The thread with an accumulator that an access brings. -/
def Thread.takeAcc (t : Thread) (d : BitVec 3) (a : Acc) (written : Bool) : Thread :=
  if written then (t.setAcc d.toNat a).markDirty d.toNat else t.setAcc d.toNat a

/-- The thread in slot `k`, all but its result for POUT done, waits for room downstream (R319, R142): what it owes stays
with it through a pre-emption, and a flit it has read is spent. -/
def State.owes (s : State) (k : Nat) (t : Thread) : Park → State
  | .pout c q v n next =>
    { s.putSlot k { t with park := some (.pout c q v n next), owed := some (v, next), taken := none } with
      pushSeq := s.pushSeq + 1 }
  | p => s.putSlot k { t with park := some p }

/-- The end of a parked instruction with a result for a g register (R319) and flags, which come with it (R368). -/
def deliverFlagged (s : State) (k : Nat) (t : Thread) (d : BitVec 5) (w : Word) (f : FlagSet) : State :=
  match writeG s (k / 16) t d w with
  | .ok (s1, t1) => ({ s1 with slots := NatMap.set s1.slots k (.busy (t1.flagged f).complete) }).wake k
  | .error (.park p) => s.owes k { t with late := f } p
  | .error e => s.stopLater k t e

/-- The end of a parked instruction with a result for a g register (R319). -/
def deliverG (s : State) (k : Nat) (t : Thread) (d : BitVec 5) (w : Word) : State :=
  match writeG s (k / 16) t d w with
  | .ok (s1, t1) => ({ s1 with slots := NatMap.set s1.slots k (.busy t1.complete) }).wake k
  | .error (.park p) => s.owes k t p
  | .error e => s.stopLater k t e

/-- The end of a parked instruction (R135). -/
def deliver (s : State) (k : Nat) (t : Thread) : Fill → State
  | .nothing => ({ s with slots := NatMap.set s.slots k (.busy t.complete) }).wake k
  | .ended => ({ s with slots := NatMap.set s.slots k (.busy t.complete) }).wake k
  | .g d w => deliverG s k t d w
  | .v d x => ({ s with slots := NatMap.set s.slots k (.busy (t.setV d x).complete) }).wake k
  | .acc d a w => ({ s with slots := NatMap.set s.slots k (.busy (t.takeAcc d a w).complete) }).wake k
  | .again x => ({ s with slots := NatMap.set s.slots k (.busy { t with atIssue := some x }) }).wake k

/-- Threads parked for a reason that makes them try again. -/
def State.wakeRetry (s : State) (f : Nat → Thread → Wait → Bool) : State :=
  s.residents.foldl (fun s e => match e.2.park with
    | some (.retry w) => if f e.1 e.2 w then s.wake e.1 else s
    | _ => s) s

/-! ### Service at a home (R236, R241) -/

/-- The parked operation of a thread at a place: its order when it waits for that kind of change. -/
def homeWait (loc : Nat) (pick : MemOp → Bool) (t : Thread) : Option Nat :=
  match t.park with
  | some (.home r n) =>
    if pick r.op && (r.parts.head?.any fun p => decide (p.loc = loc)) then some n else none
  | _ => none

def MemOp.isLdo : MemOp → Bool
  | .ldo _ => true
  | _ => false

def MemOp.isLdc : MemOp → Bool
  | .ldc _ => true
  | _ => false

def MemOp.isStp : MemOp → Bool
  | .stp => true
  | _ => false

/-- The register a parked home operation returns to. -/
def parkedReg (t : Thread) : BitVec 5 :=
  match t.park with
  | some (.home r _) => match r.op with
    | .ldo d | .ldc d | .waita d _ => d
    | _ => 0
  | _ => 0

/-- The bytes that a parked STP carries. -/
def parkedData (t : Thread) : List Byte :=
  match t.park with
  | some (.home r _) => (r.parts.head?.map (·.data)).getD []
  | _ => []

/-- JWAITs on a DONE word (R431) that a full word ends. -/
def jwaitOn (loc : Nat) (t : Thread) : Option Nat :=
  match t.park with
  | some (.jwait _ _ r n) => if r.parts.head?.any fun p => decide (p.loc = loc) then some n else none
  | _ => none

/-- A JWAIT has returned: its job's number is no longer kept for it (R431). -/
def releaseNumber (s : State) (j : Nat) : State :=
  let x := s.job j
  if x.kept then (s.setJob j Job.free).wakeRetry fun _ _ w => decide (w = .jobNumber)
  else s.setJob j { x with waited := false, opener := none }

/-- The end of a thread's JWAIT, with the register it returns to. -/
def endJwait (s : State) (t : Thread) : State × BitVec 5 :=
  match t.park with
  | some (.jwait j d _ _) => (releaseNumber s j, d)
  | _ => (s, 0)

/-- The parts of the request on which a thread waits at a home, and the address of its word. -/
def parkedParts (t : Thread) : List Part :=
  match t.park with
  | some (.home r _) | some (.jwait _ _ r _) => r.parts
  | _ => []

def parkedVa (t : Thread) : Word := ((parkedParts t).head?.map (·.va)).getD 0

/-- What a thread's regions hold of the place of a request that has been performed, brought up to date in a handler with the
data or the full bits that it has changed. -/
def afterAccess (s : State) (t : Thread) (parts : List Part) (data full : Bool) : Thread :=
  if t.hnd && !t.levels.isEmpty then parts.foldl (amend s data full) t else t

/-- The oldest parked LDC takes the word at `loc` and empties it: its line is logged in a region (R237). -/
def takeWord (s : State) (loc k : Nat) (t : Thread) : State :=
  match (if t.inRegion then logLines (k / 16) ((parkedParts t).flatMap linesOf) (s, t) else .ok (s, t)) with
  | .error e => s.stopLater k t e
  | .ok st =>
    let s1 := st.1.setFull loc false
    deliverG s1 k (afterAccess s1 st.2 (parkedParts t) false true) (parkedReg t) (wordOf (ownView s t loc 8))

/-- The oldest parked STP fills the word at `loc`. -/
def putWord (s : State) (loc k : Nat) (t : Thread) : State :=
  let s1 := (s.write loc (parkedData t)).setFull loc true
  deliver s1 k (afterAccess s1 t (parkedParts t) true true) .nothing

/-- The packet of another module whose STP (`put`) or LDC has waited longest at the home of a word (R236). -/
def foreignWaiter (s : State) (loc : Nat) (put : Bool) : Option (Nat × Inbound) :=
  (s.inbound.filterMap fun p => match p.order, p.op with
    | some n, .stp _ => if put && decide (p.loc = loc) then some (n, p) else none
    | some n, .ldc => if !put && decide (p.loc = loc) then some (n, p) else none
    | _, _ => none).head?

/-- Its operation is performed: the packets wait in the order of their arrival. -/
def serveForeign (s : State) (x : Inbound) : State :=
  let s1 := { s with inbound := s.inbound.filter fun p => decide (p.order ≠ x.order) }
  match x.op with
  | .stp w => (s1.writeWord x.loc w).setFull x.loc true
  | _ => s1.setFull x.loc false

/-- The next to be served of the threads and the packets of other modules that wait at a word. -/
inductive Served where
  | none
  | own (k : Nat) (t : Thread)
  | foreign (x : Inbound)
  deriving DecidableEq, Repr

def nextServed (own : List (Nat × Nat × Thread)) (foreign : Option (Nat × Inbound)) : Served :=
  match own, foreign with
  | [], none => .none
  | x :: _, none => .own x.2.1 x.2.2
  | [], some y => .foreign y.2
  | x :: _, some y => if x.1 < y.1 then .own x.2.1 x.2.2 else .foreign y.2

/-- Readers parked on a word: LDO, LDC and JWAIT. -/
def readerOf (loc : Nat) (t : Thread) : Option Nat :=
  (homeWait loc (fun o => o.isLdo || o.isLdc) t).orElse fun _ => jwaitOn loc t

/-- R236: what a change of a word lets proceed, in its fixed order; `fuel` bounds the rounds by the waiters. Readers of a
poisoned word consume an error, and it stays full (R341). -/
def serveLoop (loc : Nat) : Nat → State → State
  | 0, s => s
  | fuel + 1, s =>
    if s.full loc then
      if s.poisonIn loc 8 then
        (s.waiters (readerOf loc)).foldl (fun s x => s.stopLater x.2.1 x.2.2 (.error (parkedVa x.2.2))) s
      else
        let s1 := (s.waiters (homeWait loc MemOp.isLdo)).foldl (fun s x =>
          deliverG s x.2.1 x.2.2 (parkedReg x.2.2) (wordOf (ownView s x.2.2 loc 8))) s
        let s2 := (s1.waiters (jwaitOn loc)).foldl (fun s x =>
          let e := endJwait s x.2.2
          deliverG e.1 x.2.1 x.2.2 e.2 (s.word loc)) s1
        match nextServed (s2.waiters (homeWait loc MemOp.isLdc)) (foreignWaiter s2 loc false) with
        | .none => s2
        | .own k t => serveLoop loc fuel (takeWord s2 loc k t)
        | .foreign x => serveLoop loc fuel (serveForeign s2 x)
    else
      match nextServed (s.waiters (homeWait loc MemOp.isStp)) (foreignWaiter s loc true) with
      | .none => s
      | .own k t => serveLoop loc fuel (putWord s loc k t)
      | .foreign x => serveLoop loc fuel (serveForeign s x)

/-- R241: a WAITA whose word differs from the value it expects completes; on a poisoned word it consumes an error (R341). -/
def serveWaita (loc : Nat) (s : State) : State :=
  let waits (t : Thread) : Option Nat := match t.park with
    | some (.home ⟨.waita _ e, parts, _⟩ n) =>
      if (parts.head?.any fun p => decide (p.loc = loc)) && (s.poisonIn loc 8 || decide (wordOf (ownView s t loc 8) ≠ e))
      then some n else none
    | _ => none
  (s.waiters waits).foldl (fun s x =>
    if s.poisonIn loc 8 then s.stopLater x.2.1 x.2.2 (.error (parkedVa x.2.2))
    else deliverG s x.2.1 x.2.2 (parkedReg x.2.2) (wordOf (ownView s x.2.2 loc 8))) s

/-- Everything parked on the word at `loc` is tested. -/
def serve (s : State) (loc : Nat) : State := serveWaita loc (serveLoop loc (s.slots.length + s.inbound.length + 1) s)

/-- The word of `[p, p + n)` on which a thread waits at its home, if it does. -/
def waitedWord (p n : Nat) (e : Nat × Thread) : Option Nat :=
  match e.2.park with
  | some (.home r _) | some (.jwait _ _ r _) =>
    (r.parts.head?.map (·.loc)).filter fun l => decide (p ≤ l + 7) && decide (l < p + n)
  | _ => none

/-- The words of `[p, p + n)` on which threads or packets of other modules wait. -/
def waitedWords (s : State) (p n : Nat) : List Nat :=
  s.residents.filterMap (waitedWord p n) ++
    (s.inbound.filter fun x => x.order.isSome && decide (p ≤ x.loc + 7) && decide (x.loc < p + n)).map (·.loc)

/-- Every word of `[p, p + n)` on which something is parked is tested. -/
def serveRange (s : State) (p n : Nat) : State := (waitedWords s p n).foldl serve s

/-- A write that is performed, with what it wakes. -/
def State.store (s : State) (p : Nat) (data : List Byte) : State := serveRange (s.write p data) p data.length

/-! ### Pending stores (R224, R225, R227) -/

/-- The stores of a thread that are accepted and not yet performed, oldest first. -/
def State.pendingOf (s : State) (uid : Nat) : List PendingStore := s.stores.filter fun p => decide (p.owner = uid)

/-- The units of a store as they are performed (R225): its bytes in each aligned 8-byte word. -/
def storeUnits (uid core now : Nat) (p : Part) : List PendingStore :=
  (List.range ((p.loc + p.data.length + 7) / 8 - p.loc / 8)).map fun i =>
    let lo := Nat.max p.loc (8 * (p.loc / 8 + i))
    let hi := Nat.min (p.loc + p.data.length) (8 * (p.loc / 8 + i) + 8)
    ⟨uid, core, p.va + BitVec.ofNat 64 (lo - p.loc), now, lo, (p.data.drop (lo - p.loc)).take (hi - lo),
      decide (p.loc ≤ lo / 64 * 64) && decide (lo / 64 * 64 + 64 ≤ p.loc + p.data.length)⟩

/-- A pending store that has left the list is performed; the last unit of a whole 64-byte one clears its poison (R341). -/
def State.land (s : State) (x : PendingStore) : State :=
  let s1 := s.store x.loc x.data
  if x.whole && !(s.stores.any fun y => y.whole && decide (y.owner = x.owner) && decide (y.loc / 64 = x.loc / 64)) then
    s1.clearPoison (x.loc / 64 * 64) 64
  else s1

/-- Whether an access releases its thread's earlier stores when it is performed (R228). -/
def Req.releases (r : Req) : Bool :=
  match r.op with
  | .load .. | .vload .. | .vdecode .. | .bankGet .. | .bankSet .. | .bankAdd .. => false
  | .mld .. | .mst .. | .mcbk .. | .fetch => false
  | .store => r.scope.isSome
  | _ => true

/-- Whether two requests meet in one location: an aligned word. -/
def Req.meets (a b : Req) : Bool :=
  a.parts.any fun p => b.parts.any fun q =>
    decide (p.loc / 8 * 8 < q.loc + q.len) && decide (q.loc / 8 * 8 < p.loc + p.len)

/-- A request parked on its way to its home, named by its thread and count of issues. -/
def State.sentBy (s : State) (x : Nat × Nat) : Option Req :=
  match s.slotOf x.1 with
  | some (_, t) => match t.park with
    | some (.access r) | some (.remote r) => if t.issued = x.2 then some r else none
    | _ => none
  | none => none

/-- A request of another thread that has reached its home is to be served before a pending store to the same location (R238). -/
def PendingStore.behind (s : State) (x : PendingStore) : Bool :=
  s.arrived.any fun a => decide (a.1 ≠ x.owner) && (s.sentBy a).any fun r =>
    r.parts.any fun p => decide (x.loc / 8 * 8 < p.loc + p.len) && decide (p.loc / 8 * 8 < x.loc + x.data.length)

/-- The `n`-th pending store is performed at its home. -/
def State.performPending (s : State) (n : Nat) : State :=
  match s.stores[n]? with
  | none => s
  | some x =>
    -- stores of one thread to one location are performed in program order (R227 item 1)
    if (s.stores.take n).any fun y =>
        decide (y.owner = x.owner) && decide (y.loc < x.loc + x.data.length) && decide (x.loc < y.loc + y.data.length)
    then s
    else if x.behind s then s
    else ({ s with stores := s.stores.eraseIdx n }.land x).wakeRetry fun _ t w => decide (w = Wait.stores) && decide (t.uid = x.owner)

/-- A plain store of a thread follows a request that reached its home before it (R238): what releases it waits. -/
def State.blocked (s : State) (uid : Nat) : Bool :=
  s.stores.any fun x => decide (x.owner = uid) && x.behind s

/-- All pending stores of a thread are performed, oldest first (R228): each has come to its home in its packet (R24). -/
def State.drainOf (s : State) (uid : Nat) : State :=
  (s.pendingOf uid).foldl State.land { s with stores := s.stores.filter fun x => decide (x.owner ≠ uid) }

/-- The location of a pending store: its word, or the 64-byte unit whose poison it clears with its fellows (R341). -/
def PendingStore.grain (s : State) (x : PendingStore) : Nat :=
  if x.whole && s.poisonIn (x.loc / 64 * 64) 64 then 64 else 8

/-- A pending store of a thread that an access to one of the ranges must follow (R227 item 1): one to its location. -/
def PendingStore.precedes (s : State) (x : PendingStore) (uid : Nat) (ranges : List (Nat × Nat)) : Bool :=
  let n := x.grain s
  decide (x.owner = uid) &&
    ranges.any fun r => decide (x.loc / n * n < r.1 + r.2) && decide (r.1 < x.loc / n * n + n)

/-- The pending stores of a thread that precede an access to one of the ranges are performed, oldest first. -/
def State.drainTo (s : State) (uid : Nat) (ranges : List (Nat × Nat)) : State :=
  ((s.stores.filter fun x => x.precedes s uid ranges)).foldl State.land
    { s with stores := s.stores.filter fun x => !x.precedes s uid ranges }

/-- The same for an access by its parts. -/
def State.drainParts (s : State) (uid : Nat) (parts : List Part) : State :=
  s.drainTo uid (parts.map fun p => (p.loc, p.len))

end Sys2Proof.Machine
end

