-- ==== Sys2Proof/Machine/Columns.lean ====
section
/-!
DEFINITION. Bytes moved with their poison (R60, R234), the scale areas of units (R165), the B store's ready bits (R394), and
what MLDB and MCBK bring (R199, R409, R410).
-/
namespace Sys2Proof.Machine

/-! ### Moves -/

/-- The destinations of units of a moved stretch poisoned. -/
def poisonMoved (s : State) (src dst n : Nat) (bad : List Nat) : State :=
  bad.foldl (fun s u =>
    let lo := Nat.max (64 * u) src - src + dst
    let hi := Nat.min (64 * u + 64) (src + n) - src + dst
    (State.touchedUnits lo (hi - lo)).foldl (fun s v => s.setPoison (64 * v)) s) s

/-- Bytes moved unchanged, poison kept (R60), with the units `more` of the source poisoned on their way; destination words set
full as they land (R234), and who waits on them served. -/
def moveWith (more : Nat → Bool) (s : State) (src dst n : Nat) : State :=
  let bad := (State.touchedUnits src n).filter fun u => s.poisoned.contains u || more u
  let s2 := poisonMoved (s.write dst (s.bytes src n)) src dst n bad
  let s3 := if Place.hasFullBits dst then s2.fillWords dst n else s2
  serveRange s3 dst n

/-- The move of bytes that nothing harms on their way. -/
def moveBytes (s : State) (src dst n : Nat) : State := moveWith (fun _ => false) s src dst n

/-! ### Scales and B columns -/

/-- Chunks of a row of 384 bytes by an attribute's own blocks. -/
def ownChunks (attr : BitVec 9) : Nat :=
  (if attrFmt attr = 14 then 768 else 384) / blockLen attr

/-- Elements in a byte: 2 for cb4. -/
def perByte (attr : BitVec 9) : Nat := if attrFmt attr = 14 then 2 else 1

/-- The scale bytes of `rows` rows of 384 bytes that lie at offset `off` of a 128 KiB unit (R165, R393, R394): their
place and number. -/
def scaleSpan (attr : BitVec 9) (unit off rows : Nat) : Nat × Nat :=
  if attrGeom attr = 0 then (unit, 0)
  else (unit + 0x1_E000 + off * perByte attr / blockLen attr, rows * ownChunks attr)

/-- The places of the ready bits of the B lines at offset `b` (R394): 3 lines of each of 32 slices. -/
def bLines (core b : Nat) : List Nat :=
  (List.range 32).flatMap fun j => (List.range 3).map fun i => Place.bstore core (j * 0x2_0000 + b + 128 * i) / 128

def bReady (s : State) (core b : Nat) : Bool := (bLines core b).all fun l => !s.notReady.contains l

def bNoneReady (s : State) (core b : Nat) : Bool := (bLines core b).all fun l => s.notReady.contains l

def setReady (s : State) (core b : Nat) (r : Bool) : State :=
  let lines := bLines core b
  { s with notReady :=
      if r then s.notReady.filter fun l => !lines.contains l else lines.foldl insertNat s.notReady }

/-- The columns and their scales moved into the slices of a core (R410 steps 2 to 4), the units `more` poisoned on their way (R59). -/
def loadColumns (more : Nat → Bool) (s : State) (core : Nat) (attr : BitVec 9) (loc b : Nat) : State :=
  let unit := loc / 0x2_0000 * 0x2_0000
  let s1 := (List.range 32).foldl (fun s j =>
    let slice := Place.bstore core (j * 0x2_0000)
    let from' := scaleSpan attr unit (loc - unit + 384 * j) 1
    let dest := scaleSpan attr slice b 1
    moveWith more (moveWith more s (loc + 384 * j) (slice + b) 384) from'.1 dest.1 from'.2) s
  setReady (s1.modCore core fun c => { c with bsfmt := attr }) core b true

/-- The sixteen entries of a codebook (R199). -/
def bookOf (bytes : List Byte) : List (BitVec 16) :=
  (List.range 16).map fun i => BitVec.ofNat 16 (ofBytes ((bytes.drop (2 * i)).take 2))

end Sys2Proof.Machine
end

