-- ==== Sys2Proof/Machine/Access.lean ====
section
/-!
DEFINITION. What each operation does at the home of its place (R235, R239, R353, R355, R358, R406, R407, R409, R410, R436), and
how a request goes from its checks to its home (R132, R151, R339).
-/
namespace Sys2Proof.Machine

/-! ### Operations at the home -/

/-- The new value of an integer atomic (R352, R353); none where ACAS does not write. -/
def atomicNew (code w old b expected : Nat) : Option Nat :=
  let sOld := signedLane w old
  let sB := signedLane w b
  match code with
  | 0 => some ((old + b) % 2 ^ w)
  | 1 => some (old &&& b)
  | 2 => some (old ||| b)
  | 3 => some (old ^^^ b)
  | 4 => some (if sB < sOld then b else old)
  | 5 => some (if sOld < sB then b else old)
  | 6 => some (Nat.min old b)
  | 7 => some (Nat.max old b)
  | 8 => some b
  | _ => if old = expected then some b else none

/-- AFADDV's sum of a line (R355): lanes and flags. -/
def afaddvLanes (double : Bool) (mode : Mode) (line operand : VWord) : List (Nat × FlagSet) :=
  let w := if double then 64 else 32
  let code := if double then 1 else 2
  (List.range (512 / w)).map fun i =>
    roundTo code mode ((decodeFloat (floatFmt code) (lane line w i)).add
      (decodeFloat (floatFmt code) (lane operand w i)))

/-- An attribute under which VLD moves bytes unchanged (R361). -/
def rawAttr (attr : BitVec 9) : Bool := decide (attrGeom attr = 0) && decide (attrFmt attr ≠ 14)

/-- Bits of a lane of VLD by the attribute (R361). -/
def vldLane (attr : BitVec 9) : Nat := if rawAttr attr then 64 else if attrFmt attr = 14 then 16 else 32

/-- The bytes of a VLD as lanes (R361). -/
def decodeLanes (attr : BitVec 9) (bytes : List Byte) (scale : Option Byte) (book : List (BitVec 16)) (mode : Mode) :
    List (Nat × FlagSet) :=
  if rawAttr attr then
    (List.range 8).map fun j => (ofBytes ((bytes.drop (8 * j)).take 8), 0)
  else if attrFmt attr = 14 then
    (List.range 32).map fun j =>
      let c := bitsOf (bytes.getD (j / 2) 0).toNat (j % 2 * 4 + 3) (j % 2 * 4)
      match scale with
      | none => ((book.getD c 0).toNat, 0)
      | some sc => roundTo 3 mode (applyScale (decodeElem 14 c book) sc)
  else
    (List.range 16).map fun j =>
      roundTo 2 mode (applyScale (decodeElem (attrFmt attr) (bytes.getD j 0).toNat book) (scale.getD 127))

/-! ### Bank slots (R216, R356, R358) -/

/-- 2^-149 units of a finite exact value. -/
def bankUnits (x : Exact) : Int :=
  match x with
  | .fin n m e => (if n then -1 else 1) * (m * 2 ^ (e + 149).toNat : Nat)
  | _ => 0

def contribution (fmt : Nat) (w : Word) : Exact :=
  if fmt = 13 then .ofInteger (decodeInteger 13 w.toNat)
  else decodeFloat (floatFmt fmt) (w.toNat % 2 ^ fmtWidth fmt)

/-- A contribution added exactly (R216). -/
def BankSlot.add (b : BankSlot) (x : Exact) : BankSlot :=
  let b1 := { b with posOnly := b.posOnly && decide (x = Exact.zero .pos), negOnly := b.negOnly && decide (x = Exact.zero .neg) }
  match x with
  | .nan => { b1 with nan := true }
  | .inf n => if n then { b1 with ninf := true } else { b1 with pinf := true }
  | x => { b1 with sum := b.sum + BitVec.ofInt 384 (bankUnits x) }

/-- A slot's exact value for a read: `none` in the states NaN and overflow (R216). A zero sum has the sign that R203 gives
it; a slot without a contribution is +0. -/
def BankSlot.value (b : BankSlot) : Option Exact :=
  if b.nan || (b.pinf && b.ninf) then none
  else if b.pinf then some (.inf false)
  else if b.ninf then some (.inf true)
  else if b.sum.toInt < -(2 ^ 319) ∨ 2 ^ 319 ≤ b.sum.toInt then none
  else if b.sum = 0 then some (.zero (if b.posOnly then .pos else if b.negOnly then .neg else .byMode))
  else some (Exact.ofInt b.sum.toInt (-149))

/-- BRGET's result (R216). -/
def BankSlot.read (b : BankSlot) (fmt : Nat) (mode : Mode) : Nat × FlagSet :=
  match b.value with
  | none => if fmt = 13 then (0, NV) else ((floatFmt fmt).nanBits, NV)
  | some x => if fmt = 13 then toInt 13 mode x else roundTo fmt mode x

/-- The number of a bank slot on its die: 32 to a bank (R356). -/
def bankSlotOf (off : Nat) : Nat := off / 256 * 32 + off / 8 % 32

/-- The bank slot that a place in a tile store names. -/
def bankAt (s : State) (loc : Nat) : BankSlot :=
  NatMap.get (s.die (Place.die loc)).slots (bankSlotOf (Place.tileOff loc)) BankSlot.reset

def setBank (s : State) (loc : Nat) (b : BankSlot) : State :=
  let d := s.die (Place.die loc)
  s.setDie (Place.die loc) { d with slots := NatMap.set d.slots (bankSlotOf (Place.tileOff loc)) b }

/-! ### Performing -/

/-- What performing an access comes to. -/
inductive Done where
  | ok (s : State) (f : Fill) (flags : FlagSet)
  /-- It waits at the home on the full bit or the value (R235, R241). -/
  | waits
  /-- A detected error with the address of the access (R60, R341, R28). -/
  | error (va : Word)
  deriving DecidableEq, Repr

/-- The lanes of a vector load over the old register (R362, R364). -/
def loadLanes (s : State) (t : Thread) (w : Nat) (old : VWord) (parts : List Part) : VWord :=
  let f (b : VWord) (p : Part) : VWord :=
    ofVBytes (overlay 0 (vBytes b) (w * p.lane) (ownView s t p.loc p.len))
  parts.foldl f old

/-- A scalar load's value (R345). -/
def loadValue (signed : Bool) (bytes : List Byte) : Word :=
  let n := bytes.length
  if signed then BitVec.ofInt 64 (signedLane (8 * n) (ofBytes bytes)) else BitVec.ofNat 64 (ofBytes bytes)

/-- The core on which a thread is resident. -/
def State.coreOf (s : State) (uid : Nat) : Nat := ((s.slotOf uid).map fun e => e.1 / 16).getD 0

/-- Whether a place lies in the local memory of a core. -/
def Place.ownOf (core p : Nat) : Bool := decide (Place.tier p = .localMem) && decide (Place.core p = core)

/-- The parts of a store laid down (R227 item 3): at once in the own local memory; elsewhere they are accepted by the store buffer
and performed unit by unit (R225), a release's too once what it covers has been (R228). The last lane of those to one location
stays (R365). -/
def layDown (s : State) (t : Thread) (parts : List Part) : State :=
  let core := s.coreOf t.uid
  parts.foldl (fun s p =>
    if p.data.isEmpty then s
    else if Place.ownOf core p.loc then s.store p.loc p.data
    else { s with stores := s.stores ++ storeUnits t.uid core s.now p }) s

/-- The elements that MLD's rows hold for their thread (R407). -/
def rowElems (s : State) (t : Thread) (parts : List Part) : List (BitVec 32) :=
  parts.flatMap fun p =>
    let bytes := ownView s t p.loc 128
    (List.range 32).map fun j => BitVec.ofNat 32 (ofBytes ((bytes.drop (4 * j)).take 4))

/-- Units that a transfer has delivered poisoned to the request of a thread (R59). -/
def badFor (s : State) (t : Thread) (u : Nat) : Bool := s.badTransfers.contains (t.uid, t.issued, u)

/-- The access is performed for a thread (R345 to R347, R351, R353, R355, R358, R361 to R364). -/
def perform (s : State) (t : Thread) (r : Req) : Done :=
  match r.parts.find? fun p => !reachable s p.loc with
  | some p => .error p.va
  | none =>
    match r.op with
    | .load d signed =>
      match r.parts with
      | p :: _ =>
        let s1 := s.drainParts t.uid [p]
        if s1.poisonIn p.loc p.len then .error p.va
        else .ok s1 (.g d (loadValue signed (ownView s1 t p.loc p.len))) 0
      | [] => .ok s .nothing 0
    | .vload d w =>
      let s1 := s.drainParts t.uid r.parts
      match r.parts.find? fun p => s1.poisonIn p.loc p.len with
      | some p => .error p.va
      | none => .ok s1 (.v d.toNat (loadLanes s1 t w (t.vVal d.toNat) r.parts)) 0
    | .vdecode d mask attr scale book =>
      match r.parts with
      | p :: _ =>
        let s1 := s.drainTo t.uid ((p.loc, p.len) :: (scale.map fun q => (q, 1)).toList)
        if s1.poisonIn p.loc p.len || (scale.any fun q => s1.poisonIn q 1) then .error p.va
        else
          let sc := scale.map fun q => (ownView s1 t q 1).getD 0 0
          let lanes := decodeLanes attr (ownView s1 t p.loc p.len) sc book (Mode.ofCode t.rnd)
          let w := vldLane attr
          let m := t.mVal mask
          let flags := (List.range (512 / w)).foldl (fun f i =>
            if active m i then f ||| (lanes.getD i (0, 0)).2 else f) 0
          .ok s1 (.v d.toNat (mergeLanes w m (t.vVal d.toNat) fun i => (lanes.getD i (0, 0)).1)) flags
      | [] => .ok s .nothing 0
    | .store =>
      .ok (layDown (if r.scope.isSome then s.drainOf t.uid else s) t r.parts) .nothing 0
    | .atomic code d operand expected =>
      match r.parts with
      | p :: _ =>
        let s1 := s.drainOf t.uid
        if s1.poisonIn p.loc p.len then .error p.va
        else
          let w := 8 * p.len
          let old := ofBytes (s1.bytes p.loc p.len)
          let s2 := match atomicNew code w old (operand.toNat % 2 ^ w) (expected.toNat % 2 ^ w) with
            | some new => s1.store p.loc (toBytes p.len new)
            | none => s1
          .ok s2 (.g d (BitVec.ofNat 64 old)) 0
      | [] => .ok s .nothing 0
    | .afaddv double operand mode enables =>
      match r.parts with
      | p :: _ =>
        let s1 := s.drainOf t.uid
        if s1.poisonIn p.loc p.len then .error p.va
        else
          let lanes := afaddvLanes double (Mode.ofCode mode) (ofVBytes (s1.bytes p.loc 64)) operand
          let flags := flagsOf lanes
          if flags &&& enables = 0 then
            .ok (s1.store p.loc (vBytes (ofLanes (if double then 64 else 32) (lanes.map (·.1))))) .nothing flags
          else .ok s1 .nothing flags
      | [] => .ok s .nothing 0
    | .ldo d =>
      match r.parts with
      | p :: _ =>
        let s1 := s.drainOf t.uid
        if s1.full p.loc || stfPending t p.loc then
          (if s1.poisonIn p.loc 8 then .error p.va else .ok s1 (.g d (wordOf (ownView s1 t p.loc 8))) 0)
        else .waits
      | [] => .ok s .nothing 0
    | .ldc d =>
      match r.parts with
      | p :: _ =>
        let s1 := s.drainOf t.uid
        if s1.full p.loc || stfPending t p.loc then
          if s1.poisonIn p.loc 8 then .error p.va
          else
            .ok (serve (s1.setFull p.loc false) p.loc) (.g d (wordOf (ownView s1 t p.loc 8))) 0
        else .waits
      | [] => .ok s .nothing 0
    | .stp =>
      match r.parts with
      | p :: _ =>
        let s1 := s.drainOf t.uid
        if s1.full p.loc then .waits
        else .ok (serve ((s1.write p.loc p.data).setFull p.loc true) p.loc) .nothing 0
      | [] => .ok s .nothing 0
    | .stf =>
      match r.parts with
      | p :: _ =>
        let s1 := s.drainOf t.uid
        .ok (serve ((s1.write p.loc p.data).setFull p.loc true) p.loc) .nothing 0
      | [] => .ok s .nothing 0
    | .empty =>
      match r.parts with
      | p :: _ => .ok (serve ((s.drainOf t.uid).setFull p.loc false) p.loc) .nothing 0
      | [] => .ok s .nothing 0
    | .waita d expected =>
      match r.parts with
      | p :: _ =>
        let s1 := s.drainOf t.uid
        if s1.poisonIn p.loc 8 then .error p.va
        else if wordOf (ownView s1 t p.loc 8) = expected then .waits
        else .ok s1 (.g d (wordOf (ownView s1 t p.loc 8))) 0
      | [] => .ok s .nothing 0
    | .bankGet d fmt =>
      match r.parts with
      | p :: _ =>
        let res := (bankAt s p.loc).read fmt.toNat (Mode.ofCode t.rnd)
        .ok s (.g d (BitVec.ofNat 64 res.1)) res.2
      | [] => .ok s .nothing 0
    | .bankSet fmt value =>
      match r.parts with
      | p :: _ =>
        .ok (setBank s p.loc (BankSlot.reset.add (contribution fmt.toNat value))) .nothing 0
      | [] => .ok s .nothing 0
    | .bankAdd fmt value =>
      match r.parts with
      | p :: _ => .ok (setBank s p.loc ((bankAt s p.loc).add (contribution fmt.toNat value))) .nothing 0
      | [] => .ok s .nothing 0
    | .fence => .ok (s.drainOf t.uid) .nothing 0
    | .mld d kindInt =>
      let s1 := s.drainParts t.uid r.parts
      match r.parts.find? fun p => s1.poisonIn p.loc p.len, t.accAt d with
      | some p, _ => .error p.va
      | none, some a =>
        .ok s1 (.acc d { a with elems := rowElems s1 t r.parts, kindInt := kindInt, poisoned := false } true) 0
      | none, none => .ok s1 .nothing 0
    | .mst d flags =>
      .ok (layDown s t r.parts) ((t.accAt d).elim .nothing fun a => .acc d (a.raise flags) false) 0
    | .mcbk n =>
      let s1 := s.drainParts t.uid r.parts
      match r.parts.find? fun p => s1.poisonIn p.loc p.len with
      | some p => .error p.va
      | none =>
        let book := r.parts.flatMap fun p => bookOf (ownView s1 t p.loc p.len)
        .ok (s1.modCore (s.coreOf t.uid) fun c => { c with codebooks := c.codebooks.set n.toNat book }) .ended 0
    | .mldb attr b _ =>
      match r.parts with
      | p :: _ => .ok (loadColumns (badFor s t) (s.drainOf t.uid) (s.coreOf t.uid) attr p.loc b) .ended 0
      | [] => .ok s .nothing 0
    | .tget dest frees =>
      match r.parts with
      | p :: _ =>
        let s1 := moveWith (badFor s t) (s.drainOf t.uid) p.loc dest.loc p.len
        .ok (frees.elim s1 fun x => s1.later (.free x.1 x.2.1 x.2.2)) .nothing 0
      | [] => .ok s .nothing 0
    | .fetch =>
      match r.parts with
      | p :: _ =>
        let s1 := s.drainParts t.uid [p]
        if s1.poisonIn p.loc p.len then .error p.va else .ok s1 (.again (.descriptor (ownView s1 t p.loc p.len))) 0
      | [] => .ok s .nothing 0
    | .jwait j d =>
      match r.parts with
      | p :: _ =>
        let s1 := s.drainOf t.uid
        if s1.full p.loc then
          (if s1.poisonIn p.loc 8 then .error p.va else .ok (releaseNumber s1 j) (.g d (wordOf (ownView s1 t p.loc 8))) 0)
        else .waits
      | [] => .ok s .nothing 0

/-- How a request waits at its home: a JWAIT as itself (R431). -/
def Req.waiting (r : Req) (order : Nat) : Park :=
  match r.op with
  | .jwait j d => .jwait j d r order
  | _ => .home r order

/-! ### From the checks to the home -/

/-- Whether an operation writes as a plain store does, for R274. -/
def Req.isPlainStore (r : Req) : Bool :=
  match r.op with
  | .store => r.scope.isNone
  | .ldc _ | .empty | .mst .. => true
  | _ => false

/-- Publications among accesses (R247, R275, R342). -/
def Req.isPublication (r : Req) : Bool :=
  match r.op with
  | .store => r.scope.isSome
  | .stp | .stf | .afaddv .. => true
  | .atomic _ d _ _ => decide (d = 0)
  | _ => false

/-- Whether the access has fixed latency (R132, R338): all in the own local memory, at scope .th or .co, no atomic. -/
def Req.isFixed (r : Req) (core : Nat) : Bool :=
  (r.parts.all fun p => decide (Place.tier p.loc = .localMem) && decide (Place.core p.loc = core)) &&
    (match r.scope with
      | none => true
      | some sc => decide (sc.toNat ≤ 1)) &&
    match r.op with
    | .atomic .. | .afaddv .. => false
    | _ => true

/-- What becomes of an access that has passed its checks. -/
inductive Sent where
  /-- It is done, with its register result and its flags. -/
  | done (s : State) (t : Thread) (f : Fill) (flags : FlagSet)
  /-- It parks; state and thread as they stand by then. -/
  | parked (s : State) (t : Thread) (p : Park)
  deriving DecidableEq, Repr

/-- The parts whose lines a region logs: those that write, or change full bits. -/
def Req.logged (r : Req) : List Part :=
  match r.op with
  | .store => r.parts.filter fun p => !p.data.isEmpty
  | _ => r.parts

/-- A plain store in a region: its lines are logged in the memory as the thread's earlier stores leave it, or the trap of
R274. -/
def logStore (s : State) (core : Nat) (t : Thread) (parts : List Part) : Except Stop (State × Thread) :=
  let lines := parts.flatMap linesOf
  match logLines core lines (s.drainTo t.uid (lines.map fun l => (l.2, 64)), t) with
  | .error e => .error e
  | .ok (s1, t1) => .ok (s1, parts.foldl (fun t p => if p.data.isEmpty then t else replaceDeferred t p) t1)

/-- What an open region makes of a request before it is performed (R274, R342). -/
def logReq (s : State) (core : Nat) (t : Thread) (r : Req) : Except Stop (State × Thread) :=
  if t.inRegion && r.isPlainStore then logStore s core t r.logged else .ok (s, t)

/-- Whether an operation changes bytes of memory, and whether full bits. -/
def MemOp.changes : MemOp → Bool × Bool
  | .store | .atomic .. | .afaddv .. | .mst .. => (true, false)
  | .stp | .stf => (true, true)
  | .ldc _ | .empty => (false, true)
  | _ => (false, false)

/-- The thread after a request of its own has been performed (R252). -/
def afterReq (s : State) (t : Thread) (r : Req) : Thread :=
  match r.op with
  | .tget dest _ => brought s t dest
  | _ => if r.op.changes = (false, false) then t else afterAccess s t r.logged r.op.changes.1 r.op.changes.2

/-- After admission: deferred in a region (R275, R342), logged and performed at once in the own local memory (R274), sent
otherwise; what waits at its home is logged when it is performed. -/
def launchReq (s : State) (core : Nat) (t : Thread) (r : Req) : Except Stop Sent :=
  if t.inRegion && r.isPublication then
    match logRecord s core t 64 (.publish (.access r)) with
    | .error e => .error e
    | .ok (s1, t1) => .ok (.done s1 t1 .nothing 0)
  else
    match logReq s core t r with
    | .error e => .error e
    | .ok (s1, t1) =>
      if r.isFixed core then
        -- a store that it releases is to follow another request at its home (R228, R238)
        if r.releases && s.blocked t.uid then .error (.park (.retry .stores))
        else match perform s1 t1 r with
        | .ok s2 f flags => .ok (.done s2 (afterReq s2 t1 r) f flags)
        -- a waiting release too has its thread's earlier stores performed first (R228)
        | .waits => .ok (.parked (s.drainOf t.uid) t (r.waiting s.pushSeq))
        | .error va => .error (.error va)
      else .ok (.parked s t (.access r))

/-- The nodes that the packets of a request go to (R21): every home of its parts but the core's own die. -/
def destsOf (s : State) (core : Nat) (r : Req) : List Nat :=
  if core / 1024 ≠ s.modNum then []
  else (((r.parts.filter fun p => reachable s p.loc).map fun p => nodeOf s p.loc).filter fun n => decide (n ≠ coreNode core)).eraseDups

/-- A request that does not stay on its core and die: it travels (R21), or it is performed after the issues of its cycle
(R148). -/
def Req.travels (s : State) (core : Nat) (r : Req) : Bool :=
  !(destsOf s core r).isEmpty ||
    r.parts.any fun p => decide (Place.tier p.loc = .localMem) && decide (Place.core p.loc ≠ core)

/-- Step 8 of R339 and what follows it: a request to another core's local memory is sent to its owner first (R151). -/
def sendReq (s : State) (core : Nat) (t : Thread) (r : Req) : Except Stop Sent :=
  let remote := r.parts.any fun p => decide (Place.tier p.loc = .localMem) && decide (Place.core p.loc ≠ core)
  if remote then .ok (.parked s t (.remote r))
  else
    match admitParts s core t r.op.needs.1 r.op.needs.2 r.parts with
    | .error e => .error e
    | .ok _ => launchReq s core t r

end Sys2Proof.Machine
end

