-- ==== Sys2Proof/Machine/Context.lean ====
section
/-!
DEFINITION. Saved contexts (R256, R258): the bytes of a context in its core's area, the reading of one back, and the
cache of four contexts. What a context's layout has no place for (a thread's identity, its undo records, the parts whose
packing R258 leaves open) the device keeps beside the area.
-/
namespace Sys2Proof.Machine

/-! ### The layout of R258 -/

/-- The word of PC, RND, SLPREQ, PORTCFG, the departure bit and STATE. -/
def contextWord (t : Thread) (state : Nat) : Nat :=
  t.pc.toNat + t.rnd.toNat * 2 ^ 19 + t.slpreq.toNat * 2 ^ 22 +
    (t.port.ch.toNat * 2 ^ 3 + t.port.dn.toNat * 2 ^ 5 + t.port.up.toNat * 2 ^ 8 + t.port.en.toNat * 2 ^ 11) * 2 ^ 24 +
    t.departed.toNat * 2 ^ 36 + state * 2 ^ 37

/-- STAT as it reads to the supervisor (R254). -/
def Thread.stat (t : Thread) : Nat := t.sv.toNat + 2 * t.psv.toNat + 4 * t.hnd.toNat + 8 * t.pair.toNat

/-- RGN (R267). -/
def Thread.rgn (t : Thread) : Nat := t.levels.length + t.rgnBase.toNat * 2 ^ 14 + t.rgnSize.toNat * 2 ^ 52

/-- RTRY (R268): limit and count of the innermost open region. -/
def Thread.rtry (t : Thread) : Nat :=
  (match t.levels with
    | l :: _ => l.count.toNat + l.limit.toNat * 2 ^ 4
    | [] => 0) + t.rtryTotal.toNat * 2 ^ 32

/-- The six flag bits of an accumulator, KIND in the place of bit 3 (R392). -/
def contextFlags (a : Acc) : Nat := (a.flags &&& ~~~8#6).toNat + 8 * a.kindInt.toNat

/-- TID, GID and JOB (R447) packed in one word; R258 leaves the packing open (log entry 63): bits [3:0], [45:16], laid out as
GID is, and [63:48]. -/
def packedIdentity (t : Thread) : Nat :=
  t.tid.toNat + (t.gang.toNat + t.index.toNat * 2 ^ 16) * 2 ^ 16 + t.job.toNat * 2 ^ 48

/-- The 16 bytes of a region level (R258): the target and the limit in the first word, RTRY as of that level in the second
(log entry 63). -/
def levelBytes (t : Thread) (l : Level) : List Byte :=
  toBytes 8 (l.target.toNat + l.limit.toNat * 2 ^ 32) ++
    toBytes 8 (l.count.toNat + l.limit.toNat * 2 ^ 4 + t.rtryTotal.toNat * 2 ^ 32)

/-- The bytes of a context, by offset. -/
def contextBytes (t : Thread) : List (Nat × List Byte) :=
  [(0, t.g.flatMap fun w => toBytes 8 w.toNat), (256, t.v.flatMap vBytes),
   (1280, (toBytes 8 (2 ^ 64 - 1)) ++ toBytes 8 t.m1.toNat ++ toBytes 8 t.m2.toNat ++ toBytes 8 t.m3.toNat),
   (1312, toBytes 8 (t.gFull.toNat + t.vFull.toNat * 2 ^ 32)),
   (1320, toBytes 8 (contextWord t 1)),
   (1328, toBytes 8 t.stat ++ toBytes 8 t.fpst.toNat ++ toBytes 8 t.wab.toNat ++ toBytes 8 t.rgn ++
     toBytes 8 t.rtry ++ toBytes 8 t.epc.toNat ++ toBytes 8 t.trapc.toNat ++ toBytes 8 t.trapv.toNat ++
     toBytes 8 (packedIdentity t)),
   (1400, toBytes 8 (t.acc.length + 16 * (t.acc.foldr (fun a n => contextFlags a + 64 * n) 0))),
   (1408, t.levels.reverse.flatMap (levelBytes t) ++ List.replicate (128 - 16 * t.levels.length) 0)] ++
  t.acc.mapIdx fun i a => (1536 + 4096 * i, a.elems.flatMap fun e => toBytes 4 e.toNat)


/-! ### Access to the area -/

/-- The address of context `n` of a core's area. -/
def contextAddress (c : Core) (n : Nat) : Word := (c.tcxBase ++ 0#12).signExtend 64 + BitVec.ofNat 64 (n * 0x9000)

/-- The stretches of `[va, va + len)` that do not cross a 4 KiB boundary. -/
def granules (va : Word) : Nat → Nat → List (Nat × Nat)
  | 0, _ => []
  | fuel + 1, len =>
    (List.range (fuel + 1)).filterMap fun i =>
      let lo := if i = 0 then 0 else 4096 * i - va.toNat % 4096
      let hi := Nat.min len (4096 * (i + 1) - va.toNat % 4096)
      if lo < hi then some (lo, hi - lo) else none

/-- Bytes written in the supervisor's space, granule by granule; what is not mapped there is left. -/
def areaWrite (s : State) (va : Word) (bytes : List Byte) : State :=
  (granules va (bytes.length / 4096 + 2) bytes.length).foldl (fun s g =>
    (deviceWrite s 0 (va + BitVec.ofNat 64 g.1) ((bytes.drop g.1).take g.2)).getD s) s

/-- Bytes read there. -/
def areaRead (s : State) (va : Word) (n : Nat) : List Byte :=
  (granules va (n / 4096 + 2) n).flatMap fun g =>
    match blockWalk s 0 (va + BitVec.ofNat 64 g.1) false with
    | some p => s.bytes p g.2
    | none => List.replicate g.2 0

/-- Poison among them. -/
def areaPoison (s : State) (va : Word) (n : Nat) : Bool :=
  (granules va (n / 4096 + 2) n).any fun g =>
    match blockWalk s 0 (va + BitVec.ofNat 64 g.1) false with
    | some p => s.poisonRead p g.2
    | none => false

/-- The reading of a granule of it: its page marked (R161), its transfers (R58, R59). -/
def areaTransfers (s : State) (va : Word) (n : Nat) : State :=
  match blockWalk s 0 va false with
  | some p => (countTransfers (deviceMark s 0 va false) p n).spendBad p n
  | none => deviceMark s 0 va false

/-- A context's whole area is mapped, writable and resident in the supervisor's space (R159). -/
def contextMapped (s : State) (c : Core) (n : Nat) : Bool :=
  (granules (contextAddress c n) 10 0x9000).all fun g =>
    (blockWalk s 0 (contextAddress c n + BitVec.ofNat 64 g.1) true).isSome &&
      (blockWalk s 0 (contextAddress c n + BitVec.ofNat 64 g.1) false).isSome

/-- A thread's context written at an address of the area. -/
def writeContext (s : State) (va : Word) (t : Thread) : State :=
  (contextBytes t).foldl (fun s b => areaWrite s (va + BitVec.ofNat 64 b.1) b.2) s

/-- STATE of the context at an address (R258). -/
def contextState (s : State) (va : Word) : Nat := bitsOf (ofBytes (areaRead s (va + 1320) 8)) 39 37

/-- An empty context written: its STATE is 0. -/
def writeEmpty (s : State) (va : Word) : State :=
  areaWrite s (va + 1320) (toBytes 8 (setBits (ofBytes (areaRead s (va + 1320) 8)) 39 37 0))

/-- Little-endian words of 8 bytes. -/
def wordsOf (n : Nat) (bytes : List Byte) : List Word := (List.range n).map fun i => wordOf ((bytes.drop (8 * i)).take 8)

/-- The registers that the area holds, read into a thread (R258). What a RND field of 6 or 7 in the area does is not said; DESIGN
CHOICE (log entry 63): it is kept, and rounds as RNE. -/
def readRegisters (s : State) (va : Word) (t : Thread) : Thread :=
  let x := ofBytes (areaRead s (va + 1320) 8)
  let full := ofBytes (areaRead s (va + 1312) 8)
  let ms := wordsOf 4 (areaRead s (va + 1280) 32)
  let r := wordsOf 9 (areaRead s (va + 1328) 72)
  let stat := (r.getD 0 0).toNat
  let rgn := r.getD 3 0
  let v := areaRead s (va + 256) 1024
  { t with
    g := wordsOf 32 (areaRead s va 256)
    gFull := BitVec.ofNat 32 full
    v := (List.range 16).map fun i => ofVBytes ((v.drop (64 * i)).take 64)
    vFull := BitVec.ofNat 16 (full / 2 ^ 32)
    m1 := ms.getD 1 0, m2 := ms.getD 2 0, m3 := ms.getD 3 0
    pc := BitVec.ofNat 19 (bitsOf x 18 0), rnd := BitVec.ofNat 3 (bitsOf x 21 19), slpreq := BitVec.ofNat 2 (bitsOf x 23 22)
    port := ⟨x.testBit 35, BitVec.ofNat 3 (bitsOf x 34 32), BitVec.ofNat 3 (bitsOf x 31 29), BitVec.ofNat 2 (bitsOf x 28 27)⟩
    departed := x.testBit 36
    sv := stat.testBit 0, psv := stat.testBit 1, hnd := stat.testBit 2, pair := stat.testBit 3
    fpst := (r.getD 1 0).truncate 14 &&& 0x3F3F, wab := (r.getD 2 0).truncate 12
    rgnSize := rgn.extractLsb' 52 12, rgnBase := rgn.extractLsb' 14 38
    rtryTotal := (r.getD 4 0).extractLsb' 32 16
    epc := (r.getD 5 0).truncate 19, trapc := (r.getD 6 0).truncate 10, trapv := r.getD 7 0
    tid := (r.getD 8 0).truncate 4, gang := (r.getD 8 0).extractLsb' 16 14, index := (r.getD 8 0).extractLsb' 32 14
    job := (r.getD 8 0).extractLsb' 48 16 }

/-- A region level that the area holds, over what is kept of it: target, limit and count (R258). -/
def readLevel (words : List Word) (i : Nat) (l : Level) : Level :=
  { l with target := (words.getD (2 * i) 0).truncate 19, limit := (words.getD (2 * i) 0).extractLsb' 32 4
           count := (words.getD (2 * i + 1) 0).truncate 4 }

/-- A level of a context that software has composed: its mark from the undo area's header; the snapshot, whose layout
R270 leaves open, as the registers stand (log entry 63). -/
def composedLevel (t : Thread) (mark : Nat) : Level where
  target := 0
  limit := 0
  count := 0
  mark := mark
  snapshot := ⟨t.g, t.gFull, t.v, t.vFull, t.m1, t.m2, t.m3, t.rnd, t.port⟩
  dirty := []

/-- The open levels of a context at an address of core `core`'s area, innermost first: those kept, or as many as its RGN counts. -/
def readLevels (s : State) (core : Nat) (va : Word) (kept : Option Thread) (t : Thread) : List Level :=
  let words := wordsOf 16 (areaRead s (va + 1408) 128)
  let depth := Nat.min 8 (bitsOf (ofBytes (areaRead s (va + 1352) 8)) 3 0)
  let mark (i : Nat) : Nat := match deviceWalk s t.asid (undoAddress t (8 * (i + 1))) false core with
    | some p => ofBytes (s.bytes p 8)
    | none => 512
  let base : List Level := match kept with
    | some k => k.levels.reverse
    | none => (List.range depth).map fun i => composedLevel t (mark i)
  (base.mapIdx (readLevel words)).reverse

/-- An accumulator as the area holds it. -/
def readAcc (s : State) (va : Word) (flags : Nat) (i : Nat) (a : Acc) : Acc :=
  let bytes := areaRead s (va + BitVec.ofNat 64 (1536 + 4096 * i)) 4096
  let f : BitVec 6 := BitVec.ofNat 6 (flags / 64 ^ i)
  { a with
    elems := (List.range 1024).map fun n => BitVec.ofNat 32 (ofBytes ((bytes.drop (4 * n)).take 4))
    flags := f &&& ~~~8#6
    kindInt := f.getLsbD 3 }

/-- The context at an address of the area (R258): the registers as memory holds them, over what the device keeps of the
thread or, where software has composed the context, over a thread of the next identity; spoiled when they read back with
an uncorrectable error or STATE says so (R259); none when it is empty. -/
def readContext (s : State) (core : Nat) (va : Word) : Option Thread :=
  let kept := ((s.core core).ctxArea.find? fun e => decide (e.1 = va.toNat)).map (·.2)
  if contextState s va = 0 then none
  else
    let w := ofBytes (areaRead s (va + 1400) 8)
    let t := readRegisters s va (kept.getD (Thread.start s.nextUid))
    let asid := if kept.isSome then t.asid else (s.job t.job.toNat).asid
    let blank : Acc := ⟨List.replicate 1024 0, 0, false, false⟩
    let count := if kept.isSome then t.acc.length else Nat.min 8 (w % 16)
    some { t with
      asid := asid
      acc := (List.range count).map fun i => readAcc s va (w / 16) i (t.acc.getD i blank)
      levels := readLevels s core va kept { t with asid := asid }
      spoiled := t.spoiled || decide (contextState s va = 2) || areaPoison s va (1536 + 4096 * count) }

/-! ### Changes to saved contexts (R140, R257) -/

/-- The 8-byte words of the registers of a context, by offset. -/
def contextWords (t : Thread) : List (Nat × List Byte) :=
  ((contextBytes t).filter fun b => decide (b.1 < 1408)).flatMap fun b =>
    (List.range (b.2.length / 8)).map fun i => (b.1 + 8 * i, (b.2.drop (8 * i)).take 8)

/-- Change the saved context of a thread, in the cache or in the area: there only the words that differ are written, so that
an error in the rest stays to be found (R259). -/
def updateSaved (s : State) (core uid : Nat) (f : Thread → Thread) : State :=
  let c := s.core core
  let g (t : Thread) : Thread := if t.uid = uid then f t else t
  let s1 := s.setCore core { c with ctxCache := c.ctxCache.map fun e => (e.1, e.2.map g) }
  match c.ctxArea.find? fun e => decide (e.2.uid = uid) with
  | none => s1
  | some (va, x) =>
    let old := readRegisters s1 (BitVec.ofNat 64 va) x
    let t := f old
    let changed := (List.zip (contextWords old) (contextWords t)).filter fun p => decide (p.1 ≠ p.2)
    let s2 := changed.foldl (fun s p => areaWrite s (BitVec.ofNat 64 va + BitVec.ofNat 64 p.2.1) p.2.2) s1
    s2.modCore core fun c => { c with ctxArea := NatMap.set c.ctxArea va t }

end Sys2Proof.Machine
end

