-- ==== Sys2Proof/Machine/Saltern.lean ====
section
/-!
DEFINITION. The saltern: items (R74), pans and where a new item goes (R88), spills and reloads (R89, R90, R92), the
point of linearisation of a push (R80), a pop (R82, R84, R87) with its refill (R81) and the achieved bound (R85).
-/
namespace Sys2Proof.Machine

/-! ### Items -/

def Item.job (i : Item) : Nat := (i.info.extractLsb' 0 16).toNat
def Item.hint (i : Item) : Nat := (i.info.extractLsb' 16 12).toNat
def Item.cls (i : Item) : Nat := (i.info.extractLsb' 28 4).toNat

/-- The 32 bytes of an item (R74). -/
def Item.bits (i : Item) : BitVec 256 := i.payload ++ i.info ++ i.key

def itemOf (b : BitVec 256) : Item := ⟨b.extractLsb' 0 32, b.extractLsb' 32 32, b.extractLsb' 64 192⟩

def itemBytes (i : Item) : List Byte := toBytes 32 i.bits.toNat

def itemOfBytes (bytes : List Byte) : Item := itemOf (BitVec.ofNat 256 (ofBytes bytes))

/-- The fields of HINT (R104): die, column, row, radius. -/
def hintDie (h : Nat) : Nat := bitsOf h 11 9
def hintX (h : Nat) : Nat := bitsOf h 8 5
def hintY (h : Nat) : Nat := bitsOf h 4 2
def hintRad (h : Nat) : Nat := bitsOf h 1 0

/-- Bytes `n …` of an item's payload area, counted from byte 0 of the item (R103). -/
def Item.payloadBytes (i : Item) (n len : Nat) : Nat := i.bits.toNat / 2 ^ (8 * n) % 2 ^ (8 * len)

/-! ### The ring of dies (R13) -/

def ring : List Nat := [0, 1, 2, 3, 7, 6, 5, 4]

/-- The dies after `d` in ring order. -/
def ringAfter (d : Nat) : List Nat :=
  let i := (ring.findIdx? (· = d)).getD 0
  ring.drop (i + 1) ++ ring.take i

/-! ### Pans -/

/-- The pan of a core's cluster (R88): 8 × die + cluster. -/
def panOf (core : Nat) : Nat := State.clusterOf core % 64

/-- Entries in use in a pan: items and run descriptors of every worklist. -/
def panUsed (s : State) (p : Nat) : Nat :=
  s.worklists.foldl (fun n e => n + (e.2.window.filter fun x => decide (x.pan = p)).length +
    (e.2.held.filter fun x => decide (x.pan = p)).length +
    (e.2.runs.filter fun r => decide (r.pan = p)).length) 0

def panFree (s : State) (p : Nat) : Bool := decide (panUsed s p < 4096)

/-- The target pan of a new item (R88). -/
def targetPan (wl : Worklist) (item : Item) (who : Pusher) : Nat :=
  if wl.repro then wl.home.toNat
  else if 1 ≤ item.cls then 8 * hintDie item.hint + 4 * (hintY item.hint / 4) + hintX item.hint / 4
  else
    match who with
    | .thread core => panOf core
    | .ioDie io => if io = 0 then 0 else 24
    | .die d => 8 * d
    | .jobTable => 0

/-! ### Spills (R89) -/

/-- Held items of a worklist in a pan. -/
def heldIn (wl : Worklist) (p : Nat) : List Entry := wl.held.filter fun x => decide (x.pan = p)

/-- The run slot of a spill, neither in use nor out of use: R89 says one free slot; DESIGN CHOICE (log entry 45): the
lowest. -/
def freeRunSlot (wl : Worklist) : Option Nat :=
  (List.range wl.runSlots.toNat).find? fun n =>
    !(wl.badSlots.contains n) && !(wl.runs.any fun r => decide (r.slot = n))

/-- The worklist that a pan spills, if one qualifies: most held items there, then the lowest number. -/
def spillChoice (s : State) (p : Nat) : Option (Nat × Nat) :=
  s.worklists.foldl (fun best e =>
    let h := (heldIn e.2 p).length
    if 2 ≤ h then
      match freeRunSlot e.2, best with
      | none, b => b
      | some slot, none => some (e.1, slot)
      | some slot, some (w, sl) => if (heldIn (s.wl w) p).length < h then some (e.1, slot) else some (w, sl)
    else best) none

/-- Entries by rising key, those of equal keys by push order. -/
def insertEntry (l : List Entry) (x : Entry) : List Entry :=
  match l with
  | [] => [x]
  | y :: rest =>
    if x.item.key.toNat < y.item.key.toNat ∨ (x.item.key = y.item.key ∧ x.seq < y.seq) then x :: y :: rest
    else y :: insertEntry rest x

def sortEntries (l : List Entry) : List Entry := l.foldl insertEntry []

/-- The address of a run slot (R100). -/
def runAddress (wl : Worklist) (slot : Nat) : Word := (wl.spillBase ++ 0#16).signExtend 64 + BitVec.ofNat 64 (slot * 0x1_0000)

/-- The place of an address of a bittern area: it must be mapped, writable and resident in HBM (R100, R159). -/
def spillPlace (s : State) (va : Word) : Option Nat :=
  match blockWalk s 0 va false, blockWalk s 0 va true with
  | some p, some _ => if Place.tier p = .hbm then some p else none
  | _, _ => none

/-- The items of a run written to its slot, poison included (R89, R92); none on a translation or access fault. A line that
is written again is written whole, and its earlier poison goes (R341). -/
def writeRun (s : State) (va : Word) : List Entry → Option State
  | [] => some s
  | x :: rest =>
    match spillPlace s va with
    | none => none
    | some p =>
      let s1 := if p % 64 = 0 then (deviceMark s 0 va true).clearPoison p 64 else s
      let s2 := s1.blockWrite p (itemBytes x.item)
      writeRun (if x.poison then s2.setPoison p else s2) (va + 32) rest

/-- A pan's spill (R89): none when no worklist qualifies. Where a write faults, the slot is taken out of use (R92) and the spill
tried with the next choice, at most as often as `fuel` says; the spec does not say whether it is (DESIGN CHOICE, log entry
45). -/
def spill (p : Nat) : Nat → State → Option State × State
  | 0, s => (none, s)
  | fuel + 1, s =>
    match spillChoice s p with
    | none => (none, s)
    | some (w, slot) =>
      let wl := s.wl w
      let here := sortEntries (heldIn wl p)
      let n := Nat.min 2048 (here.length / 2)
      let out := here.drop (here.length - n)
      match writeRun s (runAddress wl slot) out with
      | none => spill p fuel (s.setWl w { wl with badSlots := insertNat wl.badSlots slot })
      | some s1 =>
        let run : Run := ⟨slot, runAddress wl slot, p, 0, n, ((out.head?.map fun x => x.item.key).getD 0), out.map (·.seq)⟩
        let s2 := s1.setWl w { wl with
          held := wl.held.filter fun x => !(out.any fun y => decide (y.seq = x.seq))
          runs := wl.runs ++ [run] }
        (some s2, s2)

/-- The search of R88, begun again where a spill has freed no entry (one item gone, one descriptor come). -/
def findPanFrom (w target : Nat) : Nat → State → Option Nat × State
  | 0, s => (none, s)
  | fuel + 1, s =>
    if panFree s target then (some target, s)
    else
    let sp := spill target 8 s
    match sp.1 with
    | some s1 => findPanFrom w target fuel s1
    | none =>
      if (s.wl w).repro then (none, sp.2)
      else
        let d := target / 8
        let pans := ((d :: ringAfter d).flatMap fun x => (List.range 8).map fun c => 8 * x + c)
        (pans.find? (panFree sp.2), sp.2)

/-- Where a new item of worklist `w` is stored (R88): its pan and the state after the spills that were made. -/
def findPan (s : State) (w : Nat) (target : Nat) : Option Nat × State := findPanFrom w target 4096 s

/-! ### The point of linearisation of a push (R80) -/

/-- The runs that can be reloaded: those whose slot is not out of use (R92). -/
def Worklist.liveRuns (wl : Worklist) : List Run := wl.runs.filter fun r => !wl.badSlots.contains r.slot

/-- The least held key, runs included (R90): also those whose slot is out of use, whose items stay members (R77). -/
def leastHeld (wl : Worklist) : Option Nat :=
  let keys := wl.held.map (fun x => x.item.key.toNat) ++ wl.runs.map (fun r => r.leastKey.toNat)
  keys.foldl (fun best k => match best with
    | none => some k
    | some b => some (Nat.min b k)) none

/-- The largest window key. -/
def largestWindow (wl : Worklist) : Nat := wl.window.foldl (fun b x => Nat.max b x.item.key.toNat) 0

/-- The window without its largest item, the one that entered last among equals, and that item (R80). -/
def demote (wl : Worklist) : List Entry × List Entry :=
  let big := largestWindow wl
  match (wl.window.filter fun x => decide (x.item.key.toNat = big)).getLast? with
  | none => (wl.window, [])
  | some y => (wl.window.filter fun x => decide (x.seq ≠ y.seq), [y])

/-- R80: an item enters the window, undercuts, or is held. -/
def Worklist.push (wl : Worklist) (x : Entry) : Worklist :=
  let k := x.item.key.toNat
  let b := wl.bound.toNat
  let early : Bool := match leastHeld wl with
    | none => true
    | some m => decide (k ≤ m)
  if wl.window.length < b + 1 ∧ early then { wl with window := wl.window ++ [x] }
  else if wl.window.length = b + 1 ∧ k < largestWindow wl then
    let d := demote wl
    { wl with window := d.1 ++ [x], held := wl.held ++ d.2 }
  else { wl with held := wl.held ++ [x] }

/-- A push at its point of linearisation: none when the pans have no room (R88, last row). -/
def lineariseAt (s : State) (w : Nat) (item : Item) (who : Pusher) (poison : Bool) : Option State × State :=
  let f := findPan s w (targetPan (s.wl w) item who)
  match f.1 with
  | none => (none, f.2)
  | some pan =>
    let o := f.2.nextOrder
    let s1 := o.2.modWl w fun wl => wl.push ⟨item, pan, o.1, poison⟩
    (some s1, s1)

/-! ### Pop (R82 to R85, R87) -/

/-- The pans in the order in which a pop by a pan's cluster tries them (R84). -/
def popOrder (pan : Nat) : List Nat :=
  let d := pan / 8
  let c := pan % 8
  ((List.range 8).map fun i => 8 * d + (c + i) % 8) ++
    (ringAfter d).flatMap fun x => (List.range 8).map fun c => 8 * x + c

/-- The window items that may be popped first (R84, R87 item 3). -/
def popCandidates (wl : Worklist) (pan : Nat) : List Entry :=
  if wl.repro then wl.window.take 1
  else
    match (popOrder pan).find? fun p => wl.window.any fun x => decide (x.pan = p) with
    | none => []
    | some p =>
      let here := wl.window.filter fun x => decide (x.pan = p)
      let least := here.foldl (fun b x => Nat.min b x.item.key.toNat) (2 ^ 32)
      here.filter fun x => decide (x.item.key.toNat = least)

/-- The achieved bound (R85). -/
def achievedBound (wl : Worklist) (x : Entry) : Nat :=
  (wl.window.filter fun y => decide (y.seq ≠ x.seq) &&
    (decide (y.pan ≠ x.pan) || decide (y.item.key.toNat < x.item.key.toNat))).length

/-- A run's first items reloaded into pan entries (R90): none on a fault, the run slot then out of use (R92). -/
def reloadItems (s : State) (w : Nat) (run : Run) (va : Word) : Nat → Nat → List Entry → Option (List Entry)
  | 0, _, acc => some acc
  | n + 1, i, acc =>
    match spillPlace s (va + BitVec.ofNat 64 (32 * (run.next + i))) with
    | none => none
    | some p =>
      reloadItems s w run va n (i + 1) (acc ++ [⟨itemOfBytes (s.bytes p 32), run.pan,
        run.seqs.getD (run.next + i) 0, s.poisonRead p 32⟩])

/-- The reads of a reload have taken place (R58, R59). -/
def readRun (s : State) (run : Run) (n : Nat) : State :=
  (List.range n).foldl (fun s i => match spillPlace s (run.addr + BitVec.ofNat 64 (32 * (run.next + i))) with
    | some p => (countTransfers s p 32).spendBad p 32
    | none => s) s

/-- The target pan of a reloaded item (R90, R88): that of its class; for a class-0 item, whose pusher is not kept in the
run, the pan that spilled it (DESIGN CHOICE, log entry 45). -/
def reloadPan (wl : Worklist) (run : Run) (x : Entry) : Nat :=
  if ¬wl.repro ∧ x.item.cls = 0 then run.pan else targetPan wl x.item .jobTable

/-- Entries given pans one after another (R90, R88), as many as find one, and how many those are. -/
def givePans (w : Nat) (run : Run) : List Entry → State × Nat → State × Nat
  | [], acc => acc
  | x :: rest, (s, n) =>
    let f := findPan s w (reloadPan (s.wl w) run x)
    match f.1 with
    | none => (f.2, n)
    | some pan =>
      givePans w run rest (f.2.modWl w fun wl => { wl with held := wl.held ++ [{ x with pan := pan }] }, n + 1)

/-- A run after its first items up to index `next` have left it: its descriptor, or none when it is empty. -/
def runFrom (s : State) (run : Run) (next : Nat) : List Run :=
  if next < run.total then
    match spillPlace s (run.addr + BitVec.ofNat 64 (32 * next)) with
    | some p => [{ run with next := next, leastKey := BitVec.ofNat 32 (ofBytes (s.bytes p 4)) }]
    | none => [{ run with next := next }]
  else []

/-- R90: the first min(128, remaining) items of a run, or as many as there are free entries for, become held items in pans;
on a fault nothing is reloaded and the run's slot is out of use (R92). -/
def reload (s : State) (w : Nat) (run : Run) : State :=
  match reloadItems s w run run.addr (Nat.min 128 (run.total - run.next)) 0 [] with
  | none => s.modWl w fun wl => { wl with badSlots := insertNat wl.badSlots run.slot }
  | some items =>
    let g := givePans w run items (readRun (deviceMark s 0 run.addr false) run items.length, 0)
    g.1.modWl w fun wl => { wl with
      runs := wl.runs.flatMap fun r => if r.slot = run.slot then runFrom s run (run.next + g.2) else [r] }

/-- The held item of that push order enters the window. -/
def release (s : State) (w seq : Nat) : State :=
  s.modWl w fun wl => { wl with
    window := wl.window ++ wl.held.filter fun y => decide (y.seq = seq)
    held := wl.held.filter fun y => decide (y.seq ≠ seq) }

/-- The held items with the least key as push order, with the run they lie in (R81, R90). -/
def refillCandidates (wl : Worklist) (k : Nat) : List (Nat × Option Run) :=
  ((wl.held.filter fun x => decide (x.item.key.toNat = k)).map fun x => (x.seq, none)) ++
    ((wl.liveRuns.filter fun r => decide (r.leastKey.toNat = k)).map fun r => (r.seqs.getD r.next 0, some r))

/-- The candidate pushed first (R87 item 2). -/
def firstPushed (l : List (Nat × Option Run)) : Option (Nat × Option Run) :=
  l.foldl (fun best x => match best with
    | none => some x
    | some b => if x.1 < b.1 then some x else some b) none

/-- R81: held items with the least key enter the window until it is full, one from a run after a reload; ties by push
order in reproducible mode, open otherwise. Where the least key lies in a run whose slot is out of use (R92), nothing is
released past it: the rank guarantee stands (R83), the window stays short (log entry 45). -/
def refill (w : Nat) : Nat → State → State
  | 0, s => s
  | fuel + 1, s =>
    let wl := s.wl w
    match leastHeld wl with
    | none => s
    | some k =>
      if wl.bound.toNat + 1 ≤ wl.window.length then s
      else
        let cands := refillCandidates wl k
        let c := if wl.repro then (0, s) else s.choose cands.length
        match (if wl.repro then firstPushed cands else cands[c.1]?) with
        | none => c.2
        | some (seq, none) => refill w fuel (release c.2 w seq)
        | some (seq, some run) => refill w fuel (release (reload c.2 w run) w seq)

/-- A pop by the cluster of `pan` (R84): the item, its achieved bound and the state after the refill. -/
def popAt (s : State) (w : Nat) (pan : Nat) : Option (Entry × Nat) × State :=
  let wl := s.wl w
  let cands := popCandidates wl pan
  let c := s.choose cands.length
  match cands[c.1]? with
  | none => (none, s)
  | some x =>
    let s1 := c.2.setWl w { wl with window := wl.window.filter fun y => decide (y.seq ≠ x.seq) }
    (some (x, achievedBound wl x), refill w 4097 s1)

/-! ### Status (R101) -/

/-- Threads whose WPOP is parked on the worklist, with their order. -/
def popWaiter (w : Nat) (t : Thread) : Option Nat :=
  match t.park with
  | some (.pop w' _ n) => if w' = w then some n else none
  | _ => none

def wlstat (s : State) (w : Nat) : Word :=
  let wl := s.wl w
  BitVec.ofNat 64 (wl.window.length * 2 ^ 51 + wl.held.length * 2 ^ 32 + wl.liveRuns.length * 2 ^ 20 +
    (s.waiters (popWaiter w)).length)

end Sys2Proof.Machine
end

