-- ==== Sys2Proof/Machine/Jobs.lean ====
section
/-!
DEFINITION. Jobs and gangs: the outstanding count (R119 to R121), pushes by every agent with successors' hold areas
(R125), pops that are assigned to threads (R82, R425), notifications (R129), retirement (R122, R123), and a thread's
leaving its gang (R115, R116, R428).
-/
namespace Sys2Proof.Machine

/-! ### The outstanding count -/

def jobLive (s : State) (j : Nat) : Bool := decide (j < 4096) && (s.job j).live

/-- An increment of a live job: none where it would pass 2^40 − 1 (R119). -/
def countUp (s : State) (j : Nat) : Option State :=
  if (s.job j).count + 1 < 2 ^ 40 then some (s.modJob j fun x => { x with count := x.count + 1 }) else none

/-- Decrements; at zero a job without POD stops being live at once, and retirement follows (R121, R122). -/
def countDown (s : State) (j n : Nat) : State :=
  let s1 := s.modJob j fun x => { x with count := x.count - n }
  if n ≠ 0 ∧ (s1.job j).count = 0 then
    (s1.modJob j fun x => { x with live := x.pod }).later (.jobZero j)
  else s1

/-- A verdict only worsens (R124). -/
def worse (a b : Verdict) : Verdict :=
  match a, b with
  | .tainted, _ => .tainted
  | _, .tainted => .tainted
  | .corrected, _ => .corrected
  | _, .corrected => .corrected
  | .clean, .clean => .clean

/-- An error charged to a job, with what it makes of the verdict (R60, R124). -/
def charge (s : State) (j n : Nat) (v : Verdict) : State :=
  s.modJob j fun x => { x with errors := x.errors + n, verdict := worse x.verdict v }

/-! ### Pops assigned to threads -/

/-- An item taken by the thread in slot `k` for register `d` (R425): logged in a region with its job's decrement
deferred (R97, R120), a poisoned one consumed as an error (R92). -/
def givePop (s : State) (k : Nat) (t : Thread) (w : Nat) (d : BitVec 5) (x : Entry) (wab : Nat) : State :=
  match logOp s (k / 16) t (.pop w x.item x.poison) with
  | .error e => s.stopLater k t e
  | .ok (s1, t1) =>
    let s2 := if t.inRegion then s1 else countDown s1 x.item.job 1
    let t2 := { t1 with wab := BitVec.ofNat 12 wab }
    if x.poison then s2.stopLater k t2 (.error 0)
    else
      let t3 := (t2.setV d.toNat (x.item.bits.zeroExtend 512)).advance
      { s2 with slots := NatMap.set s2.slots k (.busy t3) }.wake k

/-- Items assigned to the pops parked on a worklist, oldest first (R82); none while EN is 0 (R98). -/
def serveParkedPops (w : Nat) : Nat → State → State
  | 0, s => s
  | fuel + 1, s =>
    if (s.wl w).en then
      match s.waiters (popWaiter w) with
      | [] => s
      | x :: _ =>
        let p := popAt s w (panOf (x.2.1 / 16))
        match p.1, reserve s (x.2.1 / 16) x.2.2 with
        | none, _ => s
        -- the record that the pop reserved can no longer be written (R283)
        | some _, .error e => serveParkedPops w fuel (s.stopLater x.2.1 x.2.2 e)
        | some (e, wab), .ok _ =>
          let d : BitVec 5 := match x.2.2.park with
            | some (.pop _ d _) => d
            | _ => 0
          serveParkedPops w fuel (givePop p.2 x.2.1 { x.2.2 with park := none } w d e wab)
    else s

/-! ### Pushes -/

/-- An item enters its worklist, and parked pops are served; none when it cannot linearise (R88). -/
def enter (s : State) (w : Nat) (item : Item) (who : Pusher) (poison : Bool) : Option State × State :=
  let r := lineariseAt s w item who poison
  match r.1 with
  | none => (none, r.2)
  | some s1 => let s2 := serveParkedPops w (s1.slots.length + 1) s1; (some s2, s2)

/-- Whether a job's items are held for a successor (R125). -/
def isHeld (j : Job) : Bool := j.pred.isSome || j.stuck

/-! ### The addresses of a job (R159) -/

/-- The thread as which a job's own addresses are used (R158, R187): of its space, with its privilege. -/
def Job.accessor (j : Job) : Thread := { Thread.start 0 with asid := j.asid, sv := j.sv }

/-- Whether the tile store admits the job at each 64 bytes of `[p, p + n)` (R176, R187). Whether the windows of a core (R151) are
asked when a template, an image or a completion record of a job lies in its local memory is not said, and a device block has no
core for their RANGE; DESIGN CHOICE (log entry 21): they are not. -/
def jobAdmits (s : State) (j : Job) (va : Word) (p n : Nat) (write : Bool) : Bool :=
  decide (Place.tier p ≠ .tileStore) || (List.range ((n + 63) / 64)).all fun i =>
    (admitPart s 0 j.accessor (!write) write ⟨va + BitVec.ofNat 64 (64 * i), p + 64 * i, Nat.min n 64, [], 0⟩).toBool

/-- What an address of a job comes to: a place, a page that is away, a fault. -/
inductive JobSpot where
  | place (p : Nat)
  | away (page entry : Nat) (old : BitVec 64)
  | bad
  deriving DecidableEq, Repr

/-- Where `n` bytes of a job lie, within one page. A device block has no local memory of its own (log entry 21). -/
def jobSpot (s : State) (j : Job) (va : Word) (n : Nat) (write : Bool) : JobSpot :=
  let admitted (p : Nat) : JobSpot := if jobAdmits s j va p n write then .place p else .bad
  if va.toNat < 0x8_0000 then .bad
  else
    match targetOf (s.modNum * 1024) s.pod va with
    | some (.localMem c off _) => admitted (Place.lm c off)
    | some (.tileStore d off _) => admitted (Place.tile d off)
    | some .paged =>
      match walk s j.asid va ⟨!write, write, j.sv⟩ with
      | .page t => .place (t.place va)
      | .wait page entry old => .away page entry old
      | _ => .bad
    | _ => .bad

/-- The walk of a job's address, with what it sets (R161). -/
def jobMark (s : State) (j : Job) (va : Word) (write : Bool) : State := walkMark s j.asid va ⟨!write, write, j.sv⟩ write

/-- A held item in memory and in the hold (R125): none while the area is full, while its page is away (R163, the move is then
under way), or while it is not mapped any more (DESIGN CHOICE, log entry 20). -/
def holdAppend (s : State) (p : Push) : Option State × State :=
  let j := s.job p.item.job
  let va := j.holdAddr + BitVec.ofNat 64 (32 * j.holding.length)
  if j.holding.length < j.holdCap then
    match jobSpot s j va 32 true with
    | .place loc =>
      let s1 := ((jobMark s j va true).blockWrite loc (itemBytes p.item)).modJob p.item.job fun x =>
        { x with holding := x.holding ++ [p] }
      (some s1, s1)
    | .away page entry old => (none, startMove s j.asid page entry old)
    | .bad => (none, s)
  else (none, s)

/-- A counted push takes its place: in the hold area of a successor job, or in its worklist (R125, R80). -/
def doPush (s : State) (p : Push) : Option State × State :=
  if isHeld (s.job p.item.job) then holdAppend s p else enter s p.wl p.item p.who p.poison

/-- A worklist takes a push: EN is 1, or the job's items are held for its predecessor (R75, R125). -/
def takesPush (s : State) (p : Push) : Bool := (s.wl p.wl).en || isHeld (s.job p.item.job)

/-- A push by a device block to a worklist waits: those that come after it wait behind it (R94, R95, R97). -/
def pushWaits (s : State) (w : Nat) : Bool :=
  s.todo.any fun x => match x with
    | .push p => decide (p.wl = w)
    | .repush _ w' _ _ _ => decide (w' = w)
    | _ => false

/-- A push by a device block that has nobody to park: it is kept until it can linearise, behind those to its worklist that wait.
Refused under R75, its item is dropped and its count withdrawn (DESIGN CHOICE, log entry 64). -/
def devicePush (s : State) (p : Push) : State :=
  if ¬takesPush s p then (if p.counted then countDown s p.item.job 1 else s)
  else if pushWaits s p.wl then s.later (.push p)
  else
    let r := doPush s p
    match r.1 with
    | some s1 => s1
    | none => r.2.later (.push p)

/-- A push that returns an item to its worklist: it is not counted and not held (R97, R112); the thread `uid`, if it is one, waits
for it. -/
def returnFor (uid : Nat) (s : State) (w : Nat) (item : Item) (who : Pusher) (poison : Bool) : State :=
  if pushWaits s w then s.later (.repush uid w item who poison)
  else
    let r := enter s w item who poison
    match r.1 with
    | some s1 => s1
    | none => r.2.later (.repush uid w item who poison)

/-- The same with nobody waiting. -/
def returnItem (s : State) (w : Nat) (item : Item) (who : Pusher) (poison : Bool) : State := returnFor 0 s w item who poison

/-- Whether items that a thread's rollback pushes again wait for room. -/
def repushesOf (s : State) (uid : Nat) : Bool :=
  s.todo.any fun x => match x with
    | .repush u _ _ _ _ => decide (u = uid)
    | _ => false

/-- A class-0 item with key 0 (R65, R129). -/
def noteItem (job : BitVec 16) (payload : BitVec 192) : Item := ⟨0, job.zeroExtend 32, payload⟩

/-- A notification item is counted and pushed when its job is live (R119). -/
def pushNote (s : State) (w : Nat) (item : Item) (who : Pusher) : State :=
  if jobLive s item.job && (s.wl w).en then
    match countUp s item.job with
    | none => s
    | some s1 => devicePush s1 ⟨w, item, who, true, false⟩
  else s

/-- R129: `rest` is bytes 12 to 31 of the item. -/
def notify (s : State) (kind job : Nat) (rest : BitVec 160) (who : Pusher) : State :=
  if s.noteEn then
    pushNote s s.noteWl.toNat
      (noteItem s.noteJob (rest ++ BitVec.ofNat 16 job ++ BitVec.ofNat 16 kind)) who
  else s

/-- Bytes 0 to 19 of an item (R129). -/
def itemHead (i : Item) : BitVec 160 := i.bits.extractLsb' 0 160

/-! ### Tiles: storage (R175, R178, R180) -/

def tileSize (cls : Nat) : Nat := 0x1000 * 4 ^ cls

/-- Units of the pool that hold a tile of the die. -/
def Tile.unit (t : Tile) : Nat := t.base / 0x1_0000

/-- A partition's usage: the units it holds (R175). -/
def Die.usage (d : Die) (part : Nat) : Nat :=
  ((d.tiles.filter fun t => decide (t.part = part)).map Tile.unit).eraseDups.length

/-- The pool's free units (R174). -/
def Die.freeUnits (d : Die) : List Nat :=
  ((List.range 1024).drop d.tpLow).filter fun u => !(d.tiles.any fun t => decide (t.unit = u))

/-- Free positions of a class in the partition's split units (R180). -/
def Die.freePositions (d : Die) (part cls : Nat) : List Nat :=
  let units := ((d.tiles.filter fun t => decide (t.part = part) && decide (t.cls = cls)).map Tile.unit).eraseDups
  units.flatMap fun u =>
    ((List.range (0x1_0000 / tileSize cls)).map fun i => u * 0x1_0000 + i * tileSize cls).filter fun b =>
      !(d.tiles.any fun t => decide (t.base = b))

/-- What the other partitions still lack of their minimums (R180). -/
def Die.unmet (d : Die) (part : Nat) : Nat :=
  ((List.range 16).map fun p => if p = part then 0 else d.tpmin.getD p 0 - d.usage p).foldl (· + ·) 0

/-- The fields of a TALLOC request word (R179). -/
def reqJob (w : Word) : Nat := bitsOf w.toNat 63 48
def reqDie (w : Word) : Nat := bitsOf w.toNat 21 18
def reqPart (w : Word) : Nat := bitsOf w.toNat 17 14
def reqClass (w : Word) : Nat := bitsOf w.toNat 13 12
def reqCount (w : Word) : Nat := bitsOf w.toNat 11 0

/-- The bases a request may be given (R180); empty when it is not admitted. -/
def Die.admits (d : Die) (part cls : Nat) : List Nat :=
  let split := if cls < 2 then d.freePositions part cls else []
  if split ≠ [] then split
  else
    let free := d.freeUnits
    let u := d.usage part
    if (1 ≤ free.length ∧ u < d.tpmin.getD part 0) ∨
        (d.unmet part < free.length ∧ u < Nat.max (d.tpcap.getD part 0) (d.tpmin.getD part 0)) then
      free.map fun x => x * 0x1_0000
    else []

/-- A handle (R177) of a tile on die `die` of its module. -/
def handleOf (die base : Nat) (gen : BitVec 12) : Word :=
  gen ++ BitVec.ofNat 52 (0x200_0000_0000 + die % 8 * 0x400_0000 + base)

/-- A tile granted at a base (R180): unsealed, its contents open. -/
def grantTile (s : State) (die part cls count job base : Nat) : State × Word :=
  let d := s.die die
  let gen := NatMap.get d.gens (base / 0x1000) 0
  let tile : Tile := ⟨base, cls, part, gen, BitVec.ofNat 12 count, decide (count = 0), false, 0, job, false, 0⟩
  ((s.setDie die { d with tiles := d.tiles ++ [tile] }).openUp (Place.tile die base) (tileSize cls),
    handleOf die base gen)

/-- The job of a request (R179: 0xFFFF means the thread's own). -/
def reqOwner (t : Thread) (w : Word) : Nat := if reqJob w = 0xFFFF then t.job.toNat else reqJob w

/-- Waiters of a partition of a die, with their order (R181). -/
def tallocWaiter (die part : Nat) (t : Thread) : Option Nat :=
  match t.park with
  | some (.talloc _ w d n) => if d = die ∧ reqPart w = part then some n else none
  | _ => none

/-- The tile that a handle names on die and base, when it is current (R178, R435). -/
def currentTile (s : State) (h : Word) : Option (Nat × Tile) :=
  let a := bitsOf h.toNat 51 0
  if 0x200_0000_0000 ≤ a ∧ a < 0x200_2000_0000 then
    let die := s.modNum * 8 + (a - 0x200_0000_0000) / 0x400_0000
    let off := (a - 0x200_0000_0000) % 0x400_0000
    ((s.die die).tiles.find? fun t => decide (t.base = off) && decide (t.gen.toNat = bitsOf h.toNat 63 52)).map
      fun t => (die, t)
  else none

def setTile (s : State) (die : Nat) (t : Tile) : State :=
  s.modDie die fun d => { d with tiles := d.tiles.map fun u => if u.base = t.base then t else u }

/-- The oldest waiter of a partition is granted when R180 admits it: none when it is refused or there is none. -/
def grantOldest (s : State) (die part : Nat) : Option State :=
  match s.waiters (tallocWaiter die part) with
  | [] => none
  | x :: _ =>
    match x.2.2.park with
    | some (.talloc d w _ _) =>
      let bases := (s.die die).admits part (reqClass w)
      let c := s.choose bases.length
      match bases[c.1]?, reserveAll s (x.2.1 / 16) x.2.2 (1 + x.2.2.poutRecords d) with
      | none, _ => none
      -- the record that the grant reserved can no longer be written (R283)
      | some _, .error e => some (s.stopLater x.2.1 x.2.2 e)
      | some base, .ok _ =>
        let g := grantTile c.2 die part (reqClass w) (reqCount w) (reqOwner x.2.2 w) base
        let gen : BitVec 12 := g.2.extractLsb' 52 12
        match logOp g.1 (x.2.1 / 16) x.2.2 (.grant die base gen) with
        | .ok (s1, t1) => some (deliverG s1 x.2.1 t1 d g.2)
        | .error e => some (s.stopLater x.2.1 x.2.2 e)
    | _ => none

/-- R181 after a free in a partition: waiters are granted until one is refused. -/
def testPartition (die part : Nat) : Nat → State → State
  | 0, s => s
  | fuel + 1, s =>
    match grantOldest s die part with
    | none => s
    | some s1 => testPartition die part fuel s1

/-- The partition whose oldest waiter issued first among those not refused, of equal cycles the lower number (R181). -/
def nextPartition (s : State) (die : Nat) (refused : List Nat) : Option Nat :=
  ((List.range 16).foldl (fun best p =>
    if refused.contains p then best
    else match s.waiters (tallocWaiter die p), best with
      | [], b => b
      | x :: _, none => some (x.2.2.lastIssue.getD 0, p)
      | x :: _, some (n, q) => if x.2.2.lastIssue.getD 0 < n then some (x.2.2.lastIssue.getD 0, p) else some (n, q))
    (none : Option (Nat × Nat))).map (·.2)

/-- R181 after a unit has returned: every partition in the order of its oldest waiter until all are refused. -/
def testUnits (die : Nat) : Nat → List Nat → State → State
  | 0, _, s => s
  | fuel + 1, refused, s =>
    match nextPartition s die refused with
    | none => s
    | some p =>
      match grantOldest s die p with
      | none => testUnits die fuel (p :: refused) s
      | some s1 => testUnits die fuel refused s1

/-- R186: a tile is freed, its generation advances, and waiters are tested; consumers parked on it try again (R189). -/
def freeTile (s : State) (die : Nat) (t : Tile) : State :=
  let d := s.die die
  let d1 := { d with
    tiles := d.tiles.filter fun u => decide (u.base ≠ t.base)
    gens := NatMap.set d.gens (t.base / 0x1000) (t.gen + 1) }
  let s1 := (s.setDie die d1).wakeRetry fun _ _ w => match w with
    | .seal x b => decide (x = die) && decide (b = t.base)
    | _ => false
  let fuel := s1.slots.length + 17
  if d1.tiles.any fun u => decide (u.unit = t.unit) then testPartition die t.part fuel s1
  else testUnits die fuel [] s1

/-- A tile still named by die, base and generation. -/
def tileNamed (s : State) (die base : Nat) (gen : BitVec 12) : Option Tile :=
  (s.die die).tiles.find? fun t => decide (t.base = base) && decide (t.gen = gen)

/-- The free of a tile named by die, base and generation, if it is still there (R191, R192). -/
def freeNamed (s : State) (die base : Nat) (gen : BitVec 12) : State :=
  match tileNamed s die base gen with
  | some t => freeTile s die t
  | none => s

/-- R191: every tile of a job is freed and counted. Whether that takes in a tile which these very frees grant to a waiter that names
the job is not said; DESIGN CHOICE (log entry 49): it does not, and the tile keeps the retired number. -/
def reclaimTiles (s : State) (j : Nat) : State :=
  s.dies.foldl (fun s e =>
    ((s.die e.1).tiles.filter fun t => decide (t.job = j)).foldl (fun s t =>
      (freeNamed s e.1 t.base t.gen).modJob j fun x => { x with reclaimed := x.reclaimed + 1 }) s) s

/-! ### Retirement of a job (R122, R123, R125) -/

def verdictCode : Verdict → Nat
  | .clean => 0
  | .corrected => 1
  | .tainted => 2

/-- DONE (R123). -/
def doneWord (j : Nat) (x : Job) : Word := BitVec.ofNat 64 (verdictCode x.verdict + 4 + j * 2 ^ 32)

/-- Bytes 8 to 63 of the completion record (R123). -/
def recordBytes (x : Job) : List Byte :=
  toBytes 8 x.errors ++ toBytes 8 x.rollbacks ++ toBytes 8 x.reclaimed ++ toBytes 8 x.kills ++ toBytes 8 x.tasks ++
    toBytes 8 x.resident ++ toBytes 8 x.issued

/-- R123: the record at its place, DONE last as STF. -/
def writeRecord (s : State) (j p : Nat) : State :=
  let x := s.job j
  let s1 := (jobMark s x x.record true).blockWrite (p + 8) (recordBytes x)
  serve ((s1.write p (toBytes 8 (doneWord j x).toNat)).setFull p true) p

/-- R125 at the completion of `p`: successors' items are pushed in hold order, or stay with a notification. -/
def releaseSuccessors (s : State) (p : Nat) (v : Verdict) : State :=
  s.jobs.foldl (fun s e =>
    let x := s.job e.1
    if x.pred = some p then
      if v = .tainted then
        notify (s.setJob e.1 { x with pred := none, stuck := true }) 2 e.1 0 .jobTable
      else
        x.holding.foldl (fun s q => devicePush s { q with who := .jobTable })
          (s.setJob e.1 { x with pred := none, holding := [], holdCap := 0 })
    else s) s

/-- Steps 4 and 5 of R122: the successors, and the job's number. -/
def closeJob (s : State) (j : Nat) (v : Verdict) : State :=
  let s1 := releaseSuccessors s j v
  let y := s1.job j
  if y.waited then s1.setJob j { y with kept := true }
  else (s1.setJob j Job.free).wakeRetry fun _ _ w => decide (w = .jobNumber)

/-- Steps 3 to 5 of R122: a record whose page is away waits for it (R123, R163), one whose address faults is not written. -/
def recordJob (s : State) (j : Nat) : State :=
  let x := s.job j
  match jobSpot s x x.record 64 true with
  | .away page entry old => (startMove s x.asid page entry old).later (.record j)
  | .place p => closeJob (writeRecord s j p) j x.verdict
  | .bad => closeJob (notify s 4 j 0 .jobTable) j x.verdict

/-- Steps 2 to 5 of R122. -/
def retireJob (s : State) (j : Nat) : State :=
  recordJob ((reclaimTiles s j).modJob j fun x => { x with live := false }) j

/-- R122 when a count has reached zero: a job with POD asks the other modules first. -/
def jobZero (s : State) (j : Nat) : State :=
  let x := s.job j
  if x.count ≠ 0 ∨ x.kept then s
  else
    let others := s.pod.filter fun m => decide (m ≠ s.modNum)
    -- replies of an earlier round may still be awaited
    if x.pod ∧ others ≠ [] then s.setJob j { x with flushing := x.flushing ++ others }
    else retireJob s j

/-! ### Threads leave -/

/-- The gang departs from GBAR when every thread that has not been killed has arrived: never while one has ended by GEXIT without
arriving (R428, R116). -/
def tryDepart (s : State) (g : Nat) : State :=
  match s.gang? g with
  | none => s
  | some x =>
    if x.arrived ≠ [] ∧ ¬x.exited ∧ x.live.all (fun i => x.arrived.contains i) then
      let s1 := s.setGang g { x with arrived := [] }
      let s2 := s1.residents.foldl (fun s e =>
        if e.2.gang.toNat = g ∧ e.2.park = some .gbar then
          ({ s with slots := NatMap.set s.slots e.1 (.busy e.2.advance) }).wake e.1
        else s) s1
      -- a departure that occurs while a thread is away is recorded in its context (R257)
      let away : List (Nat × Nat) := s2.cores.flatMap fun e =>
        ((e.2.ctxCache.filterMap (·.2)) ++ e.2.ctxArea.map (·.2)).filterMap fun t =>
          if t.gang.toNat = g ∧ t.park = some .gbar then some (e.1, t.uid) else none
      away.foldl (fun s e => updateSaved s e.1 e.2 fun t => { t with departed := true }) s2
    else s

/-- What a thread's stay adds to its job's record (R123). -/
def chargeStay (s : State) (t : Thread) : State :=
  -- a redundant pair is two threads in two slots (R262)
  let stay := t.residentSum + (s.now - t.residentFrom)
  s.modJob t.job.toNat fun x => { x with
    resident := x.resident + (if t.pair then 2 * stay else stay)
    issued := x.issued + t.issued + t.trail.issued }

/-- Rakes that wait for a slot or an accumulator of a die to free may pop again (R112). -/
def freedOn (s : State) (die : Nat) : State :=
  { s with dies := s.dies.map fun e => (e.1, { e.2 with
    backoff := e.2.backoff.filter fun b => decide (b.1 % 8 ≠ die % 8) }) }

/-- A thread has left its slot on a core (R152). -/
def State.leave (s : State) (core : Nat) : State := s.modCore core fun c => { c with leftAt := s.now }

/-- The opening references that a gang still holds are dropped; numbers kept for its JWAITs are freed (R119, R431). -/
def dropOpened (s : State) (g : Nat) : State :=
  s.jobs.foldl (fun s e =>
    let x := s.job e.1
    match x.opener with
    | some (g', _) =>
      if g' = g then
        let s1 := s.setJob e.1 { x with opener := none, refHeld := false, waited := false }
        if x.refHeld then countDown s1 e.1 1
        else if x.kept then (s1.setJob e.1 Job.free).wakeRetry fun _ _ w => decide (w = .jobNumber)
        else s1
      else s
    | none => s) s

/-- R116: a gang that has lost its last thread frees its slots and its number, and its job falls by one. -/
def retireGang (s : State) (g : Nat) (x : Gang) : State :=
  let s1 := { s with
    gangs := NatMap.drop s.gangs g
    slots := s.slots.map fun e => if e.2 = .retiring g then (e.1, .empty) else e }
  let s2 := x.slots.foldl (fun s k => freedOn s (State.dieOf (k / 16))) s1
  let s3 := dropOpened s2 g
  countDown (s3.modJob x.job fun j => { j with tasks := j.tasks + 1 }) x.job 1

/-- A thread has left its gang by exit or kill (R116). -/
def leaveGang (s : State) (t : Thread) : State :=
  match s.gang? t.gang.toNat with
  | none => s
  | some x =>
    let y := { x with
      live := x.live.filter fun i => decide (i ≠ t.index.toNat)
      arrived := x.arrived.filter fun i => decide (i ≠ t.index.toNat) }
    let s1 := s.setGang t.gang.toNat y
    if y.live = [] then retireGang s1 t.gang.toNat y else tryDepart s1 t.gang.toNat

end Sys2Proof.Machine
end

