-- ==== Sys2Proof/Machine/Units.lean ====
section
/-!
DEFINITION. The units that work beside a thread: the matrix unit and its products (R211 to R214, R392 to R400), the
rotation buffer (R401, R402), the streamers' copies (R416, R418), the mailbox and messages (R144), and where fills go
(R139, R140).
-/
namespace Sys2Proof.Machine

/-! ### Fills (R140) -/

/-- The thread of a slot that waits for its empty sources tries again once all of them are full (R318). -/
def wakeRegister (s : State) (k : Nat) : State :=
  match NatMap.get s.slots k .empty with
  | .busy t =>
    match t.park with
    | some (.retry (.register gs vs)) => if gs.all t.gIsFull && vs.all t.vIsFull then s.wake k else s
    | _ => s
  | _ => s

/-- One more fill in the load-value queue, behind the instruction issued last (R262). -/
def addFill : List (Bool × Nat) → List (Bool × Nat)
  | [] => []
  | [(b, n)] => [(b, n + 1)]
  | x :: rest => x :: addFill rest

/-- The value of one fill laid down. -/
def Thread.lay (t : Thread) (x : Nat × Bool × Nat × BitVec 512) : Thread :=
  if x.2.1 then t.setV x.2.2.1 x.2.2.2 else t.fillG (BitVec.ofNat 5 x.2.2.1) (x.2.2.2.extractLsb' 0 64)

/-- A register of a resident thread is filled in cycle `now` (R140, R262). -/
def Thread.takeFill (t : Thread) (now : Nat) (v : Bool) (r : Nat) (w : BitVec 512) : Thread :=
  { t.lay (now, v, r, w) with
    filled := (t.filled.filter fun x => decide (x.1 = now)) ++ [(now, v, r, w)]
    trail := { t.trail with lag := addFill t.trail.lag } }

/-- The fills of this cycle stand over what has been written in it (R140, R366). -/
def refillRegs (s : State) : State :=
  s.residents.foldl (fun s e =>
    let l := e.2.filled.filter fun x => decide (x.1 = s.now)
    if l = [] then s else s.modSlot e.1 fun t => l.foldl Thread.lay t) s

/-- A fill of a g register of a thread, resident or away (R139, R140). -/
def fillReg (s : State) (core uid : Nat) (d : BitVec 5) (w : Word) : State :=
  match s.slotOf uid with
  | some (k, _) => wakeRegister (s.modSlot k fun t => t.takeFill s.now false d.toNat (w.zeroExtend 512)) k
  | none => updateSaved s core uid fun t => t.fillG d w

/-! ### The mailbox (R144, R418) -/

/-- A message has entered the mailbox of a core: every WAITM parked there is complete (R439). -/
def wakeMail (s : State) (core : Nat) : State :=
  s.residents.foldl (fun s e =>
    if e.1 / 16 = core ∧ e.2.park = some (.retry .mailbox) then (s.modSlot e.1 Thread.advance).wake e.1 else s) s

/-- A message joins the mailbox's tail. -/
def mailIn (s : State) (core : Nat) (m : BitVec 256) : State :=
  wakeMail (s.modCore core fun c => { c with mailbox := c.mailbox ++ [m] }) core

/-- A completion's message: it waits while the mailbox is full (R418). -/
def mailComplete (s : State) (core owner : Nat) (m : BitVec 256) : State :=
  if (s.core core).mailbox.length < 64 then mailIn s core m
  else s.modCore core fun c => { c with mailPending := c.mailPending ++ [(owner, m)] }

/-- What a thread still has under way at its core's engines (R429). -/
def hasCommands (s : State) (core uid : Nat) : Bool :=
  (s.copies.any fun c => decide (c.owner = uid)) ||
    ([0, 1].any fun i => (s.io i).moves.any fun m => m.fills.any fun f => decide (f.1 = uid)) ||
    ((s.core core).mailPending.any fun m => decide (m.1 = uid))

/-- Threads that have waited for their commands to complete, and whose commands have, go on (R429). -/
def wakeCommands (s : State) : State :=
  s.wakeRetry fun k t w => decide (w = .commands) && !hasCommands s (k / 16) t.uid

/-- Room in the mailbox: waiting completions enter it. -/
def mailRoom (s : State) (core : Nat) : State :=
  match (s.core core).mailPending with
  | [] => s
  | m :: rest =>
    if (s.core core).mailbox.length < 64 then
      wakeCommands (mailIn (s.modCore core fun c => { c with mailPending := rest }) core m.2)
    else s

/-! ### Products (R211 to R214, R399) -/

/-- Formats that form an integer product (R211). -/
def isByteInt (f : Nat) : Bool := f = 7 || f = 8

/-- R211: whether the product is an integer one, elements per K, chunk; none for the pairs it refuses. -/
def productPair (fa fb : BitVec 9) : Option (Bool × Nat × Nat) :=
  let a := attrFmt fa
  let b := attrFmt fb
  let ga := attrGeom fa
  let gb := attrGeom fb
  let small (f : Nat) : Bool := f = 5 || f = 6
  let half (f : Nat) : Bool := f = 3 || f = 4
  if isByteInt a ∧ isByteInt b ∧ ga = 0 ∧ gb = 0 then some (true, 384, 384)
  else if small a ∧ small b then
    if ga = 0 ∧ gb = 0 then some (false, 384, 384)
    else if ga ≠ 0 ∧ gb ≠ 0 then (if ga = gb then some (false, 384, blockLen fa) else none)
    else some (false, 384, blockLen (if ga ≠ 0 then fa else fb))
  else if half a ∧ half b ∧ ga = 0 ∧ gb = 0 then some (false, 192, 16)
  else if a = 14 ∧ b = 14 then some (false, 768, 32)
  else none

/-- Element `k` of a row of 384 bytes (R393). -/
def elemBits (fmt : Nat) (row : List Byte) (k : Nat) : Nat :=
  match fmtWidth fmt with
  | 16 => (row.getD (2 * k) 0).toNat + 256 * (row.getD (2 * k + 1) 0).toNat
  | 4 => bitsOf (row.getD (k / 2) 0).toNat (k % 2 * 4 + 3) (k % 2 * 4)
  | _ => (row.getD k 0).toNat

/-- Rows of 384 bytes of a block of 32. -/
def blockRows (block : List Byte) : List (List Byte) :=
  (List.range 32).map fun i => (block.drop (384 * i)).take 384

/-- The exact elements of a block's rows. -/
def decodeRows (attr : BitVec 9) (kn : Nat) (block : List Byte) (book : List (BitVec 16)) : List (List Exact) :=
  (blockRows block).map fun row =>
    (List.range kn).map fun k => decodeElem (attrFmt attr) (elemBits (attrFmt attr) row k) book

/-- The integer elements of a block's rows. -/
def decodeIntRows (attr : BitVec 9) (block : List Byte) : List (List Int) :=
  (blockRows block).map fun row => row.map fun x => decodeInteger (attrFmt attr) x.toNat

/-- One term of a product or a squared distance (R399). -/
def termOf (dist : Bool) (x y : Exact) : Exact :=
  if dist then (let d := x.add y.neg; d.mul d) else x.mul y

/-- mma_element of R212 for a floating-point pair: chunk by chunk, one rounding each. -/
def accumulate (dist : Bool) (chunk : Nat) (scales : List (Byte × Byte)) :
    Nat → Exact × Nat × FlagSet → List Exact → List Exact → Nat × FlagSet
  | 0, acc, _, _ => (acc.2.1, acc.2.2)
  | n + 1, acc, a, b =>
    let s := Exact.sum (List.zipWith (termOf dist) (a.take chunk) (b.take chunk))
    let sc := scales.head?.getD (127, 127)
    let s1 := if sc.1 = 255 ∨ sc.2 = 255 then .nan else s.scale ((sc.1.toNat : Int) + sc.2.toNat - 254)
    let r := roundTo 2 .rne (acc.1.add s1)
    accumulate dist chunk scales.tail n (decodeFloat (floatFmt 2) r.1, r.1, acc.2.2 ||| r.2) (a.drop chunk) (b.drop chunk)

/-- mma_element of R212 for an integer pair: wraps, with OF outside the i32 range. -/
def accumulateInt (dist : Bool) (acc : Nat) (a b : List Int) : Nat × FlagSet :=
  let terms := List.zipWith (fun x y => if dist then (x - y) * (x - y) else x * y) a b
  let v := decodeInteger 11 acc + terms.foldl (· + ·) 0
  (encodeInteger 11 v, if v < -(2 ^ 31) ∨ 2 ^ 31 ≤ v then OF else 0)

/-- The accumulator after a product (R399, R218, R392). -/
def applyProduct (p : Product) (acc : Acc) : Acc :=
  match productPair p.attrA p.attrB with
  | none => acc
  | some (isInt, kn, chunk) =>
    let cells : List (Nat × FlagSet) :=
      if isInt then
        let a := decodeIntRows p.attrA p.a
        let b := decodeIntRows p.attrB p.b
        (List.range 1024).map fun n =>
          accumulateInt p.dist (acc.elems.getD n 0).toNat (a.getD (n / 32) []) (b.getD (n % 32) [])
      else
        let a := decodeRows p.attrA kn p.a p.bookA
        let b := decodeRows p.attrB kn p.b p.bookB
        let chunks := kn / chunk
        (List.range 1024).map fun n =>
          let scales := (List.range chunks).map fun c =>
            (p.scaleA.getD (n / 32 * chunks + c) 127, p.scaleB.getD (n % 32 * chunks + c) 127)
          let old := (acc.elems.getD n 0).toNat
          accumulate p.dist chunk scales chunks (decodeFloat (floatFmt 2) old, old, 0) (a.getD (n / 32) [])
            (b.getD (n % 32) [])
    { acc with elems := cells.map fun (c : Nat × FlagSet) => BitVec.ofNat 32 c.1, kindInt := isInt }.raise (flagsOf cells)

/-- The B columns at offset `b` (R394). -/
def bColumns (s : State) (core b : Nat) : List Byte :=
  (List.range 32).flatMap fun j => s.bytes (Place.bstore core (j * 0x2_0000 + b)) 384

/-- A product's operands as they stand at issue (R396, R399); of a word that another party writes before the product runs R396
leaves open which value is read, and DESIGN CHOICE (log entry 24): it is always the old one. A lies at `aLoc` in the unit at `aUnit`
and is read as the thread sees it, B at offset `b`. -/
def captureProduct (s : State) (core : Nat) (t : Thread) (ad : BitVec 3) (dist : Bool) (attrA attrB : BitVec 9)
    (aLoc aUnit b : Nat) (books : List (List (BitVec 16))) (frees : Option (Nat × Nat × BitVec 12)) : Product :=
  let sa := scaleSpan attrA aUnit (aLoc - aUnit) 32
  { owner := t.uid, ad := ad, dist := dist, attrA := attrA, attrB := attrB
    a := ownView s t aLoc 12288
    b := bColumns s core b
    scaleA := ownView s t sa.1 sa.2
    scaleB := (List.range 32).flatMap fun j =>
      let sb := scaleSpan attrB (Place.bstore core (j * 0x2_0000)) b 1
      s.bytes sb.1 sb.2
    bookA := books.getD (attrBook attrA) []
    bookB := books.getD (attrBook attrB) []
    frees := frees }

/-- Poison in the operands of a product: in A or its scales, and in the B columns (R60, R260). -/
def poisonA (s : State) (attr : BitVec 9) (aLoc aUnit : Nat) : Bool :=
  let sa := scaleSpan attr aUnit (aLoc - aUnit) 32
  s.poisonIn aLoc 12288 || s.poisonIn sa.1 sa.2

def poisonB (s : State) (core : Nat) (attr : BitVec 9) (b : Nat) : Bool :=
  (List.range 32).any fun j =>
    let unit := Place.bstore core (j * 0x2_0000)
    let sb := scaleSpan attr unit b 1
    s.poisonIn (unit + b) 384 || (decide (sb.2 ≠ 0) && s.poisonIn sb.1 sb.2)

/-- Whether a queued product of the thread writes the accumulator (R396). -/
def Core.busyAcc (c : Core) (uid : Nat) (ad : BitVec 3) : Bool :=
  c.products.any fun p => decide (p.owner = uid) && decide (p.ad = ad)

/-- Whether a queued product of a core decodes with codebook register `n` (R200). -/
def Core.usesBook (c : Core) (n : BitVec 3) : Bool :=
  let names (attr : BitVec 9) : Bool := decide (attrFmt attr = 14) && decide (attrBook attr = n.toNat)
  c.products.any fun p => names p.attrA || names p.attrB

/-- Whether products that a thread waits for are still queued. -/
def Core.awaits (c : Core) (uid : Nat) : Products → Bool
  | .acc ad => c.busyAcc uid ad
  | .own => c.products.any fun p => decide (p.owner = uid)
  | .book n => c.usesBook n
  | .all => !c.products.isEmpty

/-- A product enters the unit's queue (R396). -/
def queueProduct (s : State) (core : Nat) (p : Product) : State :=
  s.modCore core fun c => { c with products := c.products ++ [p] }

/-- The order of a thread of a core whose product waits for an entry of the queue. -/
def enqueueOrder (s : State) (core : Nat) (t : Thread) : Option Nat :=
  match t.park, s.slotOf t.uid with
  | some (.enqueue _ _ n), some (k, _) => if k / 16 = core then some n else none
  | _, _ => none

/-- An entry of the unit's queue is free: the product that has waited longest takes it (R396), and its instruction completes,
or an MMRT waits for its product (R402 step 2). -/
def feedUnit (s : State) (core : Nat) : State :=
  match s.waiters (enqueueOrder s core) with
  | x :: _ =>
    match x.2.2.park with
    | some (.enqueue p none _) => (queueProduct (s.modSlot x.2.1 Thread.advance) core p).wake x.2.1
    | some (.enqueue p (some h) _) => parkIn (queueProduct s core p) x.2.1 x.2.2 (.product h p.ad)
    | _ => s
  | [] => s

/-- The count of an armed injection after one more product, and whether it strikes (R464). -/
def countInjection (c : Core) : Core × Bool :=
  match c.injection with
  | none => (c, false)
  | some n => if n ≤ 1 then ({ c with injection := none }, true) else ({ c with injection := some (n - 1) }, false)

/-- The matrix unit has completed its oldest product: the accumulator is written, a consumed tile freed (R186), and
threads that wait on the unit try again; a residue check that fails is consumed by the thread that issued it (R400). -/
def finishProduct (s : State) (core : Nat) (residueFails : Bool) : State :=
  match (s.core core).products with
  | [] => s
  | p :: rest =>
    let i := countInjection (s.core core)
    let s0 := if residueFails || i.2 then s.later (.residue p.owner) else s
    let s1 := s0.setCore core { i.1 with products := rest }
    let s2 := match s1.slotOf p.owner with
      | some (k, t) => match t.accAt p.ad with
        | some a =>
          -- an accumulator that a rollback has poisoned meanwhile stays so
          s1.modSlot k fun t => t.setAcc p.ad.toNat { applyProduct p a with poisoned := a.poisoned }
        | none => s1
      | none => s1
    let s3 := match p.frees with
      | some (d, b, g) => freeNamed s2 d b g
      | none => s2
    let s4 := feedUnit s3 core
    s4.wakeRetry fun k t w => decide (k / 16 = core) && match w with
      | .products x => !(s4.core core).awaits t.uid x
      | _ => false

/-- Every product of a thread still queued completes, and those before them (R257, R279). -/
def finishProductsOf (core uid : Nat) : Nat → State → State
  | 0, s => s
  | fuel + 1, s =>
    if (s.core core).products.any fun p => decide (p.owner = uid) then
      finishProductsOf core uid fuel (finishProduct s core false)
    else s

/-! ### The rotation buffer (R401, R402) -/

/-- The west and north neighbours of a core in its torus group (R401). -/
def westOf (cluster : Bool) (c : Nat) : Nat :=
  let x := State.coreX c
  let x' := if cluster then 4 * (x / 4) + (x % 4 + 3) % 4 else x ^^^ 1
  c - x + x'

def northOf (cluster : Bool) (c : Nat) : Nat :=
  let y := State.coreY c
  let y' := if cluster then 4 * (y / 4) + (y % 4 + 3) % 4 else y ^^^ 1
  c - 16 * y + 16 * y'

/-- Whether a deferred rotation of the thread in the same torus group is to send the block at `aOff` or the lines at `bOff` away
(R403): what replaces them comes only after its close (R467). -/
def rotationPending (t : Thread) (cluster : Bool) (aOff bOff : Nat) : Bool :=
  t.undo.any fun r => match r.2 with
    | .publish (.rotate h) =>
      decide (h.cluster = cluster) && ((decide (h.aOff < aOff + 12288) && decide (aOff < h.aOff + 12288)) ||
        (decide (h.bOff < bOff + 384) && decide (bOff < h.bOff + 384)))
    | _ => false

/-- Every word of the A block is full, or every one empty (R402). -/
def aFull (s : State) (core off : Nat) : Bool :=
  (List.range 1536).all fun i => s.full (Place.lm core off + 8 * i)

def aEmpty (s : State) (core off : Nat) : Bool :=
  (List.range 1536).all fun i => !s.full (Place.lm core off + 8 * i)

/-- Words `[p, p + n)` set empty. -/
def emptyRange (s : State) (p n : Nat) : State :=
  { s with emptyWords := (List.range (n / 8)).foldl (fun l i => insertNat l (p / 8 + i)) s.emptyWords }

/-- The numbers of the poisoned units among the `n` from place `p` on. -/
def badUnits (s : State) (p n : Nat) : List Nat :=
  (List.range n).filter fun i => s.poisoned.contains (p / 64 + i)

/-- R402 step 3: the buffer captures the operands as they stand; the sender's words are emptied, its lines not ready. -/
def handOff (s : State) (core : Nat) (h : Handoff) : State :=
  let attrB := (s.core core).bsfmt
  let page := h.aOff / 0x2_0000 * 0x2_0000
  let sa := scaleSpan h.attr (Place.lm core page) (h.aOff - page) 32
  let rot : Rotation :=
    { cluster := h.cluster, aOff := h.aOff, bOff := h.bOff, attrA := h.attr, attrB := attrB
      a := s.bytes (Place.lm core h.aOff) 12288
      scaleA := s.bytes sa.1 sa.2
      b := bColumns s core h.bOff
      scaleB := (List.range 32).flatMap fun j =>
        let sb := scaleSpan attrB (Place.bstore core (j * 0x2_0000)) h.bOff 1
        s.bytes sb.1 sb.2
      aBad := badUnits s (Place.lm core h.aOff) 192
      bBad := (List.range 32).flatMap fun j =>
        (badUnits s (Place.bstore core (j * 0x2_0000 + h.bOff)) 6).map (· + 6 * j)
      aSent := false, bSent := false }
  let s1 := s.modCore core fun c => { c with rotation := some rot }
  -- an STP parked on one of the words proceeds (R236)
  serveRange (setReady (emptyRange s1 (Place.lm core h.aOff) 12288) core h.bOff false) (Place.lm core h.aOff) 12288

/-- The thread once its block has been handed off: in a handler its open regions take up the emptied words (R252). -/
def handedOff (s : State) (core : Nat) (t : Thread) (h : Handoff) : Thread :=
  afterAccess s t [⟨0, Place.lm core h.aOff, 12288, [], 0⟩] false true

/-- An MMRT whose product is complete goes on with its rotation (R402): already deferred in a region (R275), else handed
over after the thread's earlier stores, which its arrivals release, or waiting for the buffer. -/
def rotateNext (s : State) (k : Nat) (t : Thread) (h : Handoff) : State :=
  if t.inRegion then deliver s k t .nothing
  else if (s.core (k / 16)).rotation.isNone then
    let s1 := handOff (s.drainOf t.uid) (k / 16) h
    deliver s1 k (handedOff s1 (k / 16) t h) .nothing
  else parkIn s k t (.handoff h)

/-- The MMRTs of a core whose products are complete, but for a thread that is to consume a residue's failure. -/
def advanceRotations (s : State) (core : Nat) : State :=
  s.residents.foldl (fun s e => match e.2.park with
    | some (.product h ad) =>
      if e.1 / 16 = core ∧ ¬(s.core core).busyAcc e.2.uid ad ∧ ¬s.todo.contains (.residue e.2.uid) then rotateNext s e.1 e.2 h
      else s
    | _ => s) s

/-- The scale byte that an arriving A block brings for block `n`, counted from its first, of the neighbour's page (R402
step 5): the sender's scale of the element at that block's first element, 127 from an unscaled page. -/
def arrivingScale (r : Rotation) (attr : BitVec 9) (n : Nat) : Byte :=
  if attrGeom r.attrA = 0 then 127
  else r.scaleA.getD (n * blockLen attr / perByte attr * perByte r.attrA / blockLen r.attrA) 127

/-- The A block delivered to the west neighbour, once every word there is empty. -/
def deliverA (s : State) (core : Nat) (r : Rotation) : State :=
  let west := westOf r.cluster core
  let attr := lmAttr s west r.aOff
  let page := r.aOff / 0x2_0000 * 0x2_0000
  let sp := scaleSpan attr (Place.lm west page) (r.aOff - page) 32
  let s1 := s.write sp.1 ((List.range sp.2).map (arrivingScale r attr))
  let dst := Place.lm west r.aOff
  let s2 := (r.aBad.foldl (fun s u => s.setPoison (dst + 64 * u)) (s1.write dst r.a)).fillWords dst 12288
  serveRange (serveRange (s2.modCore core fun c => { c with rotation := some { r with aSent := true } }) sp.1 sp.2) dst 12288

/-- One B column delivered to a core. -/
def deliverColumn (r : Rotation) (north : Nat) (s : State) (j : Nat) : State :=
  let unit := Place.bstore north (j * 0x2_0000)
  let sp := scaleSpan r.attrB unit r.bOff 1
  let s1 := s.write sp.1 ((r.scaleB.drop (sp.2 * j)).take sp.2)
  let s2 := s1.write (unit + r.bOff) ((r.b.drop (384 * j)).take 384)
  (r.bBad.filter fun u => decide (u / 6 = j)).foldl (fun s u => s.setPoison (unit + r.bOff + 64 * (u % 6))) s2

/-- The B columns delivered to the north neighbour, once no line there is ready. -/
def deliverB (s : State) (core : Nat) (r : Rotation) : State :=
  let north := northOf r.cluster core
  let s1 := (List.range 32).foldl (deliverColumn r north) s
  let s2 := s1.modCore north fun c => { c with bsfmt := r.attrB }
  (setReady s2 north r.bOff true).modCore core fun c => { c with rotation := some { r with bSent := true } }

/-- An empty buffer wakes those who wait for it (R402 step 3). -/
def clearRotation (s : State) (core : Nat) : State :=
  match (s.core core).rotation with
  | some r =>
    if r.aSent && r.bSent then
      (s.modCore core fun c => { c with rotation := none }).wakeRetry fun k _ w =>
        decide (k / 16 = core) && decide (w = .rotationBuffer)
    else s
  | none => s

/-! ### Copies (R416, R418) -/

/-- Data that a copy brings to a place replaces what its thread has deferred for it before the copy (R274, R276); of a copy
issued in a handler they go into the line records too, so that no rollback undoes them (R252). -/
def replaceFor (c : Copy) (s : State) (loc n : Nat) : State :=
  let p : Part := ⟨0, loc, n, s.bytes loc n, 0⟩
  let g (r : Nat × UndoRec) : Nat × UndoRec := if r.1 < c.fill then (r.1, replaceRecord p r.2) else r
  let f (t : Thread) : Thread :=
    { t with undo := t.undo.map fun r => if c.hnd then ((g r).1, amendRecord s loc n (s.bytes loc n) true (g r).2) else g r }
  match s.slotOf c.owner with
  | some (k, t) => if t.undo = [] then s else s.modSlot k f
  | none => s.modCore c.core fun x =>
      { x with ctxCache := x.ctxCache.map fun e => (e.1, e.2.map fun t => if t.uid = c.owner then f t else t)
               ctxArea := x.ctxArea.map fun e => (e.1, if e.2.uid = c.owner then f e.2 else e.2) }

/-- The padding of a ragged row (R416). -/
def padBytes (s : State) (dst n : Nat) : State :=
  let s1 := s.write dst (List.replicate n 0)
  let s2 := if Place.hasFullBits dst then s1.fillWords dst n else s1
  serveRange s2 dst n

/-- The message of a completion (R418). -/
def completionMail (tag : Word) (code recOff bytes : Nat) : BitVec 256 :=
  BitVec.ofNat 64 bytes ++ BitVec.ofNat 64 recOff ++ BitVec.ofNat 64 (code % 2 ^ 16) ++ tag

/-- The release of a command: a fill of its register or a message (R418, R244). -/
def completeCommand (s : State) (core owner : Nat) (d : Option (BitVec 5)) (tag : Word) (code recOff bytes : Nat) :
    State :=
  wakeCommands (match d with
    | some r => if r = 0 then s else fillReg s core owner r tag
    | none => mailComplete s core owner (completionMail tag code recOff bytes))

/-- The source of a copy's move answers its core, and the destination the source (R416, R28). -/
def answersAt (s : State) (core p : Nat) : Bool := reachable s p && linkedTo s core p
def answersFrom (s : State) (p q : Nat) : Bool :=
  reachable s q && (decide (nodeOf s p ≥ 16) || pathTo s (nodeOf s p) (nodeOf s q))

/-- One move of a copy: its transfers (R58), the bytes with the poison that they and the transfers carry. What becomes of the full
bits of words whose source nothing answers for is not said; DESIGN CHOICE (log entry 33): they stay as they are. -/
def performMove (c : Copy) (s : State) (m : Nat × Nat × Nat) : State :=
  if ¬answersFrom s m.1 m.2.1 then s
  else if answersAt s c.core m.1 then
    replaceFor c (moveWith c.bad.contains (countTransfers (countTransfers s m.1 m.2.2) m.2.1 m.2.2) m.1 m.2.1 m.2.2) m.2.1 m.2.2
  -- nothing answers at the source: the destination is marked poisoned (R28, R60)
  else (State.touchedUnits m.2.1 m.2.2).foldl (fun s u => s.setPoison (64 * u)) s

/-- One stretch of a copy's padding. -/
def performPad (c : Copy) (s : State) (m : Nat × Nat) : State :=
  if answersAt s c.core m.1 then replaceFor c (padBytes (countTransfers s m.1 m.2) m.1 m.2) m.1 m.2 else s

/-- A row of a copy: its bytes moved, then its padding (R416). -/
def performRow (c : Copy) (s : State) (r : CopyRow) : State := r.pads.foldl (performPad c) (r.moves.foldl (performMove c) s)

/-- All that a copy reads and writes answers (R28). -/
def Copy.answered (s : State) (c : Copy) : Bool :=
  (c.moves.all fun m => answersAt s c.core m.1 && answersFrom s m.1 m.2.1) && c.pads.all fun m => answersAt s c.core m.1

/-- A part of a copy lies in the pod and has no path yet (R28): all else that does not answer is told at once. -/
def Copy.cutOff (s : State) (c : Copy) : Bool :=
  (c.moves.any fun m => (reachable s m.1 && !answersAt s c.core m.1) || (reachable s m.2.1 && !answersFrom s m.1 m.2.1)) ||
    c.pads.any fun m => reachable s m.1 && !answersAt s c.core m.1

/-- A detected error of a thread's command is consumed by the thread, where its context lies saved by its first instruction after
its return (R28, R259). -/
def failCommand (s : State) (core uid : Nat) : State :=
  match s.slotOf uid with
  | some _ => s.later (.consume uid 0)
  | none => updateSaved s core uid fun t => { t with spoiled := true }

/-- A copy's rows in order, and its completion; one of whose parts nothing answers for completes as an error (R28). -/
def performCopy (s : State) (c : Copy) : State :=
  let s1 := c.rows.foldl (performRow c) s
  if c.answered s then completeCommand s1 c.core c.owner c.d c.tag c.code c.recOff c.bytes
  else failCommand (wakeCommands s1) c.core c.owner

/-- What a command reads, and what it writes. -/
def Copy.reads (c : Copy) : List (Nat × Nat) := c.moves.map fun m => (m.1, m.2.2)
def Copy.writes (c : Copy) : List (Nat × Nat) := (c.moves.map fun m => (m.2.1, m.2.2)) ++ c.pads

/-- What an inbound move reads and writes: its slot; its frame and its entry. -/
def moveReads (s : State) (m : Move) : List (Nat × Nat) := [(Place.cxl s.modNum m.slot, 0x2_0100)]
def moveWrites (s : State) (m : Move) : List (Nat × Nat) :=
  (m.entry, 8) :: (m.frame.toList.map fun f => (Place.hbm s.modNum f, 0x2_0000))

/-- Two lists of ranges share a byte. -/
def rangesMeet (x y : List (Nat × Nat)) : Bool :=
  x.any fun p => y.any fun q => decide (p.1 < q.1 + q.2) && decide (q.1 < p.1 + p.2)

/-- A copy and a move of the same thread overlap (R243), the copy issued before it, or after. -/
def copyMeets (s : State) (c : Copy) (m : Move) : Bool :=
  rangesMeet c.writes (moveReads s m) || rangesMeet c.writes (moveWrites s m) || rangesMeet c.reads (moveWrites s m)

/-- Whether one command writes a byte that the other reads or writes (R243). -/
def overlaps (a b : Copy) : Bool :=
  rangesMeet a.writes b.reads || rangesMeet a.writes b.writes || rangesMeet a.reads b.writes

/-- The streamer that serves a copy (R416): the one beside the home of its first source byte. -/
def Copy.streamer (s : State) (c : Copy) : Option (Nat × Nat) := (c.moves.head?).map fun m => streamerOf s m.1

/-- A command may be performed before the earlier ones in the list: none of them that overlaps it comes from the same thread
or is served by the same streamer; and no PUMP of its thread before it whose move it overlaps is under way (R243). -/
def copyFree (s : State) (n : Nat) (c : Copy) : Bool :=
  !((s.copies.take n).any fun e =>
    (decide (e.owner = c.owner) || decide (e.streamer s = c.streamer s)) && overlaps e c) &&
  !([0, 1].any fun i => (s.io i).moves.any fun m =>
    (m.fills.any fun f => decide (f.1 = c.owner) && decide (f.2.2.2 < c.issue)) && copyMeets s c m)

/-- Command `n` completes, one that no path leads to 1 ms after its issue (R28). -/
def finishCopy (s : State) (n : Nat) : State :=
  match s.copies[n]? with
  | some c => if copyFree s n c && (!c.cutOff s || decide (c.since + oneMs ≤ s.now)) then performCopy { s with copies := s.copies.eraseIdx n } c else s
  | none => s

/-! ### Messages (R144, R145, R438) -/

/-- The fields of a SEND target word (R438). -/
def sendCore (w : Word) : Nat := bitsOf w.toNat 9 0
def sendMod (w : Word) : Nat := bitsOf w.toNat 12 10
def sendOwn (w : Word) : Bool := w.getLsbD 13
def sendTid (w : Word) : Nat := bitsOf w.toNat 19 16
def sendReg (w : Word) : BitVec 5 := w.extractLsb' 20 5
def sendKindV (w : Word) : Bool := w.getLsbD 25

/-- The module that a message goes to. -/
def sendModule (s : State) (w : Word) : Nat := if sendOwn w then s.modNum else sendMod w

/-- A message to the own core: it goes nowhere (R144). -/
def sendsHome (s : State) (core : Nat) (w : Word) : Bool := decide (sendModule s w * 1024 + sendCore w = core)

/-- One attempt at delivery (R144): none when it is refused. A core of another module has no thread here, and its
mailbox fills like any other. -/
def deliverMessage (s : State) (m : Message) : Option State :=
  let core := sendModule s m.target * 1024 + sendCore m.target
  if m.toReg then
    let k := core * 16 + sendTid m.target
    match NatMap.get s.slots k .empty with
    | .busy t =>
      let r := sendReg m.target
      if sendKindV m.target then
        if t.vIsFull r.toNat then none
        else some (wakeRegister (s.modSlot k fun t => t.takeFill s.now true r.toNat (m.body.zeroExtend 512)) k)
      else if t.gFull.getLsbD r.toNat then none
      else some (wakeRegister (s.modSlot k fun t => t.takeFill s.now false r.toNat (m.body.zeroExtend 512)) k)
    | _ => none
  else if (s.core core).mailbox.length < 64 then some (mailIn s core m.body)
  else none

/-- SENDs of a core that hold an entry of the retry buffer (R145). -/
def retryEntries (s : State) (core : Nat) : Nat :=
  (s.residents.filter fun e => decide (e.1 / 16 = core) && match e.2.park with
    | some (.send _ n _ true) => decide (n ≠ 0)
    | _ => false).length

/-- The undeliverable trap's value (R250). -/
def undeliverable (s : State) (m : Message) : Word :=
  let base := sendCore m.target + sendModule s m.target * 2 ^ 10
  BitVec.ofNat 64 (if m.toReg then base + sendTid m.target * 2 ^ 16 else base + 2 ^ 20)

end Sys2Proof.Machine
end

