-- ==== Sys2Proof/Machine/Regions.lean ====
section
/-!
DEFINITION. Recovery regions and the end of a thread: deferred publications performed at the outermost REND (R277),
rollback and escalation (R279 to R281), killing a thread (R263), consuming a detected error (R251, R260), and pushes
to other modules (R94).
-/
namespace Sys2Proof.Machine

/-! ### Other modules (R94, R13) -/

/-- The I/O die nearer to a core: ID0 for CD0, CD1, CD4 and CD5 (R13). -/
def nearIo (core : Nat) : Nat := nearerIo (coreNode core)

/-- A push enters its shadow; none when the I/O die has no free entry. -/
def shadowEnter (s : State) (core m w : Nat) (item : Item) : Option State :=
  let x := s.io (nearIo core)
  if x.shadows.length < 2048 then some (s.setIo (nearIo core) { x with shadows := x.shadows ++ [(m, w, item, s.now)] }) else none

/-- The node that a push goes to: the die whose pan it addresses, or the I/O die that holds the shadow of another module's
worklist (R13, R88, R94). -/
def pushNode (s : State) (core m : Nat) (p : Push) : Nat :=
  if m = s.modNum then targetPan (s.wl p.wl) p.item p.who / 8 else 8 + nearIo core

/-- A counted push that has come to its node is made: on the own module in its worklist or hold area, on another in its shadow. -/
def placePush (s : State) (core m : Nat) (p : Push) : Option State × State :=
  -- a parked push stays parked while EN is 0 (R99)
  if m = s.modNum then (if takesPush s p then doPush s p else (none, s))
  else
    match shadowEnter s core m p.wl p.item with
    | some s1 => (some s1, s1)
    | none => (none, s)

/-- The same of a push of the intake thread, which travels in no packet (log entry 15), where a path leads to the node. -/
def makePush (s : State) (core m : Nat) (p : Push) : Option State × State :=
  if linked s core (pushNode s core m p) then placePush s core m p else (none, s)

/-- The cycle at which a parked push times out (R91, R94); none while its worklist's TOUT is 15. -/
def pushDeadline (s : State) (m : Nat) (p : Push) (since : Nat) : Option Nat :=
  let tout := (if m = s.modNum then (s.wl p.wl).tout else NatMap.get s.podTout (m * 64 + p.wl) 0).toNat
  if tout ≠ 15 then some (since + 2 ^ (tout + 10)) else none

/-- The arrival of a PUMP (R72, R419): it joins the page's move while that is in flight, and is pushed at once
otherwise; none while the pump's arrival queue is full. -/
def makeArrival (s : State) (io : Nat) (asid : BitVec 8) (page : Nat) (p : Push) : Option State :=
  let x := s.io io
  let isFor (m : Move) : Bool := decide (m.asid = asid) && decide (m.page = page)
  let join (m : Move) : Move := if isFor m then { m with arrivals := m.arrivals ++ [p] } else m
  if 1024 ≤ x.arrivalsUsed then none
  else if x.moves.any isFor then
    some (s.setIo io { x with arrivalsUsed := x.arrivalsUsed + 1, moves := x.moves.map join })
  else some (devicePush s p)

/-! ### Ending a thread (R263) -/

/-- Deferred pushes discarded: the counts they raised at issue are withdrawn (R97, R120). -/
def withdrawPush (s : State) (p : Push) : State := if p.counted then countDown s p.item.job 1 else s

def discard (s : State) : Publication → State
  | .push _ p | .arrival _ _ _ p => withdrawPush s p
  | _ => s

/-- A flit returned to the front of its queue (R143). -/
def returnFlit (s : State) (core q : Nat) (flit : Word) : State :=
  match s.queue core q with
  | [] => s.pushFlit core q flit
  | l => s.setQueue core q (flit :: l)

/-- A message returned to the front of the mailbox (R275). -/
def returnMail (s : State) (core : Nat) (m : BitVec 256) : State :=
  wakeMail (s.modCore core fun c => { c with mailbox := m :: c.mailbox }) core

/-- The count of a tile that is still there is raised by `n` again (R192, R191). -/
def restoreCount (s : State) (die base : Nat) (gen : BitVec 12) (n : Nat) : State :=
  match tileNamed s die base gen with
  | some t => setTile s die { t with count := t.count + BitVec.ofNat 12 n, freePending := false }
  | none => s

/-- The deferred free of a count-down of the thread `uid` that reached zero (R192). -/
def deferredFree (s : State) (uid die base : Nat) (gen : BitVec 12) : State :=
  match tileNamed s die base gen with
  | some t => if t.freePending && decide (t.zeroBy = uid) then freeTile s die t else s
  | none => s

/-- Records, oldest first, without the count-downs that a later one of the same tile follows: the free belongs to the one
that made the count zero (R192). -/
def lastCounts : List (Nat × UndoRec) → List (Nat × UndoRec)
  | [] => []
  | (off, .countDown d b g n) :: rest =>
    if rest.any fun r => match r.2 with
      | .countDown d' b' g' _ => decide (d' = d ∧ b' = b ∧ g' = g)
      | _ => false
    then lastCounts rest
    else (off, .countDown d b g n) :: lastCounts rest
  | r :: rest => r :: lastCounts rest

/-- What a kill does with an undo record of an uncommitted region (R263): pops, PIN and RECVM entries are returned,
counts restored, publications discarded. -/
def killRecord (core : Nat) (s : State) : UndoRec → State
  | .pop w item poison => returnItem s w item (.thread core) poison
  | .pin c q flit => returnFlit s c q flit
  | .recvm body => returnMail s core body
  | .countDown d b g n => restoreCount s d b g n
  | .publish p => discard s p
  | _ => s

/-- The same of a committed region (R263): pops' decrements and deferred frees are performed. -/
def killCommitted (uid : Nat) (s : State) : UndoRec → State
  | .pop _ item _ => countDown s item.job 1
  | .countDown d b g _ => deferredFree s uid d b g
  | .publish p => discard s p
  | _ => s

/-- What the open regions of a thread that is killed leave (R263): committed ones in program order; of others the
pops in program order, the rest from newest to oldest. -/
def abandonRegions (s : State) (core : Nat) (t : Thread) : State :=
  if t.committed then (lastCounts t.undo.reverse).foldl (fun s r => killCommitted t.uid s r.2) s
  else
    let isPop (r : Nat × UndoRec) : Bool := match r.2 with
      | .pop .. => true
      | _ => false
    let s1 := (t.undo.filter fun r => !isPop r).foldl (fun s r => killRecord core s r.2) s
    (t.undo.reverse.filter isPop).foldl (fun s r => killRecord core s r.2) s1

/-- Undo records without the newest one of a flit read from a queue, with the fill offset as it is then. -/
def dropPin (core q : Nat) (flit : Word) (undo : List (Nat × UndoRec)) (fill : Nat) : List (Nat × UndoRec) × Nat :=
  match undo with
  | [] => ([], fill)
  | (off, r) :: rest =>
    if r = .pin core q flit then (rest, off)
    else (let u := dropPin core q flit rest fill; ((off, r) :: u.1, fill))

/-- The flit that a parked instruction has taken goes back, with its undo record (R143, R248). -/
def giveBack (s : State) (core : Nat) (t : Thread) : State × Thread :=
  match t.taken with
  | none => (s, t)
  | some (q, flit) =>
    let u := dropPin core q flit t.undo t.fill
    (returnFlit s core q flit, { t with taken := none, undo := u.1, fill := u.2 })

/-- A parked or withdrawn push that dies with its thread is withdrawn (R263, R97). -/
def withdrawParked (s : State) (t : Thread) : State :=
  let s1 := match t.park with
    | some (.push _ p _ _) => if t.closing then s else withdrawPush s p
    -- a tile that it has consumed to zero is not read any more (R186)
    | some (.enqueue p _ _) => p.frees.elim s fun x => freeNamed s x.1 x.2.1 x.2.2
    | some (.access ⟨.tget _ frees, _, _⟩) => frees.elim s fun x => freeNamed s x.1 x.2.1 x.2.2
    -- a TCSWAP that ends lets the slot it waits for issue again
    | some (.swap k _ _) => s.modSlot k fun y => { y with stopping := false }
    | _ => s
  match t.counted with
  | some j => countDown s1 j 1
  | none => s1

/-- The header of the undo area (R269). -/
def undoHeader (t : Thread) : List Byte :=
  let marks := t.levels.reverse.map (·.mark)
  let range (r : PRange) : List Byte := toBytes 8 (bitsOf r.base.toNat 51 0) ++ toBytes 4 r.len ++ toBytes 4 r.level
  let ranges := t.ranges.flatMap range
  toBytes 8 t.fill ++ marks.flatMap (toBytes 8) ++ List.replicate (120 - 8 * marks.length) 0 ++
    ranges ++ List.replicate (384 - ranges.length) 0

/-- The header written: before the context of a swap-out is (R269), and when the thread leaves for good (R466). -/
def writeHeader (s : State) (core : Nat) (t : Thread) : State :=
  if t.rgnSize = 0 then s
  else
    (List.range 8).foldl (fun s i => match undoPlace s core t (64 * i) with
      | some p => (deviceMark s t.asid (undoAddress t (64 * i)) true).blockWrite p ((undoHeader t).drop (64 * i) |>.take 64)
      | none => s) s

/-- The rest of R263 for a thread that runs on no slot any more: regions, gang, job. A redundant
pair is one thread in KILLS, and two in RESIDENT and ISSUED (R262; DESIGN CHOICE, log entry 43). -/
def endThread (s : State) (core : Nat) (t : Thread) (err : Bool) : State :=
  let g := giveBack s core t
  let s1 := abandonRegions (withdrawParked g.1 g.2) core g.2
  let s2 := charge s1 t.job.toNat (if err then 1 else 0) .tainted
  let s3 := chargeStay (s2.modJob t.job.toNat fun j => { j with kills := j.kills + 1 }) t
  leaveGang s3 t

/-- The thread in slot `k` is killed (R263); `err` when by a detected error, which its job is charged with. -/
def killSlot (s : State) (k : Nat) (t : Thread) (err : Bool) : State :=
  -- a pair's other slot is emptied with it (R262)
  let freed := s.slots.map fun e =>
    if e.1 = k ∨ e.2 = .trailing k then (e.1, Slot.empty) else e
  let s1 := { s with slots := freed }
  let s2 := match s1.gang? t.gang.toNat with
    | some g => s1.setGang t.gang.toNat { g with slots := g.slots.filter fun x => decide (x ≠ k) }
    | none => s1
  endThread ((freedOn s2 (State.dieOf (k / 16))).leave (k / 16)) (k / 16) t err

/-- A kill that a notification of kind 5 reports (R251, R129): `cause` with the hint count, and the value. -/
def doubleTrap (s : State) (k : Nat) (t : Thread) (cause : Nat) (value : Word) (err : Bool) : State :=
  let trapc : BitVec 16 := BitVec.ofNat 16 (cause + 256 * t.hints.length)
  let rest : BitVec 160 :=
    (0#56 ++ BitVec.ofNat 8 (k % 16) ++ BitVec.ofNat 16 (k / 16 % 1024) ++ trapc ++ value)
  let s1 := killSlot s k t err
  notify s1 5 t.job.toNat rest (.die (State.dieOf (k / 16) % 8))

/-! ### Rollback (R279, R281) -/

/-- Whether a record of `size` bytes at offset `off` of the undo area reads back poisoned. -/
def recordPoisoned (s : State) (core : Nat) (t : Thread) (off size : Nat) : Bool :=
  (List.range (size / 64)).any fun i => match undoPlace s core t (off + 64 * i) with
    | some p => s.poisonRead p 64
    | none => false

/-- Such a read: its translations, which set A (R161), and its transfers (R58, R59). -/
def readRecord (s : State) (core : Nat) (t : Thread) (off size : Nat) : State :=
  (List.range (size / 64)).foldl (fun s i =>
    let o := off + 64 * i
    match undoPlace s core t o with
    | some p => (countTransfers (deviceMark s t.asid (undoAddress t o) false) p 64).spendBad p 64
    | none => s) s

def recordSize : UndoRec → Nat
  | .line .. => 128
  | .accum .. => 4160
  | _ => 64

/-- The eight full bits of a line, and the services that their changes start (R279, R236). -/
def restoreFull (s : State) (loc : Nat) (full : BitVec 8) : State :=
  if Place.hasFullBits loc then
    (List.range 8).foldl (fun s i => s.setFull (loc + 8 * i) (full.getLsbD i)) s
  else s

/-- Step 2 of R279 for one record. -/
def applyRecord (core : Nat) (st : State × Thread) : UndoRec → State × Thread
  | .line _ loc old full _ => (serveRange (restoreFull (st.1.write loc old) loc full) loc 64, st.2)
  | .accum n old => (st.1, st.2.setAcc n old)
  | .countDown d b g n => (restoreCount st.1 d b g n, st.2)
  | .grant d b g => (freeNamed st.1 d b g, st.2)
  | .pin c q flit => (returnFlit st.1 c q flit, st.2)
  | .recvm body => (returnMail st.1 core body, st.2)
  | .pop .. | .publish _ => st

/-- Records applied from newest to oldest; those left where one reads back poisoned. -/
def applyRecords (core : Nat) : List (Nat × UndoRec) → State × Thread → List (Nat × UndoRec) × (State × Thread)
  | [], st => ([], st)
  | (off, r) :: rest, st =>
    let s1 := readRecord st.1 core st.2 off (recordSize r)
    if recordPoisoned st.1 core st.2 off (recordSize r) then ((off, r) :: rest, (s1, st.2))
    else applyRecords core rest (applyRecord core (s1, st.2) r)

/-- What a kill finds of records that have been applied: the pops and publications, which step 2 does not touch. -/
def unspent (records : List (Nat × UndoRec)) : List (Nat × UndoRec) :=
  records.filter fun r => match r.2 with
    | .pop .. | .publish _ => true
    | _ => false

/-- A pop whose record reads back poisoned returns an item that is (log entry 62): the record is read for it. -/
def spoilPop (core : Nat) (t : Thread) (s : State) (r : Nat × UndoRec) : State × (Nat × UndoRec) :=
  match r.2 with
  | .pop w item p => (readRecord s core t r.1 64, (r.1, .pop w item (p || recordPoisoned s core t r.1 64)))
  | _ => (s, r)

/-- The same of all records that are left. -/
def spoilPops (core : Nat) (t : Thread) : List (Nat × UndoRec) → State → State × List (Nat × UndoRec)
  | [], s => (s, [])
  | r :: rest, s =>
    let x := spoilPop core t s r
    let y := spoilPops core t rest x.1
    (y.1, x.2 :: y.2)

/-- Step 3 and 4 of R279 for one record, oldest first. -/
def unwindRecord (core uid : Nat) (s : State) : UndoRec → State
  | .pop w item poison => returnFor uid s w item (.thread core) poison
  | .publish p => discard s p
  | _ => s

/-- Accumulators that a level writes to and does not preserve are poisoned (R279 step 5). -/
def poisonDirty (t : Thread) (l : Level) (above : List (Nat × UndoRec)) : Thread :=
  let kept := above.filterMap fun r => match r.2 with
    | .accum n _ => some n
    | _ => none
  { t with acc := t.acc.mapIdx fun n a =>
      if l.dirty.contains n && !kept.contains n then { a with poisoned := true } else a }

/-- Steps 2 to 5 of R279 for the innermost level `l`, its records spent; none when a record reads back poisoned, with
the records that a kill then treats (R263). -/
def unwindLevel (s : State) (core : Nat) (t : Thread) (l : Level) : Option (State × Thread) × (State × Thread) :=
  let above := t.undo.takeWhile fun r => decide (l.mark ≤ r.1)
  let t0 := { t with undo := t.undo.drop above.length }
  let r := applyRecords core above (s, t0)
  match r.1 with
  | [] =>
    let s2 := above.reverse.foldl (fun s x => unwindRecord core t.uid s x.2) r.2.1
    let st := (s2, poisonDirty r.2.2 l above)
    (some st, st)
  | left =>
    let spent := above.take (above.length - left.length)
    -- the read that has met the error is done
    let spoilt := spoilPops core t (left.drop 1) r.2.1
    let first := (left.take 1).map fun x => (spoilPop core t s x).2
    (none, (spoilt.1, { r.2.2 with undo := unspent spent ++ first ++ spoilt.2 ++ t0.undo }))

/-- Steps 6 to 8 of R279: the registers of the snapshot, the fill offset, the counts, the target. -/
def resumeLevel (t : Thread) (l : Level) (rest : List Level) : Thread :=
  let p := l.snapshot
  { t with
    g := p.g, gFull := p.gFull, v := p.v, vFull := p.vFull, m1 := p.m1, m2 := p.m2, m3 := p.m3
    rnd := p.rnd, port := p.port, badG := 0, badV := 0, trail := { t.trail with lag := [] }, filled := []
    fill := l.mark + 1408
    ranges := t.ranges.filter fun r => decide (r.level ≤ rest.length)
    levels := { l with count := l.count + 1, dirty := [] } :: rest
    rtryTotal := if t.rtryTotal = 0xFFFF then t.rtryTotal else t.rtryTotal + 1
    pc := l.target, hints := [], park := none, taken := none, counted := none, atIssue := none, owed := none, late := 0
    closing := false }

/-- A rollback of the innermost level, escalating where its retries are spent (R281); a kill at level 0, or where the
snapshot to be restored reads back poisoned. -/
def rollbackLevels (k : Nat) (err : Bool) : List Level → State → Thread → State
  | [], s, t => killSlot s k { t with levels := [], undo := [] } err
  | l :: rest, s, t =>
    let u := unwindLevel s (k / 16) t l
    match u.1 with
    | none => killSlot u.2.1 k u.2.2 err
    | some (s1, t1) =>
      if l.count.toNat < l.limit.toNat then
        let s0 := readRecord s1 (k / 16) t1 l.mark 1408
        if recordPoisoned s1 (k / 16) t1 l.mark 1408 then killSlot s0 k t1 err
        else
        let s2 := charge s0 t.job.toNat (if err then 1 else 0) (if err then .corrected else .clean)
        let s3 := s2.modJob t.job.toNat fun j => { j with rollbacks := j.rollbacks + 1 }
        -- it waits until the items that it pushes again have room (R88, R97)
        if repushesOf s3 t.uid then parkIn s3 k (resumeLevel t1 l rest) (.retry .repushes)
        else ({ s3 with slots := NatMap.set s3.slots k (.busy (resumeLevel t1 l rest)) }).wake k
      else
        rollbackLevels k err rest s1 { t1 with
          levels := rest, ranges := t1.ranges.filter fun r => decide (r.level ≤ rest.length) }

/-- A thread's commands that are still on their way: copies, and PUMPs whose pages have not landed. -/
def hasMoves (s : State) (uid : Nat) : Bool :=
  (s.copies.any fun c => decide (c.owner = uid)) ||
    [0, 1].any fun i => (s.io i).moves.any fun m => m.fills.any fun f => decide (f.1 = uid)

/-- The products of a thread complete (R257, R279), and whether a residue check among them fails. -/
def flushProducts (s : State) (core uid : Nat) : Bool × State :=
  let s1 := advanceRotations (finishProductsOf core uid 9 s) core
  (s1.todo.contains (.residue uid), { s1 with todo := s1.todo.filter fun x => decide (x ≠ .residue uid) })

/-- R279 from its first step: the thread stops issuing, a parked operation is withdrawn, what it has stored is performed, products and
commands complete; the rest follows once its commands in flight have completed and no store of its waits behind another's request.
A residue check that fails meanwhile is part of the error. -/
def rollback (s : State) (k : Nat) (t : Thread) (err : Bool) : State :=
  let g0 := giveBack (withdrawParked s t) (k / 16) t
  let stopped : Thread := { g0.2 with park := some (.retry .settling), counted := none, owed := none, late := 0, closing := false }
  let put := g0.1.putSlot k stopped
  if hasMoves put t.uid || put.blocked t.uid then put.later (.rollback t.uid err)
  else
    let s1 := (flushProducts (put.drainOf t.uid) (k / 16) t.uid).2
    let t1 := match NatMap.get s1.slots k .empty with
      | .busy x => x
      | _ => stopped
    rollbackLevels k err t1.levels s1 t1

/-- A detected error consumed by the thread in slot `k` (R260, R251, R277): the value is its access's address, or 0. -/
def consumeError (s : State) (k : Nat) (t : Thread) (value : Word) : State :=
  if t.hnd then doubleTrap s k t 18 value true
  else if t.levels = [] ∨ t.committed then killSlot s k t true
  else rollback s k t true

/-! ### The outermost REND (R277) -/

/-- What performing a deferred publication comes to. -/
inductive Published where
  | done (s : State) (t : Thread)
  | waits (s : State) (t : Thread) (p : Park)
  | stop (s : State) (t : Thread) (e : Stop)
  deriving DecidableEq, Repr

/-- The registers of the thread as its slot holds them: a message may have filled one of its own (R139). -/
def syncRegs (s : State) (t : Thread) : Thread :=
  match s.slotOf t.uid with
  | some (_, x) => { t with g := x.g, gFull := x.gFull, v := x.v, vFull := x.vFull, filled := x.filled }
  | none => t

/-- The oldest deferred publication changed. -/
def mendOldest (f : Publication → Publication) (undo : List (Nat × UndoRec)) : List (Nat × UndoRec) :=
  let isPub (r : Nat × UndoRec) : Bool := match r.2 with
    | .publish _ => true
    | _ => false
  let old := undo.reverse
  (old.takeWhile (fun r => !isPub r) ++
    (match old.dropWhile fun r => !isPub r with
      | (off, .publish p) :: rest => (off, .publish (f p)) :: rest
      | l => l)).reverse

/-- A deferred push noted as counted in its job, or not. -/
def Publication.setCounted (c : Bool) : Publication → Publication
  | .push m p => .push m { p with counted := c }
  | .arrival io a g p => .arrival io a g { p with counted := c }
  | p => p

/-- The counting of a push whose increment a timeout has withdrawn (R91). -/
def recount (s : State) (m : Nat) (p : Push) : Option (State × Push) :=
  if p.counted || decide (m ≠ s.modNum) then some (s, p)
  else if jobLive s p.item.job then (countUp s p.item.job).map fun s1 => (s1, { p with counted := true })
  else none

/-- The flags that trap in the performing of an operation: AFADDV carries them from its issue (R355). -/
def MemOp.enablesAt (t : Thread) : MemOp → FlagSet
  | .afaddv _ _ _ enables => enables
  | _ => t.enables

/-- A deferred access whose translation a TLBINV has removed, translated again (R343). -/
def retranslate (s : State) (core : Nat) (t : Thread) (r : Req) : Except Stop Req :=
  (r.parts.mapM fun p => (resolve s core t r.op.needs.1 r.op.needs.2 r.op.fullBits p.len 1 [(p.lane, p.va)]).map fun spots =>
    { p with loc := (spots.head?.map fun x => x.part.loc).getD p.loc }).map fun parts => { r with parts := parts }

/-- One publication, a release that covers what precedes it (R247). -/
def publishOne (s0 : State) (core : Nat) (t : Thread) (p : Publication) : Published :=
  if s0.blocked t.uid then .waits s0 t (.retry .stores) else
  let s := s0.drainOf t.uid
  match p with
  | .access r =>
    -- performed at its home, in its turn there (R238); in the own local memory at once
    if !r.parts.all fun p => Place.ownOf core p.loc then .waits s t (.access r)
    else match perform s t r with
    | .ok s1 _ flags =>
      if flags &&& r.op.enablesAt t = 0 then .done s1 { t with fpst := t.fpst ||| flags.zeroExtend 14 }
      else .stop s1 t (.trap 15 (flags.zeroExtend 64))
    | .waits => .waits s t (r.waiting s.pushSeq)
    | .error va => .stop s t (.error va)
  | .push m x =>
    if m = s.modNum ∧ ¬takesPush s x then .stop s t (.trap 3 (x.item.bits.extractLsb' 0 64))
    else match recount s m x with
    | none => .stop s t (.trap 3 (x.item.bits.extractLsb' 0 64))
    | some (s1, y) =>
      -- to another node it travels in a packet (R24)
      let r := if pushNode s1 core m y = coreNode core then placePush s1 core m y else (none, s1)
      match r.1 with
      | some s2 => .done s2 t
      -- its count stands with the record, whatever becomes of the wait (R96)
      | none => .waits r.2 { t with undo := mendOldest (Publication.setCounted y.counted) t.undo } (.push m y s.now s.pushSeq)
  | .seal h sc =>
    match currentTile s h with
    | none => .stop s t (.trap 8 h)
    | some (d, x) =>
      if x.sealed then .stop s t (.trap 9 h)
      else
        .done ((setTile s d { x with sealed := true, scope := sc }).wakeRetry fun _ _ w =>
          decide (w = .seal d x.base)) t
  | .free h =>
    match currentTile s h with
    -- checked at its issue (R192); a deferred free whose tile is gone has no effect (R191)
    | some (d, x) => .done (freeTile s d x) t
    | none => .done s t
  | .send m =>
    match (if sendsHome s core m.target then deliverMessage s m else none) with
    | some s1 => .done s1 (syncRegs s1 t)
    | none => .waits s t (.send m 0 s.now true)
  | .pout c q v =>
    if s.poutRoom c q then .done (s.pushFlit c q v) t else .waits s t (.pout c q v s.pushSeq (t.pc + 4))
  | .stale r =>
    match retranslate s core t r with
    | .error (.park w) => .waits s t w
    | .error e => .stop s t e
    | .ok q => .waits s { t with undo := mendOldest (fun _ => .access q) t.undo } (.access q)
  | .rotate h =>
    if (s.core core).rotation.isNone then .done (handOff s core h) t else .waits s t (.retry .rotationBuffer)
  | .arrival io asid page x =>
    match recount s s.modNum x with
    | none => .stop s t (.trap 3 (x.item.bits.extractLsb' 0 64))
    | some (s1, y) =>
      match makeArrival s1 io asid page y with
      | some s2 => .done s2 t
      | none => .waits s1 { t with undo := mendOldest (Publication.setCounted true) t.undo } (.retry (.arrivalQueue io))

/-- Records in program order: publications and the decrements of pops are performed, the rest kept for the end. -/
def closeRecords (core : Nat) : List (Nat × UndoRec) → List (Nat × UndoRec) → State → Thread → Published
  | [], kept, s, t => .done s { t with undo := kept }
  | (off, r) :: rest, kept, s, t =>
    match r with
    | .publish p =>
      -- the thread's own view no longer holds what has been performed
      let t0 : Thread := { t with undo := rest.reverse ++ (off, r) :: kept }
      match publishOne s core t0 p with
      | .done s1 t1 => closeRecords core rest kept s1 t1
      | .waits s1 t1 w => .waits s1 t1 w
      | .stop s1 t1 e => .stop s1 t1 e
    | .pop _ item _ => closeRecords core rest kept (countDown s item.job 1) t
    | _ => closeRecords core rest ((off, r) :: kept) s t

/-- The close of the outermost region: publications, then ranges, fill offset, deferred frees and the level. -/
def closeOutermost (s : State) (core : Nat) (t : Thread) : Published :=
  match closeRecords core t.undo.reverse [] s { t with committed := true } with
  | .done s1 t1 =>
    let s2 := (lastCounts t1.undo.reverse).foldl (fun s r => match r.2 with
      | .countDown d b g _ => deferredFree s t.uid d b g
      | _ => s) s1
    .done s2 { t1 with undo := [], ranges := [], fill := 512, levels := [], committed := false }
  | .waits s1 t1 w => .waits s1 { t1 with closing := true } w
  | .stop s1 t1 e => .stop s1 t1 e

/-- The close of an inner region: records and ranges take the enclosing level. -/
def closeInner (t : Thread) (l m : Level) (rest : List Level) : Thread :=
  { t with
    levels := { m with dirty := l.dirty.foldl insertNat m.dirty } :: rest
    ranges := t.ranges.map fun r => { r with level := Nat.min r.level (rest.length + 1) }
    undo := t.undo.map fun r => match r.2 with
      | .line va loc old full lv => (r.1, .line va loc old full (Nat.min lv (rest.length + 1)))
      | _ => r }

end Sys2Proof.Machine
end

