-- ==== Sys2Proof/Machine/Snapshot.lean ====
section
/-!
DEFINITION. The snapshot trigger (R55, R265) and the stop of every core (R264).
-/
namespace Sys2Proof.Machine

/-- Where the snapshot buffer lies (R35). -/
def snapshotPlace : Nat := Place.control 0x10_0000

/-- A record's header (R265): die, kind of block, index and length. -/
def snapHeader (die kind index len : Nat) : List Byte :=
  toBytes 8 (die % 16 + kind % 256 * 2 ^ 4 + index % 4096 * 2 ^ 16 + len % 2 ^ 28 * 2 ^ 32)

/-- The records from an offset of the buffer on (R265): their headers and paddings by offset, and how many fit; where the
rest do not, a record of kind 0xFF. A block's kind, index and length are as Config gives them (log entry 12). -/
def snapRecords : List (Nat × Nat × Nat × Nat) → Nat → List (Nat × List Byte) × Nat
  | [], _ => ([], 0)
  | (die, kind, index, len) :: rest, off =>
    let pad := (8 - len % 8) % 8
    let next := off + 8 + len + pad
    if next + (if rest.isEmpty then 0 else 8) ≤ 0x10_0000 then
      let r := snapRecords rest next
      ((off, snapHeader die kind index len) :: (off + 8 + len, List.replicate pad 0) :: r.1, r.2 + 1)
    else ([(off, snapHeader 0 0xFF 0 0)], 0)

/-- The snapshot buffer as the trigger fills it (R265): the blocks' registers are open. -/
def snapshot (s : State) (cause : Nat) : State :=
  let r := snapRecords (Config.snapshotBlocks s.fresh) 32
  let s1 := s.openUp (snapshotPlace + 32) (0x10_0000 - 32)
  let s2 := s1.write snapshotPlace
    (toBytes 8 (0x534E_4150 + 2 ^ 32) ++ toBytes 8 cause ++ toBytes 8 s.now ++ toBytes 8 r.2)
  { r.1.foldl (fun s x => s.write (snapshotPlace + x.1) x.2) s2 with snap := true }

/-- The trigger (R55): assertions of one cycle count as one. -/
def assertTrigger (s : State) (cause : Nat) : State :=
  if s.snapAt = some s.now then s
  else if s.snap then { s with snapLost := if s.snapLost = 15 then 15 else s.snapLost + 1, snapAt := some s.now }
  else { snapshot s cause with snapAt := some s.now }

/-- Every core stops (R264). -/
def haltAll (s : State) (cause : Nat) : State := { assertTrigger s cause with status := 4, stopped := true }

end Sys2Proof.Machine
end

