-- ==== Sys2Proof/Machine/Ops.lean ====
section
/-!
DEFINITION. How an instruction ends at its thread: completion, a transfer, a park (R135), a trap (R248, R251), a
detected error (R260); the return from a trap (R249); the frame in which every meaning of a word runs; what a swap-out
does with a parked operation (R257); and what follows from a step.
-/
namespace Sys2Proof.Machine

/-! ### Traps (R248, R249) -/

/-- The registers at trap entry (R248): `t` is the thread as it stands at the trap, its PC at the instruction. -/
def Thread.enterTrap (t : Thread) (svec : BitVec 17) (cause : Nat) (value : Word) : Thread :=
  { t with
    epc := t.pc - BitVec.ofNat 19 (4 * t.hints.length)
    trapc := BitVec.ofNat 10 (cause + 256 * t.hints.length)
    trapv := value
    psv := t.sv, sv := true, hnd := true
    pc := svec ++ 0#2
    fetchBuf := none, hints := [], park := none, taken := none, closing := false, counted := none, atIssue := none
    owed := none, late := 0 }

/-- A trap taken by the thread in slot `k`: at issue, or at its completion after a park (R248); a second one kills
(R251). A flit it took goes back, the count of a withdrawn push is withdrawn with it. A pair takes it once its trailing
thread has reached the instruction (R262). -/
def takeTrap (s : State) (k : Nat) (t : Thread) (cause : Nat) (value : Word) : State :=
  if t.trail.lag ≠ [] then (s.putSlot k { t with park := some (.retry .settling) }).later (.trap t.uid cause value)
  else if t.hnd then doubleTrap s k t cause value false
  else
    let s0 := match t.counted with
      | some j => countDown s j 1
      | none => s
    let g := giveBack s0 (k / 16) t
    (g.1.putSlot k (g.2.enterTrap (g.1.core (k / 16)).svec cause value)).wake k

/-- The registers after ERET (R249); EPC bits [1:0] are ignored (R254). -/
def Thread.leaveTrap (t : Thread) : Thread :=
  { t with sv := t.psv, hnd := false, pc := t.epc &&& ~~~3#19, fetchBuf := none, hints := [], taken := none, atIssue := none }

/-! ### The end of an instruction -/

/-- A stop of the thread in slot `k`. -/
def stopIn (s : State) (k : Nat) (t : Thread) : Stop → State
  | .trap c v => takeTrap s k t c v
  | .park p => parkIn s k t p
  | .error v => consumeError s k t v

/-- How an instruction ends. -/
inductive Eff where
  /-- It has completed: the next word follows. -/
  | next (s : State) (t : Thread)
  /-- It has completed with a transfer to `pc`. -/
  | goto (s : State) (t : Thread) (pc : BitVec 19)
  /-- It has completed and left the thread as it stands. -/
  | stay (s : State) (t : Thread)
  /-- It has begun and parks. -/
  | parked (s : State) (t : Thread) (p : Park)
  /-- The thread has left its slot, or the state already holds it. -/
  | gone (s : State)
  /-- It stops after part of its work is done for good (R277). -/
  | stop (s : State) (t : Thread) (e : Stop)
  deriving DecidableEq, Repr

/-- The access fault of an instruction at 0x7_FFFC that the word at 0x8_0000 would follow (R149). -/
def fallsOff : Stop := .trap 3 0x8_0000

/-- Whether the thread is at the last word. -/
def Thread.atLastWord (t : Thread) : Bool := t.pc = 0x7_FFFC#19

/-- Whether an instruction that does not end its thread's stay goes on to the next word unless it is a taken transfer
(R149): the transfers themselves may wait at the last word. -/
def fallsThrough : Instr → Bool
  | .beq .. | .bne .. | .blt .. | .bge .. | .bltu .. | .bgeu .. | .j .. | .jal .. | .jr .. | .jalr .. | .gexit => false
  | _ => true

/-- The state after instruction `i` of thread `t` of `s`. -/
def finish (i : Instr) (s : State) (t : Thread) (r : Except Stop Eff) : State :=
  let k := s.cur.1 * 16 + s.cur.2
  match r with
  | .ok (.next s1 t1) => if t.atLastWord then stopIn s k t fallsOff else s1.putThread t1.advance
  | .ok (.goto s1 t1 pc) => s1.putThread { t1 with pc := pc, hints := [], taken := none, counted := none, atIssue := none }
  | .ok (.stay s1 t1) => s1.putThread t1
  | .ok (.parked s1 t1 p) => if t.atLastWord && fallsThrough i then stopIn s k t fallsOff else parkIn s1 k t1 p
  | .ok (.gone s1) => s1
  | .ok (.stop s1 t1 e) => stopIn s1 k t1 e
  | .error (.park p) => if t.atLastWord && fallsThrough i then stopIn s k t fallsOff else parkIn s k t p
  | .error e => stopIn s k t e

/-- The illegal-instruction trap (R250): TRAPV is the word. -/
def illegal (i : Instr) : Stop := .trap 1 ((encode i).zeroExtend 64)

/-- The encoding checks of R317: no reserved field value (R304, R315, R316), and hints that apply (R309). -/
def encodingOk (i : Instr) (t : Thread) : Bool := i.wf && hintsOk i t.hints

/-- The frame of every meaning of a word: a resident thread, the encoding checks, then the meaning. -/
def run (i : Instr) (m : State → Thread → Except Stop Eff) (s : State) : Host.Outcome State Fault Refusal :=
  match s.thread? with
  | none => .fault .noThread
  | some t => .next (finish i s t (if encodingOk i t then m s t else .error (illegal i)))

/-- Sources first (R318), then the rest. -/
def withSources (s : State) (t : Thread) (gs : List (BitVec 5)) (vs : List Nat)
    (f : State → Thread → Except Stop Eff) : Except Stop Eff :=
  match readSources s t gs vs with
  | .error e => .error e
  | .ok st => f st.1 st.2

/-- Completion with a result for a g register (R319); the thread parks while a result for POUT waits for room, and is to
execute its instruction again if it is withdrawn (R143). -/
def retG (s : State) (t : Thread) (d : BitVec 5) (w : Word) : Except Stop Eff :=
  match writeG s s.cur.1 t d w with
  | .error (.park p) => .ok (.parked s t p)
  | .error e => .error e
  | .ok st => .ok (.next st.1 st.2)

/-- The same of an instruction that has taken effect otherwise: withdrawn, it owes the result alone. -/
def retDone (s : State) (t : Thread) (d : BitVec 5) (w : Word) : Except Stop Eff :=
  match writeG s s.cur.1 t d w with
  | .error (.park (.pout c q v n next)) =>
    .ok (.parked s { t with owed := some (v, next), taken := none } (.pout c q v n next))
  | .error e => .error e
  | .ok st => .ok (.next st.1 st.2)

/-- Completion with floating-point flags (R207, R208) and a result for a g register: a result that waits for POUT raises its
flags when it completes (R368). -/
def retFlagsG (s : State) (t : Thread) (d : BitVec 5) (w : Word) (f : FlagSet) : Except Stop Eff :=
  match t.raise f with
  | .error e => .error e
  | .ok _ =>
    match writeG s s.cur.1 t d w with
    | .error (.park p) => .ok (.parked s { t with late := f } p)
    | .error e => .error e
    | .ok st => .ok (.next st.1 (st.2.flagged f))

/-- Completion with flags and a result for a v register. -/
def retFlagsV (s : State) (t : Thread) (d : Nat) (x : VWord) (f : FlagSet) : Except Stop Eff :=
  match t.raise f with
  | .error e => .error e
  | .ok t1 => .ok (.next s (t1.setV d x))

/-- A check: the rest, or a stop. -/
def check (ok : Bool) (e : Stop) (rest : Except Stop Eff) : Except Stop Eff := if ok then rest else .error e

/-! ### What an instruction takes at its issue -/

/-- What a decoding access or a product takes at its issue (R166, R200): the attributes of A and of B, the codebooks. -/
structure Operands where
  attrA : BitVec 9
  attrB : BitVec 9
  books : List (List (BitVec 16))
  deriving DecidableEq, Repr

/-- As it stands, or as it stood when the instruction was first issued. -/
def operandsAt (s : State) (t : Thread) (attrA : BitVec 9) : Operands :=
  match t.atIssue with
  | some (.operands a b books) => ⟨a, b, books⟩
  | _ => ⟨attrA, (s.core s.cur.1).bsfmt, (s.core s.cur.1).codebooks⟩

/-- An instruction parks and will be executed again with what it has taken at its issue. -/
def keepIssue (s : State) (t : Thread) (x : AtIssue) (r : Except Stop Eff) : Except Stop Eff :=
  match r with
  | .error (.park p) => .ok (.parked s { t with atIssue := some x } p)
  | r => r

/-- What has its thread's earlier plain stores performed first waits, once its own checks have passed, for those of them that follow
another thread's request at their home (R228, R238). -/
def released (s : State) (t : Thread) (f : Except Stop Eff) : Except Stop Eff :=
  check (!s.blocked t.uid) (.park (.retry .stores)) f

/-- The end of a passed access (R345): its result, its flags, which come with a result for POUT (R368). -/
def fillEff (s : State) (t : Thread) (f : FlagSet) : Fill → Except Stop Eff
  | .nothing => .ok (.next s (t.flagged f))
  | .ended => .ok (.parked s (t.flagged f) (.ending none))
  | .acc d a w => .ok (.parked s ((t.flagged f).takeAcc d a w) (.ending none))
  | .again x => .ok (.parked s { t with atIssue := some x } (.ending none))
  | .g d w =>
    match retDone s t d w with
    | .ok (.parked s1 t1 p) => .ok (.parked s1 { t1 with late := f } p)
    | .ok (.next s1 t1) => .ok (.next s1 (t1.flagged f))
    | r => r
  | .v d x => .ok (.next s ((t.flagged f).setV d x))

/-- An access after its checks up to step 7 of R339. -/
def access (s : State) (t : Thread) (r : Req) : Except Stop Eff :=
  match sendReq s s.cur.1 t r with
  | .error e => .error e
  | .ok (.done s1 t1 f flags) =>
    match t1.raise flags with
    | .error e => .error e
    | .ok _ => fillEff s1 t1 flags f
  | .ok (.parked s1 t1 p) => .ok (.parked s1 t1 p)

/-! ### Readiness (R131) -/

/-- The load-value queue of a pair is full (R262). -/
def Thread.queueFull (t : Thread) : Bool := decide (32 ≤ t.trail.lag.foldl (fun n x => n + x.1.toNat + x.2) 0)

/-- The cycle from which a thread is ready as things stand; none while it is parked, halted or stopped (R131), or a pair's
load-value queue is full (R262). -/
def readyFrom (t : Thread) : Option Nat :=
  if t.park.isSome || t.halted || t.queueFull || (t.stopping && !t.again) then none
  else some (if t.yieldTo = [] then t.readyAt else Nat.max t.readyAt t.yieldEnd)

/-- The thread that a slot runs, and whether the slot is a pair's trailing one (R262). -/
def slotThread (s : State) (c n : Nat) : Option (Thread × Bool) :=
  match NatMap.get s.slots (c * 16 + n) .empty with
  | .busy t => some (t, false)
  | .trailing lead => match NatMap.get s.slots lead .empty with
    | .busy t => some (t, true)
    | _ => none
  | _ => none

/-- The cycle from which a slot is ready (R131, R262). -/
def slotFrom (s : State) (c n : Nat) : Option Nat :=
  (slotThread s c n).bind fun x => if x.2 then x.1.trailFrom else readyFrom x.1

/-! ### Swap-out (R257) -/

/-- A parked operation that completes before the swap-out. -/
def mustFinish : Park → Bool
  | .access _ | .remote _ | .divide .. | .vdivide .. | .product .. | .handoff _ | .select .. | .ending _
  | .swap .. | .enqueue .. | .invalidate _ => true
  -- once it waits in the retry buffer a SEND is withdrawn, its entry freed (R421)
  | .send _ attempt _ _ => decide (attempt = 0)
  | .retry w => w.finishes || decide (w = .repushes)
  | _ => false

/-- What holds up a pre-emption or a rollback of a thread that has not parked: hints whose instruction has not issued
(R310). -/
def Thread.betweenHints (t : Thread) : Bool := t.park.isNone && !t.hints.isEmpty

/-- A thread stands between a hint and its instruction: a snapshot waits for the instruction (R310). -/
def State.betweenHints (s : State) : Bool :=
  !s.stopped && s.residents.any fun e => e.2.betweenHints && !e.2.halted

/-- What holds up a swap-out (R257, R310): of a pair the load-value queue too (R262). -/
def Thread.holdsUp (t : Thread) : Bool :=
  !t.trail.lag.isEmpty || t.park.elim (t.betweenHints || t.again) mustFinish

/-- A thread whose slot has stopped issuing and whose parked operation does not complete first: the operation is
withdrawn, to be issued again at the saved PC, the first hint's; a GBAR's arrival stands. -/
def withdrawFor (s : State) (core : Nat) (t : Thread) : State × Thread :=
  if t.park = some .gbar then (s, { t with stopping := false, fetchBuf := none })
  else
    let counted : Option Nat := match t.park with
      | some (.push _ p _ _) => if p.counted && !t.closing then some p.item.job else t.counted
      | _ => t.counted
    let g := giveBack s core t
    (g.1, { g.2 with
      pc := t.pc - BitVec.ofNat 19 (4 * t.hints.length), hints := [], park := none, counted := counted
      closing := false, atIssue := none, stopping := false, fetchBuf := none
      late := if t.owed.isSome then t.late else 0 })

/-! ### What follows from a step -/

/-- One follow-up. -/
def settleOne (s : State) : Todo → State
  | .jobZero j => jobZero s j
  | .push p => devicePush s p
  | .consume uid va =>
    match s.slotOf uid with
    -- hints and the instruction they apply to are not parted by a rollback (R310)
    | some (k, t) => if t.betweenHints then s.later (.consume uid va) else consumeError s k t va
    | none => s
  | .trap uid c v =>
    match s.slotOf uid with
    | some (k, t) => takeTrap s k t c v
    | none => s
  | .rollback uid err =>
    match s.slotOf uid with
    | some (k, t) => rollback s k t err
    | none => s
  | .residue uid =>
    match s.slotOf uid with
    | some (k, t) => if t.betweenHints then s.later (.residue uid) else consumeError s k { t with hints := [] } 0
    | none => s
  | .repush uid w item who poison => returnFor uid s w item who poison
  | .record j => recordJob s j
  | .free d b g => freeNamed s d b g
  | .halt cause => if s.betweenHints then s.later (.halt cause) else haltAll s cause
  | .serve p n => serveRange s p n

/-- The follow-ups of a step, each once a round. -/
def settleRounds : Nat → State → State
  | 0, s => s
  | n + 1, s =>
    match s.todo with
    | [] => s
    | l => settleRounds n (l.foldl settleOne { s with todo := [] })

/-- An MMRT whose operands have all arrived goes on (R402 step 1). -/
def wakeOperands (s : State) : State :=
  s.wakeRetry fun k t w => match w with
    | .operands cl a b => aFull s (k / 16) a && bReady s (k / 16) b && !rotationPending t cl a b
    | _ => false

/-- A thread whose rollback has pushed its items again goes on (R88, R97). -/
def wakeRepushes (s : State) : State :=
  s.wakeRetry fun _ t w => decide (w = .repushes) && !repushesOf s t.uid

/-- The SEND of a core that waits for an entry of the retry buffer, the one refused first (R145). -/
def nextUnbuffered (s : State) (core : Nat) : Option Nat :=
  (s.residents.foldl (fun best e =>
    if e.1 / 16 = core then
      match e.2.park, best with
      | some (.send _ _ due false), none => some (due, e.1)
      | some (.send _ _ due false), some (d, k) => if due < d then some (due, e.1) else some (d, k)
      | _, b => b
    else best) (none : Option (Nat × Nat))).map (·.2)

/-- A SEND takes an entry that has freed; its back-off begins (R145). -/
def takeEntry (s : State) (k : Nat) : State :=
  s.modSlot k fun t => match t.park with
    | some (.send m n _ _) => { t with park := some (.send m n (s.now + 16 * 2 ^ Nat.min n 10) true) }
    | _ => t

/-- Entries of the retry buffers that have freed are taken. -/
def feedRetry (s : State) : State :=
  ((s.residents.filter fun e => match e.2.park with
      | some (.send _ _ _ false) => true
      | _ => false).map fun e => e.1 / 16).foldl (fun s core =>
    if retryEntries s core < 8 then
      match nextUnbuffered s core with
      | some k => takeEntry s k
      | none => s
    else s) s

end Sys2Proof.Machine
end

