-- ==== Sys2Proof/Machine/Boot.lean ====
section
/-!
DEFINITION. Reset and bring-up (R48, R468), fatal errors (R264), and the power and thermal controllers (R15, R16).
-/
namespace Sys2Proof.Machine

/-! ### Reset (R468) -/

/-- A place that a reset of this module leaves alone: in the CXL tier, or in a memory of another module. -/
def outlasts (s : State) (p : Nat) : Bool :=
  Place.tier p == .cxl || (decide (p < 5 * Place.unit) && decide (Place.module p ≠ s.modNum))

/-- Memory after a reset (R468): the CXL tier and the other modules' memories keep what they have, the contents of HBM and of
the tile stores are open, every other byte of this module is zero. -/
def memAfterReset (s : State) : Memory :=
  let c := s.modNum * 1024
  let zeroed := ((s.mem.wipe (Place.lm c 0) 0x2000_0000).wipe (Place.bstore c 0) 0x1_0000_0000).wipe (5 * Place.unit) (2 * Place.unit)
  (zeroed.forget (Place.tile (s.modNum * 8) 0) 0x2000_0000 (s.fresh + 1)).forget (Place.hbm s.modNum 0) 0x4_0000_0000_0000 (s.fresh + 2)

/-- The module in reset: what R468 keeps, what the part and its place in the pod are, what belongs to other modules, and the
model's own counters stay; everything else is as after power-on. -/
def resetKeep (s : State) : State :=
  { State.reset with
    cur := s.cur, agenda := s.agenda, devTurn := s.devTurn, turnNo := s.turnNo, fresh := s.fresh + 2, nextUid := s.nextUid
    mem := memAfterReset s
    poisoned := s.poisoned.filter fun u => outlasts s (64 * u)
    emptyWords := s.emptyWords.filter fun w => outlasts s (8 * w)
    cores := s.cores.filter fun e => decide (e.1 / 1024 ≠ s.modNum)
    dies := s.dies.filter fun e => decide (e.1 / 8 ≠ s.modNum)
    modNum := s.modNum, pod := s.pod, spareWires := s.spareWires, podTout := s.podTout
    topleft := s.topleft, fusedMin := s.fusedMin, images := s.images, boot := s.boot }

/-! ### Bring-up (R48) -/

/-- Dies next to those reached, over bridges that are not down. -/
def spread (down : List Nat) (reached : List Nat) : List Nat :=
  ((List.range 14).zip bridges).foldl (fun r b =>
    if down.contains b.1 then r
    else if r.contains b.2.1 ∧ ¬r.contains b.2.2 then r ++ [b.2.2]
    else if r.contains b.2.2 ∧ ¬r.contains b.2.1 then r ++ [b.2.1]
    else r) reached

/-- The dies that the management core on ID0 reaches. -/
def reachedDies (down : List Nat) : List Nat := (List.range 10).foldl (fun r _ => spread down r) [8]

def allReached (down : List Nat) : Bool := (List.range 8).all fun d => (reachedDies down).contains d

/-- Whether a firmware copy's key and signature verify, and its version: of the committed image, else of the one the part
was made with (R50, R54). -/
def firmwareCopy (s : State) (n : Nat) : Bool × BitVec 32 :=
  match (s.images.find? fun e => decide (e.1 = n)).map (·.2) with
  | some bytes => (Config.imageVerifies bytes, Config.imageVersion bytes)
  | none => if n = 0 then s.boot.copyA else s.boot.copyB

/-- A copy passes (R50). -/
def copyPasses (s : State) (n : Nat) : Bool :=
  (firmwareCopy s n).1 && decide (s.fusedMin.toNat ≤ (firmwareCopy s n).2.toNat)

/-- The device images of step 4, in load order: the intake program 2, the others from 3 on. -/
def deviceImages (s : State) : List Nat :=
  (s.images.map (·.1)).foldl (fun l n => if 2 ≤ n then insertNat l n else l) ((List.range s.boot.images).map (· + 2))

/-- A device image passes (R50). -/
def imagePasses (s : State) (n : Nat) : Bool :=
  match (s.images.find? fun e => decide (e.1 = n)).map (·.2) with
  | some bytes => Config.imageVerifies bytes && decide (s.fusedMin.toNat ≤ (Config.imageVersion bytes).toNat)
  | none =>
    let made := NatMap.get s.boot.made n (true, 0)
    made.1 && decide (s.fusedMin.toNat ≤ made.2.toNat)

/-- An image as it was loaded. -/
def loadedImage (s : State) (n : Nat) : Nat × Option (List Byte) :=
  (n, (s.images.find? fun e => decide (e.1 = n)).map (·.2))

/-- The next attempt at training MHL; one that fails is tried again a second later (R48). -/
def trainMhl (s : State) : State :=
  match s.boot.mhlFails with
  | 0 => { s with mhl := true }
  | n + 1 => { s with boot := { s.boot with mhlFails := n }, mhlTried := s.now }

/-- A second in cycles of 800 MHz (R2, R48). -/
def oneSecond : Nat := 800000000

/-- The cycle of the next attempt at training MHL, once bring-up has ended without it (R48). -/
def mhlRetryDue (s : State) : Option Nat :=
  if !s.mhl && decide (3 ≤ s.status.toNat) then some (s.mhlTried + oneSecond) else none

/-- A failed step (R48), MHL trained so that the host may learn of it (log entry 9). -/
def bootFails (s : State) (err : BitVec 4) (status : BitVec 3) : State :=
  let s1 := if s.mhl then s else trainMhl s
  { s1 with booterr := err, status := status }

/-- The links that train are up (R48, R29); R31 assigns a spare in the place of a working fabric link that does not. -/
def trainLinks (s : State) : State :=
  let s1 := (List.range 30).foldl (fun s n =>
    if s.boot.down.contains n then s else s.setLink n { s.link n with state := 2 }) s
  ((List.range 16).filter fun n => s.boot.down.contains (14 + n)).foldl assignSpare s1

/-- The logical cluster maps (R48 step 3, R172). -/
def setClusterMaps (s : State) : State :=
  (List.range 8).foldl (fun s d =>
    s.modDie (s.modNum * 8 + d) fun x => { x with clmap := (List.range 8).map fun c => s.boot.spares.getD (8 * d + c) 16 }) s

/-- A new lower tree, signed with one leaf of the upper (R51); none when the upper has no leaf left. -/
def newLowerTree (s : State) : Option State :=
  if s.topleft = 0 then none else some { s with topleft := s.topleft - 1, lowerLeft := 1024 }

/-- Steps 4 to 6, and the end of bring-up. -/
def bringUpImages (s : State) (fw : Nat) : State :=
  if (deviceImages s).all (imagePasses s) then
    let s1 := { s with loaded := (fw :: deviceImages s).map (loadedImage s) }
    if s.boot.treeFails then bootFails s1 8 4
    else
      match newLowerTree s1 with
      | none => bootFails s1 8 4
      | some s2 => { s2 with status := 2, ready := true }
  else bootFails s 7 3

/-- Steps 3 to 6, with firmware copy `fw` loaded. -/
def bringUpDies (s : State) (fw : Nat) : State :=
  if s.boot.dieFails then bootFails s 4 4 else bringUpImages (setClusterMaps s) fw

/-- Step 2; the steps after it follow in a turn of their own, so that the host can read STATE 1 meanwhile. -/
def bringUpHardware (s : State) (fw : Nat) : State :=
  if s.boot.hbmFails then bootFails s 3 4
  else
    let s1 := trainLinks s
    if !allReached s.boot.down then bootFails s1 5 4
    else
      let s2 := trainMhl s1
      if !s2.mhl then { s2 with booterr := 6, status := 4 } else { s2 with booting := 2 + fw }

/-- The HDM decoders in the configuration that a firmware copy carries (R469): of the committed image, else of the one the part
was made with. -/
def firmwareDecoders (s : State) (n : Nat) : List Decoder :=
  match (s.images.find? fun e => decide (e.1 = n)).map (·.2) with
  | some bytes => (Config.imageDecoders bytes).map fun d => ⟨d.1, d.2.1, if d.2.2 then 1 else 0⟩
  | none => if n = 0 then s.boot.decoders else s.boot.decodersB

/-- The firmware copy `n` loaded: its version, and the HDM decoders programmed from its configuration (R469). -/
def loadFirmware (s : State) (n : Nat) : State :=
  { s with fwVersion := (firmwareCopy s n).2, decoders := firmwareDecoders s n }

/-- Steps 1 and 2 of bring-up (R48). Where one copy fails its signature and the other passes it with a version below the fused
minimum, rows 1 and 2 of R48's table both hold; DESIGN CHOICE (log entry 9): BOOTERR 1. -/
def bringUp (s : State) : State :=
  if copyPasses s 0 then bringUpHardware (loadFirmware s 0) 0
  else if copyPasses s 1 then bringUpHardware (loadFirmware s 1) 1
  else if (firmwareCopy s 0).1 && (firmwareCopy s 1).1 then bootFails s 2 3
  else bootFails s 1 3

/-- The management core begins to bring the module up (R48): STATE is 1 until it has ended. -/
def startBoot (s : State) : State := { s with status := 1, booting := 1 }

/-- Bring-up goes on (R48). -/
def bootTurn (s : State) : State :=
  match s.booting with
  | 0 => s
  | 1 => bringUp { s with booting := 0 }
  | n + 2 => bringUpDies { s with booting := 0 } n

/-- Power-good (R48). -/
def execPowerGood (s : State) : Host.Outcome State Fault Refusal := .next (startBoot (resetKeep s))

/-- A write to RSTCTL (R35) by the requester that the control window accepts (R34). -/
def execRstctlReset (who : Nat) (value : BitVec 8) (s : State) : Host.Outcome State Fault Refusal :=
  .next (if s.mhl then
    if s.hostId = none ∨ s.hostId = some who then
      if value = 0x5A then startBoot (resetKeep s) else { s with hostId := some who }
    else s
  else s)

/-- The retry, once a second, of a training of MHL that has failed (R48). -/
def execMhlTrainRetry (s : State) : Host.Outcome State Fault Refusal :=
  .next (if (mhlRetryDue s).any fun due => decide (due ≤ s.now) then trainMhl s else s)

/-! ### Fatal errors (R264) -/

/-- The trigger and the stop, once no thread stands between a hint and its instruction (R310). -/
def halting (s : State) (cause : Nat) : State := if s.betweenHints then s.later (.halt cause) else haltAll s cause

/-- An uncorrectable error in state that belongs to no thread (R264). -/
def execFatalError (s : State) : Host.Outcome State Fault Refusal := .next (halting s 3)

/-- A sensor at 115 °C (R16). -/
def execThermalShutdown (s : State) : Host.Outcome State Fault Refusal := .next (halting s 2)

/-! ### Throttling (R15, R16, R117) -/

/-- A die's thermal controller asks for an issue-skip factor. -/
def execThermalThrottle (die : Nat) (skip : BitVec 3) (s : State) : Host.Outcome State Fault Refusal :=
  .next (if die < 8 then s.modDie (s.modNum * 8 + die) fun d => { d with skip := skip } else s)

/-- Core-rail current above 15 kA (R15). The spec names no event for its end: the start that is kept is the oldest one since the
last POWER_LIMIT_EXPIRY, so that a later excess is timed from it (DESIGN CHOICE, log entry 14). -/
def execCurrentExcess (s : State) : Host.Outcome State Fault Refusal :=
  .next (match s.excessSince with
    | none => { s with excessSince := some s.now }
    | some _ => s)

/-- The excess has persisted past 2 ms, which is 1,600,000 cycles (R2): the power controller asks for a larger factor. -/
def execPowerLimitExpiry (s : State) : Host.Outcome State Fault Refusal :=
  .next (match s.excessSince with
    | none => s
    | some since =>
      if since + 1600000 ≤ s.now then
        let c := s.choose (7 - s.powerSkip.toNat)
        { c.2 with
          excessSince := none
          powerSkip := if s.powerSkip = 7 then 7 else s.powerSkip + BitVec.ofNat 3 (1 + c.1) }
      else s)

end Sys2Proof.Machine
end

