-- ==== Sys2Proof/Machine/Control.lean ====
section
/-!
DEFINITION. Branches and jumps (R330 to R333), hints (R309, R334) and unassigned words (R316).
-/
namespace Sys2Proof.Machine

/-- R333: a taken transfer to `target`, after `link` where the target is good. -/
def transfer (s : State) (t : Thread) (target : Word) (register : Bool)
    (link : State → Thread → Except Stop (State × Thread)) : Except Stop Eff :=
  if register && decide (target.extractLsb' 0 2 ≠ 0) then .error (.trap 2 target)
  else if 0x8_0000 ≤ target.toNat then .error (.trap 3 target)
  else
    match link s t with
    -- the transfer follows once its link has joined the queue downstream (R319)
    | .error (.park (.pout c q v n _)) => .ok (.parked s t (.pout c q v n (target.extractLsb' 0 19)))
    | .error e => .error e
    | .ok st => .ok (.goto st.1 st.2 (target.extractLsb' 0 19))

/-- No link. -/
def noLink (s : State) (t : Thread) : Except Stop (State × Thread) := .ok (s, t)

/-- A link register (R331, R332). -/
def linkTo (d : BitVec 5) (s : State) (t : Thread) : Except Stop (State × Thread) :=
  writeG s s.cur.1 t d (t.pc.zeroExtend 64 + 4)

/-- A compare-and-branch (R330). -/
def branchShape (i : Instr) (a b : BitVec 5) (o : BitVec 16) (taken : Word → Word → Bool) :
    State → Host.Outcome State Fault Refusal :=
  run i fun s t => withSources s t [a, b] [] fun s t =>
    if taken (t.gVal a) (t.gVal b) then transfer s t (targetB t.pc o) false noLink else .ok (.next s t)

def execBeq (a b : BitVec 5) (o : BitVec 16) : State → Host.Outcome State Fault Refusal :=
  branchShape (.beq a b o) a b o fun x y => decide (x = y)
def execBne (a b : BitVec 5) (o : BitVec 16) : State → Host.Outcome State Fault Refusal :=
  branchShape (.bne a b o) a b o fun x y => decide (x ≠ y)
def execBlt (a b : BitVec 5) (o : BitVec 16) : State → Host.Outcome State Fault Refusal :=
  branchShape (.blt a b o) a b o fun x y => decide (x.toInt < y.toInt)
def execBge (a b : BitVec 5) (o : BitVec 16) : State → Host.Outcome State Fault Refusal :=
  branchShape (.bge a b o) a b o fun x y => decide (y.toInt ≤ x.toInt)
def execBltu (a b : BitVec 5) (o : BitVec 16) : State → Host.Outcome State Fault Refusal :=
  branchShape (.bltu a b o) a b o fun x y => decide (x.toNat < y.toNat)
def execBgeu (a b : BitVec 5) (o : BitVec 16) : State → Host.Outcome State Fault Refusal :=
  branchShape (.bgeu a b o) a b o fun x y => decide (y.toNat ≤ x.toNat)

def execJ (o : BitVec 26) : State → Host.Outcome State Fault Refusal :=
  run (.j o) fun s t => transfer s t (targetJ t.pc o) false noLink
def execJal (o : BitVec 26) : State → Host.Outcome State Fault Refusal :=
  run (.jal o) fun s t => transfer s t (targetJ t.pc o) false (linkTo 31)
def execJr (a : BitVec 5) : State → Host.Outcome State Fault Refusal :=
  run (.jr a) fun s t => withSources s t [a] [] fun s t => transfer s t (t.gVal a) true noLink
def execJalr (d a : BitVec 5) : State → Host.Outcome State Fault Refusal :=
  run (.jalr d a) fun s t => withSources s t [a] [] fun s t => transfer s t (t.gVal a) true (linkTo d)

/-! ### Hints and words without a meaning -/

/-- A hint (R309, R334): it joins the pending ones; a third one in a row traps. -/
def hintShape (i : Instr) (h : Hint) (s : State) : Host.Outcome State Fault Refusal :=
  match s.thread? with
  | none => .fault .noThread
  | some t =>
    .next (finish i s t
      (if 2 ≤ t.hints.length then .error (illegal i)
       else if t.atLastWord then .error fallsOff
       else .ok (.stay s { t with hints := t.hints ++ [h], pc := t.pc + 4 })))

def execHimm (d : BitVec 24) : State → Host.Outcome State Fault Refusal := hintShape (.himm d) ⟨0, d⟩
def execHmod (d : BitVec 24) : State → Host.Outcome State Fault Refusal := hintShape (.hmod d) ⟨1, d⟩
def execHmod2 (d : BitVec 24) : State → Host.Outcome State Fault Refusal := hintShape (.hmod2 d) ⟨2, d⟩

/-- A word that is assigned as no instruction (R316). -/
def execIllegalInstructionWord (w : BitVec 32) (s : State) : Host.Outcome State Fault Refusal :=
  match s.thread? with
  | none => .fault .noThread
  | some t => .next (finish (.illegalInstructionWord w) s t (.error (.trap 1 (w.zeroExtend 64))))

end Sys2Proof.Machine
end

