-- ==== Sys2Proof/Machine/Pump.lean ====
section
/-!
DEFINITION. The pumps (R68 to R73, R469): the completions and arrivals of inbound moves, the landing of a page, and outbound
moves.
-/
namespace Sys2Proof.Machine

/-! ### Moves in flight (R70, R72) -/

/-- A completion joins the move of its page (R419). -/
def joinFill (s : State) (i : Nat) (asid : BitVec 8) (page : Nat) (fill : Nat × Option (BitVec 5) × Nat × Nat) : State :=
  let join (m : Move) : Move := if m.isFor asid page then { m with fills := m.fills ++ [fill] } else m
  s.modIo i fun x => { x with moves := x.moves.map join }

/-- Moves that wait for a frame take one each while there are any (R73). -/
def feedMoves (i : Nat) : Nat → State → State
  | 0, s => s
  | fuel + 1, s =>
    match (s.io i).moves.findIdx? fun m => m.frame.isNone with
    | none => s
    | some n =>
      let f := takeFrame s i
      match f.1 with
      | none => f.2
      | some frame =>
        let give (k : Nat) (m : Move) : Move := if k = n then { m with frame := some frame } else m
        feedMoves i fuel (f.2.modIo i fun x => { x with moves := x.moves.mapIdx give })

/-! ### Landing (R68, R70, R71) -/

/-- A sector's bytes as its CRC counts them: poisoned units as zeros (R68). -/
def sectorBytes (s : State) (p : Nat) : List Byte :=
  (List.range 64).flatMap fun u =>
    if s.poisonIn (p + 64 * u) 64 then List.replicate 64 0 else s.bytes (p + 64 * u) 64

def sectorCrc (s : State) (p : Nat) : BitVec 32 := crc32c (sectorBytes s p)

/-- A metadata record (R68) that passes its checks (R71), of a slot that a decoder covers (R469). A poisoned record, which R71's
list does not name, counts as a metadata fault (DESIGN CHOICE, log entry 32). -/
def metaOk (s : State) (slot : Nat) (meta' : List Byte) : Bool :=
  let attr := ofBytes ((meta'.drop 4).take 2)
  (ioOf s slot).isSome && !s.poisonIn (Place.cxl s.modNum (slot + 0x2_0000)) 256 &&
    decide (ofBytes ((meta'.drop 6).take 2) = 0) && decide (ofBytes (meta'.drop 144) = 0) &&
    decide (attr < 512) && attrValid (BitVec.ofNat 9 attr)

/-- Poison over a stretch of whole units. -/
def poisonRange (s : State) (p n : Nat) : State :=
  (List.range (n / 64)).foldl (fun s u => s.setPoison (p + 64 * u)) s

/-- One sector landed at its frame: copied, zero where elided, poisoned where its CRC failed twice. -/
def landSector (slot frame map : Nat) (meta' : List Byte) (crcBad : BitVec 32) (s : State) (i : Nat) : State :=
  let src := Place.cxl s.modNum (slot + 4096 * i)
  let dst := Place.hbm s.modNum (frame + 4096 * i)
  if map / 2 ^ i % 2 = 0 then padBytes s dst 4096
  else
    let good := decide (sectorCrc s src = BitVec.ofNat 32 (ofBytes ((meta'.drop (16 + 4 * i)).take 4))) && !crcBad.getLsbD i
    moveWith (fun _ => !good) s src dst 4096

/-- The page's bytes at its frame, and the attribute to install (R70 steps 2 and 3, R71). -/
def landPage (s0 : State) (slot frame : Nat) (crcBad : BitVec 32) : State × BitVec 9 :=
  let s := countTransfers s0 (Place.hbm s0.modNum frame) 0x2_0000
  let meta' := s.bytes (Place.cxl s.modNum (slot + 0x2_0000)) 256
  if metaOk s slot meta' then
    ((List.range 32).foldl (landSector slot frame (ofBytes (meta'.take 4)) meta' crcBad) s,
      BitVec.ofNat 9 (ofBytes ((meta'.drop 4).take 2)))
  else
    let dst := Place.hbm s.modNum frame
    (poisonRange ((s.openUp dst 0x2_0000).fillWords dst 0x2_0000) dst 0x2_0000, 0)

/-- The resident entry that replaces a non-resident one (R70 step 4): its permissions, on this module's HBM. -/
def installed (s : State) (old : BitVec 64) (frame : Nat) (attr : BitVec 9) : BitVec 64 :=
  (old &&& 0xEE00_0000_0000_0000#64) ||| 0x1000_0000_0000_0000#64 ||| BitVec.ofNat 64 (s.modNum * 2 ^ 54) |||
    BitVec.ofNat 64 (frame % 2 ^ 50) ||| (attr.zeroExtend 64 <<< 8)

/-- The base address of a page, as a completion names it (R418, R419). -/
def pageBase (page : Nat) : Word := (BitVec.ofNat 52 (page * 0x2_0000)).signExtend 64

/-- Steps 4 to 6 of R70. -/
def installPage (s : State) (i : Nat) (m : Move) (frame : Nat) (attr : BitVec 9) : State :=
  let same := decide ((s.word m.entry : BitVec 64) = m.old)
  let s1 := if same then s.blockWrite m.entry (toBytes 8 (installed s m.old frame attr).toNat)
    else s.modIo i fun x => { x with spareFrames := x.spareFrames ++ [frame] }
  let s2 := s1.wakeRetry fun _ _ w => match w with
    | .page asid page => m.isFor asid page
    | _ => false
  let s3 := m.fills.foldl (fun s f => completeCommand s f.2.2.1 f.1 f.2.1 (pageBase m.page) 2 0 0x2_0000) s2
  let s4 := m.arrivals.foldl devicePush s3
  -- entries of the arrival queue are freed where it held any (R135)
  (s4.modIo i fun x => { x with arrivalsUsed := x.arrivalsUsed - m.arrivals.length }).wakeRetry fun _ _ w =>
    decide (w = .arrivalQueue i ∧ m.arrivals ≠ [])

/-- A move is held: a copy that a thread issued before its PUMP of the page overlaps it (R243). -/
def moveHeld (s : State) (m : Move) : Bool :=
  s.copies.any fun c => (m.fills.any fun f => decide (f.1 = c.owner) && decide (c.issue < f.2.2.2)) && copyMeets s c m

/-- Move `n` of a pump lands, once it has a frame and nothing holds it. -/
def landMove (s : State) (i n : Nat) (crcBad : BitVec 32) : State :=
  match (s.io i).moves[n]? with
  | none => s
  | some m =>
    match m.frame with
    | none => s
    | some frame =>
      if moveHeld s m then s
      else
      let s1 := s.modIo i fun x => { x with moves := x.moves.eraseIdx n }
      let l := landPage s1 m.slot frame crcBad
      installPage l.1 i m frame l.2

/-! ### Outbound moves (R69) -/

/-- A sector that is stored: a nonzero byte or a poisoned unit (R68). -/
def sectorStored (s : State) (p : Nat) : Bool := (s.bytes p 4096).any (fun b => decide (b ≠ 0)) || s.poisonIn p 4096

/-- The frame's stored sectors, poison with them (R60), and metadata written to the slot, the format attribute as the request takes it from the page
table entry; the frame returned, with a message to the core that the request names. The CRC of an elided sector is written as
zero, and its bytes in the slot stay as they are (DESIGN CHOICE, log entry 32). -/
def moveOut (s0 : State) (io frame slot : Nat) (attr : BitVec 9) (core : Nat) : State :=
  s0.readingBad (Place.hbm s0.modNum frame) 0x2_0000 fun s =>
  let src (i : Nat) : Nat := Place.hbm s.modNum (frame + 4096 * i)
  let stored := (List.range 32).filter fun i => sectorStored s (src i)
  let metaPlace := Place.cxl s.modNum (slot + 0x2_0000)
  let gen := ofBytes (s.bytes (metaPlace + 8) 8) + 1
  let crcs := (List.range 32).flatMap fun i =>
    toBytes 4 (if stored.contains i then (sectorCrc s (src i)).toNat else 0)
  let record := toBytes 4 (stored.foldl (fun m i => m + 2 ^ i) 0) ++ toBytes 2 attr.toNat ++ [0, 0] ++
    toBytes 8 gen ++ crcs ++ List.replicate 112 0
  let s1 := if (ioOf s slot).isNone then s
    else
      (stored.foldl (fun s i => moveBytes s (src i) (Place.cxl s.modNum (slot + 4096 * i)) 4096) s).write metaPlace record
  let s2 := countTransfers s1 (Place.hbm s.modNum frame) 0x2_0000
  mailComplete (s2.modIo io fun x => { x with returned := x.returned ++ [frame] }) core 0
    (completionMail (BitVec.ofNat 64 frame) 2 0 0x2_0000)

end Sys2Proof.Machine
end

