-- ==== Sys2Proof/Machine/Worklist.lean ====
section
/-!
DEFINITION. Worklist instructions (R422 to R426): target words, screening (R75), pushes by threads and pops.
-/
namespace Sys2Proof.Machine

/-- The module and worklist of a target word (R422). -/
def wlTarget (s : State) (w : Word) : Option (Nat × Nat) :=
  let mod := bitsOf w.toNat 8 6
  let wl := bitsOf w.toNat 5 0
  if bitsOf w.toNat 63 10 ≠ 0 then none
  else if w.getLsbD 9 then (if mod = 0 then some (s.modNum, wl) else none)
  else if s.inPod mod then some (mod, wl)
  else none

/-- A worklist of the issuing module (R422). -/
def ownTarget (s : State) (w : Word) : Option Nat :=
  match wlTarget s w with
  | some (m, wl) => if m = s.modNum then some wl else none
  | none => none

/-- The item that WPUSH and LAUNCH build (R424). -/
def pushItem (gk : Word) (payload : VWord) : Item :=
  ⟨gk.extractLsb' 0 32, gk.extractLsb' 32 32, payload.extractLsb' 0 192⟩

/-- R75 at the own module: the failing operand, if the push is refused: the key and meta word for the item's class and
job, the target word for a disabled worklist. -/
def screen (s : State) (wl : Nat) (w gk : Word) (item : Item) : Option Word :=
  if 4 ≤ item.cls ∨ ¬jobLive s item.job then some gk
  else if ¬(s.wl wl).en then some w
  else none

/-- A counted push, made at once or parked (R80, R88, R91); what precedes it is performed first (R93). To another node it travels in
a packet (R24). -/
def pushNow (s : State) (t : Thread) (m : Nat) (p : Push) : Except Stop Eff :=
  released s t <|
  let s1 := s.drainOf t.uid
  let r := if pushNode s1 s.cur.1 m p = coreNode s.cur.1 then placePush s1 s.cur.1 m p else (none, s1)
  match r.1 with
  | some s1 => .ok (.next s1 t)
  | none => .ok (.parked r.2 { t with counted := none } (.push m p s.now s.pushSeq))

/-- A push deferred in a region (R97), or made. -/
def pushOrDefer (s : State) (t : Thread) (m : Nat) (p : Push) : Except Stop Eff :=
  if t.inRegion then
    match logOp s s.cur.1 t (.publish (.push m p)) with
    | .error e => .error e
    | .ok st => .ok (.next st.1 st.2)
  else pushNow s t m p

/-- The count of a push's job raised at issue (R119), unless an earlier issue that was withdrawn has raised it (R96). -/
def countPush (s : State) (t : Thread) (j : Nat) : Option State :=
  if t.counted = some j then some s else countUp s j

/-- push of R424. -/
def pushShape (i : Instr) (d a b : BitVec 5) (isLaunch : Bool) : State → Host.Outcome State Fault Refusal :=
  run i fun s t => withSources s t [a, b] [d.toNat] fun s t =>
    let w := t.gVal a
    let gk := t.gVal b
    let item := pushItem gk (t.vVal d.toNat)
    match wlTarget s w with
    | none => .error (.trap 3 w)
    | some (m, wl) =>
      if isLaunch ∧ item.cls ≠ 1 then .error (.trap 3 gk)
      else if m ≠ s.modNum then
        (if 4 ≤ item.cls then .error (.trap 3 gk)
         else pushOrDefer s t m ⟨wl, item, .thread s.cur.1, false, false⟩)
      else
        match screen s wl w gk item with
        | some v => .error (.trap 3 v)
        | none =>
          match countPush s t item.job with
          | none => .error (.trap 3 gk)
          | some s1 => pushOrDefer s1 t m ⟨wl, item, .thread s.cur.1, true, false⟩

def execWpush (d a b : BitVec 5) : State → Host.Outcome State Fault Refusal :=
  pushShape (.wpush d a b) d a b false
def execLaunch (d a b : BitVec 5) : State → Host.Outcome State Fault Refusal :=
  pushShape (.launch d a b) d a b true

/-- A pop (R425): an item, or what `empty` does while the worklist is empty. -/
def popShape (i : Instr) (d a : BitVec 5) (empty : State → Thread → Nat → Except Stop Eff) :
    State → Host.Outcome State Fault Refusal :=
  run i fun s t => withSources s t [a] [] fun s t =>
    let core := s.cur.1
    let w := t.gVal a
    match ownTarget s w with
    | none => .error (.trap 3 w)
    | some wl =>
      check (s.wl wl).en (.trap 3 w) <|
      match reserve s core t with
      | .error e => .error e
      | .ok _ =>
        let p := popAt s wl (panOf core)
        match p.1 with
        | none => empty s t wl
        | some (x, wab) =>
          check (!t.atLastWord) fallsOff (.ok (.gone (givePop p.2 (core * 16 + s.cur.2) t wl d x wab)))

def execWpop (d a : BitVec 5) : State → Host.Outcome State Fault Refusal :=
  popShape (.wpop d a) d a fun s t wl => .ok (.parked s t (.pop wl d s.pushSeq))
def execWtry (d a : BitVec 5) : State → Host.Outcome State Fault Refusal :=
  popShape (.wtry d a) d a fun s t _ => .ok (.next s { t.setV d.toNat (BitVec.allOnes 512) with wab := 0 })

def execWstat (d a : BitVec 5) : State → Host.Outcome State Fault Refusal :=
  run (.wstat d a) fun s t => withSources s t [a] [] fun s t =>
    match ownTarget s (t.gVal a) with
    | none => .error (.trap 3 (t.gVal a))
    | some wl => retG s t d (wlstat s wl)

end Sys2Proof.Machine
end

