-- ==== Sys2Proof/Machine/Copy.lean ====
section
/-!
DEFINITION. Copies by the streamers (R414 to R418) and PUMP (R419).
-/
namespace Sys2Proof.Machine

/-- A g register set empty (R139): g0 never, nor PIN and POUT in force (R441). -/
def Thread.emptyG (t : Thread) (d : BitVec 5) : Thread :=
  if d = 0 ∨ (t.port.en ∧ (d = 28 ∨ d = 29)) then t
  else { t with gFull := t.gFull &&& ~~~(1#32 <<< d.toNat) }

/-! ### Shape records (R415) -/

/-- A shape record as read. -/
structure Shape where
  src : Word
  dst : Word
  size : Nat
  ndim : Nat
  box : List Nat
  sstr : List Int
  dstr : List Int
  rows : Word
  formed : Bool
  deriving DecidableEq, Repr

/-- Element size of a record's format (R415). -/
def shapeSize (fmt : Nat) : Nat := fmtWidth fmt / 8

/-- A field of a record. -/
def field (bytes : List Byte) (off len : Nat) : Nat := ofBytes ((bytes.drop off).take len)

def signedField (bytes : List Byte) (off : Nat) : Int := (BitVec.ofNat 64 (field bytes off 8)).toInt

/-- The record's fields, and whether those fixed by NDIM and the reserved ones are in order. -/
def shapeOf (bytes : List Byte) (ragged : Bool) : Shape :=
  let fmt := field bytes 16 1
  let ndim := field bytes 17 1
  let box := (List.range 4).map fun i => field bytes (24 + 4 * i) 4
  let sstr := (List.range 3).map fun i => signedField bytes (40 + 8 * i)
  let dstr := (List.range 3).map fun i => signedField bytes (64 + 8 * i)
  let size := shapeSize fmt
  let mult (x : Int) : Bool := decide (x % (size : Int) = 0)
  let unused (l : List Int) : Bool := (List.range 3).all fun i => decide (i + 1 < ndim) || decide (l.getD i 0 = 0)
  { src := BitVec.ofNat 64 (field bytes 0 8), dst := BitVec.ofNat 64 (field bytes 8 8)
    size := size, ndim := ndim, box := box, sstr := sstr, dstr := dstr
    rows := BitVec.ofNat 64 (field bytes 88 8)
    formed := decide (fmt ≤ 13) && decide (1 ≤ ndim) && decide (ndim ≤ 4) && decide (field bytes 18 6 = 0) &&
      decide (field bytes 96 32 = 0) && box.all (fun b => decide (1 ≤ b)) &&
      ((List.range 4).all fun i => decide (i < ndim) || decide (box.getD i 0 = 1)) &&
      unused sstr && unused dstr && (!ragged || sstr.all fun x => decide (x = 0)) &&
      (ragged || decide (field bytes 88 8 = 0)) &&
      decide (field bytes 0 8 % size = 0) && decide (field bytes 8 8 % size = 0) && sstr.all mult && dstr.all mult }

/-- Bytes of the whole copy, padding included. -/
def Shape.total (x : Shape) : Nat := x.box.foldl (· * ·) x.size

/-- Number of rows. -/
def Shape.rowCount (x : Shape) : Nat := x.box.getD 1 1 * x.box.getD 2 1 * x.box.getD 3 1

/-- The indices of row `q` in dimensions 1 to 3. -/
def Shape.index (x : Shape) (q : Nat) : List Nat :=
  let b1 := x.box.getD 1 1
  let b2 := x.box.getD 2 1
  [q % b1, q / b1 % b2, q / (b1 * b2)]

/-- Offset of row `q` by strides. -/
def Shape.offset (x : Shape) (strides : List Int) (q : Nat) : Int :=
  (List.zipWith (fun (i : Nat) (t : Int) => (i : Int) * t) (x.index q) strides).foldl (· + ·) 0

/-- A row of the copy: its source address and offset, its destination address and offset, bytes copied, bytes padded. -/
structure Row where
  sva : Word
  soff : Int
  dva : Word
  doff : Int
  len : Nat
  pad : Nat
  deriving DecidableEq, Repr

/-- Row `q` (R416); a ragged one by its entry of the ROWS array. -/
def Shape.row (x : Shape) (entries : Option (List Word)) (q : Nat) : Row :=
  let soff : Int := match entries with
    | some l => ((l.getD q 0).toNat % 2 ^ 32 : Nat)
    | none => x.offset x.sstr q
  let n := match entries with
    | some l => bitsOf (l.getD q 0).toNat 47 32
    | none => x.box.getD 0 1
  let doff := x.offset x.dstr q
  ⟨x.src + BitVec.ofInt 64 soff, soff, x.dst + BitVec.ofInt 64 doff, doff, n * x.size, (x.box.getD 0 1 - n) * x.size⟩

/-- The bounds of a set of ranges. -/
def bounds : List (Int × Nat) → Option (Int × Int)
  | [] => none
  | (a, n) :: rest =>
    if n = 0 then bounds rest
    else match bounds rest with
      | none => some (a, a + n)
      | some (lo, hi) => some (min lo a, max hi (a + n))

/-- The bounding ranges of source and destination do not meet (R417). -/
def apartRanges (x : Shape) (rows : List Row) : Bool :=
  match bounds (rows.map fun r => ((x.src.toNat : Int) + r.soff, r.len)),
      bounds (rows.map fun r => ((x.dst.toNat : Int) + r.doff, r.len + r.pad)) with
  | some a, some b => decide (a.2 ≤ b.1) || decide (b.2 ≤ a.1)
  | _, _ => true

/-! ### The footprint (R417 step 5) -/

/-- How far an address is from the next place where the checks may answer otherwise: a page's end, or in the fixed region
a line's, in which windows are counted (R150, R187). -/
def toBoundary (va : Word) : Nat :=
  let step := if va.toNat < 0x2000_0000_0000 then 64 else 4096
  step - va.toNat % step

/-- A row cut where source or destination cross such a boundary: source address, destination address, bytes. -/
def cutRow : Nat → Word → Word → Nat → List (Word × Word × Nat)
  | 0, _, _, _ => []
  | fuel + 1, sva, dva, n =>
    if n = 0 then []
    else
      let len := Nat.min n (Nat.min (toBoundary sva) (toBoundary dva))
      (sva, dva, len) :: cutRow fuel (sva + BitVec.ofNat 64 len) (dva + BitVec.ofNat 64 len) (n - len)

/-- Steps 3 to 6 and 8 of R339 for bytes that lie within one line or page. -/
def footPart (s : State) (t : Thread) (write : Bool) (va : Word) (len : Nat) : Except Stop Part :=
  match resolve s s.cur.1 t (!write) write false len 1 [(0, va)] with
  | .error e => .error e
  | .ok (x :: _) =>
    match admitParts s s.cur.1 t (!write) write [x.part] with
    | .error e => .error e
    | .ok _ => .ok x.part
  | .ok [] => .error (.trap 3 va)

/-- What stops the footprint at its lowest failing address, if anything does. -/
def lowestStop (l : List (Word × Except Stop Part)) : Option Stop :=
  (l.foldl (fun best x => match x.2, best with
    | .ok _, b => b
    | .error e, none => some (x.1, e)
    | .error e, some (a, f) => if x.1.toNat < a.toNat then some (x.1, e) else some (a, f))
    (none : Option (Word × Stop))).map (·.2)

/-- The places of a footprint whose every part has passed. -/
def placesOf (l : List (Word × Except Stop Part)) : List Part :=
  l.filterMap fun x => match x.2 with
    | .ok p => some p
    | .error _ => none

/-! ### CPY and CPYR -/

/-- The ROWS array of a CPYR in own local memory (R415), as it stands: its entries. -/
def rowsArray (s : State) (t : Thread) (x : Shape) : Option (List Word) :=
  match targetOf s.cur.1 s.pod x.rows with
  | some (.localMem c off true) =>
    if off % 8 = 0 ∧ off + 8 * x.rowCount ≤ 0x8_0000 then
      some ((List.range x.rowCount).map fun q => wordOf (ownView s t (Place.lm c off + 8 * q) 8))
    else none
  | _ => none

/-- Whether the ROWS array that a CPYR reads is poisoned (R341). -/
def rowsPoison (s : State) (x : Shape) : Bool :=
  decide (x.formed ∧ x.total ≤ 0x100_0000) &&
    match targetOf s.cur.1 s.pod x.rows with
    | some (.localMem c off true) =>
      decide (off % 8 = 0 ∧ off + 8 * x.rowCount ≤ 0x8_0000) && s.poisonIn (Place.lm c off) (8 * x.rowCount)
    | _ => false

/-- A ROWS entry that R415 allows. -/
def rowFormed (x : Shape) (w : Word) : Bool :=
  decide (bitsOf w.toNat 63 48 = 0) && decide (bitsOf w.toNat 47 32 ≤ x.box.getD 0 1)

/-- Step 3 of R417: the rows by the entries of the ROWS array, or none for a shape fault. -/
def shapeRows (x : Shape) (ragged : Bool) (entries : Option (List Word)) : Option (List Row) :=
  if x.formed ∧ x.total ≤ 0x100_0000 then
    if ragged ∧ ¬entries.any (fun l => l.all (rowFormed x)) then none
    else
      let rows := (List.range x.rowCount).map (x.row entries)
      if apartRanges x rows then some rows else none
  else none

/-- The checked footprint of a row (R417 step 5): what it reads, what it writes, what it pads, each with its address. -/
structure RowFoot where
  src : List (Word × Except Stop Part)
  dst : List (Word × Except Stop Part)
  pad : List (Word × Except Stop Part)

def rowFoot (s : State) (t : Thread) (r : Row) : RowFoot :=
  let cuts := cutRow (r.len + 1) r.sva r.dva r.len
  let pads := cutRow (r.pad + 1) (r.dva + BitVec.ofNat 64 r.len) (r.dva + BitVec.ofNat 64 r.len) r.pad
  { src := cuts.map fun c => (c.1, footPart s t false c.1 c.2.2)
    dst := cuts.map fun c => (c.2.1, footPart s t true c.2.1 c.2.2)
    pad := pads.map fun c => (c.2.1, footPart s t true c.2.1 c.2.2) }

def RowFoot.all (r : RowFoot) : List (Word × Except Stop Part) := r.src ++ r.dst ++ r.pad

/-- What a row writes, once every part has passed. -/
def RowFoot.written (r : RowFoot) : List Part := placesOf r.dst ++ placesOf r.pad

/-- The row of the command. -/
def RowFoot.row (r : RowFoot) : CopyRow :=
  ⟨List.zipWith (fun (p q : Part) => (p.loc, q.loc, p.len)) (placesOf r.src) (placesOf r.dst),
    (placesOf r.pad).map fun p => (p.loc, p.len)⟩

/-- Steps 4 to 6 of R417, then the command sent (R416, R242). -/
def sendCopy (s : State) (t : Thread) (d : BitVec 5) (mb : Bool) (sc : BitVec 4) (code recOff : Nat) (tag : Word)
    (x : Shape) (rows : List Row) : Except Stop Eff :=
  match rows.find? fun r => decide (r.sva.toNat % x.size ≠ 0) with
  | some r => .error (.trap 3 r.sva)
  | none =>
    let feet := rows.map (rowFoot s t)
    match lowestStop (feet.flatMap RowFoot.all) with
    | some e => .error e
    | none =>
      released s t <|
      match (if t.inRegion then logStore s s.cur.1 t (feet.flatMap RowFoot.written) else .ok (s, t)) with
      | .error e => .error e
      | .ok (s1, t1) =>
        let c : Copy :=
          { owner := t.uid, core := s.cur.1, d := if mb then none else some d, tag := tag, code := code
            recOff := recOff, scope := sc, rows := feet.map RowFoot.row, bytes := x.total, asid := t.asid
            vas := (feet.flatMap RowFoot.all).map (·.1), issue := t1.issued, since := s.now, bad := [], fill := t1.fill, hnd := t1.hnd }
        let s2 := s1.drainOf t.uid
        .ok (.next { s2 with copies := s2.copies ++ [c] } (if mb then t1 else t1.emptyG d))

/-- The record, the ROWS array's entries and the tag that a CPY or CPYR has read at its issue (R415), while it waits in step 5
of R417. -/
def Thread.copyIssue (t : Thread) : Option (List Byte × Option (List Word) × Word) :=
  match t.atIssue with
  | some (.record bytes rows tag) => some (bytes, rows, tag)
  | _ => none

/-- R417 from a record of offset `off` on, whose reads have met no error. -/
def copyFrom (s : State) (t : Thread) (d : BitVec 5) (sc : BitVec 4) (c : BitVec 2) (ragged : Bool) (off : Nat)
    (bytes : List Byte) (entries : Option (List Word)) (tag : Word) : Except Stop Eff :=
  let x := shapeOf bytes ragged
  match shapeRows x ragged entries with
  | none => .error (.trap 13 (BitVec.ofNat 64 off))
  | some rows =>
    keepIssue s t (.record bytes entries tag)
      (sendCopy s t d (decide (c = 1)) sc (if ragged then 1 else 0) off tag x rows)

/-- CPY and CPYR in the order of R417. -/
def copyShape (i : Instr) (d a b : BitVec 5) (sc : BitVec 4) (c : BitVec 2) (ragged : Bool) :
    State → Host.Outcome State Fault Refusal :=
  run i fun s t => withSources s t [a, b] [] fun s t =>
    let va := t.gVal a
    if t.port.en ∧ (d = 28 ∨ d = 29) then .error (.trap 3 va)
    else
      match targetOf s.cur.1 s.pod va with
      | some (.localMem core off true) =>
        let loc := Place.lm core off
        if off % 64 ≠ 0 ∨ 0x8_0000 < off + 128 then .error (.trap 13 (BitVec.ofNat 64 off))
        else
          match t.copyIssue with
          | some (bytes, entries, tag) => copyFrom s t d sc c ragged off bytes entries tag
          | none =>
            if s.poisonIn loc 128 then .error (.error va)
            else
              let bytes := ownView s t loc 128
              let x := shapeOf bytes ragged
              if ragged && rowsPoison s x then .error (.error x.rows)
              else copyFrom s t d sc c ragged off bytes (if ragged then rowsArray s t x else none) (t.gVal b)
      | _ => .error (.trap 13 va)

def execCpy (d a b : BitVec 5) (sc : BitVec 4) (c : BitVec 2) : State → Host.Outcome State Fault Refusal :=
  copyShape (.cpy d a b sc c) d a b sc c false
def execCpyr (d a b : BitVec 5) (sc : BitVec 4) (c : BitVec 2) : State → Host.Outcome State Fault Refusal :=
  copyShape (.cpyr d a b sc c) d a b sc c true

/-! ### PUMP (R419) -/

/-- The leaf that ends a walk, as it reads, with its level and place (R160, R163); an error with the cause of its
fault, none where the walk meets poison. -/
def leafFrom (s : State) (va : Nat) : Nat → Nat → Nat → Option (Except Nat (BitVec 64 × Nat × Nat))
  | 0, _, _ => some (.error 5)
  | fuel + 1, level, table =>
    let p := Place.hbm s.modNum (table + 8 * walkIndex va level)
    if s.poisonRead p 8 then none
    else
      let e : BitVec 64 := s.word p
      if !Pte.valid e then some (.error 4)
      else if Pte.leaf e then some (.ok (e, level, p))
      else if !Pte.pointerFormed e level then some (.error 5)
      else leafFrom s va fuel (level + 1) (Pte.pointer e)

/-- Step 3 of R419: the streamable leaf of a page, or how the PUMP stops. -/
def pumpLeaf (s : State) (t : Thread) (va : Word) : Except Stop (BitVec 64 × Nat) :=
  let root := NatMap.get s.asroot t.asid.toNat (false, 0)
  if ¬root.1 then .error (.trap 4 va)
  else
    match leafFrom s (va.toNat % 2 ^ 52) 5 0 (root.2.toNat * 0x2000) with
    | none => .error (.error va)
    | some (.error c) => .error (.trap c va)
    | some (.ok (e, level, p)) =>
      if ¬Need.granted ⟨true, false, t.sv⟩ e then .error (.trap 3 va)
      else if ¬Pte.leafFormed e level s.modNum then .error (.trap 5 va)
      else if ¬Pte.strm e then .error (.trap 3 va)
      else .ok (e, p)

/-- Step 4 of R419: the arrival item's screening (R75), with the failing operand. -/
def screenArrival (s : State) (t : Thread) (v : VWord) : Option Word :=
  let item := itemOf (v.extractLsb' 0 256)
  let wl := (v.extractLsb' 256 6).toNat
  let operand : Word := v.extractLsb' 0 64
  if v.extractLsb' 262 250 ≠ 0#250 then some operand
  else if 4 ≤ item.cls ∨ ¬jobLive s item.job ∨ ¬(s.wl wl).en then some operand
  else if t.counted ≠ some item.job ∧ (countUp s item.job).isNone then some operand
  else none

/-- PUMP's end at the thread (steps 6 and 7) once the move is under way on pump `io`, `resident` when there is none. -/
def pumpEnd (s : State) (t : Thread) (d : BitVec 5) (mb resident : Bool) (io page : Nat) : State × Thread :=
  let reg : Option (BitVec 5) := if mb then none else some d
  let t1 := if mb then t else t.emptyG d
  if resident then
    (if mb then (mailComplete s s.cur.1 t.uid (completionMail (pageBase page) 2 0 0), t1)
     else (s, if d = 0 then t1 else t1.fillG d (pageBase page)))
  else (joinFill s io t.asid page (t.uid, reg, s.cur.1, t.issued), t1)

/-- The arrival of step 7: counted, and made or deferred. -/
def pumpArrival (s : State) (t : Thread) (io page : Nat) (v : VWord) : Except Stop (State × Thread) :=
  let item := itemOf (v.extractLsb' 0 256)
  let p : Push := ⟨(v.extractLsb' 256 6).toNat, item, .ioDie io, true, false⟩
  match countPush s t item.job with
  | none => .error (.trap 3 (v.extractLsb' 0 64))
  | some s1 =>
    if t.inRegion then logOp s1 s.cur.1 t (.publish (.arrival io t.asid page p))
    else
      match makeArrival (s1.drainOf t.uid) io t.asid page p with
      | some s2 => .ok (s2, t)
      | none => .error (.park (.retry (.arrivalQueue io)))

/-- Steps 6 and 7, for the pump that the request of step 5 has gone to: a PUMP that waits for an entry of its queue keeps to
it. -/
def pumpLast (s : State) (t : Thread) (d : BitVec 5) (mb arr : Bool) (io page : Nat) (resident : Bool) (v : VWord) :
    Except Stop Eff :=
  keepIssue s t (.pump io page resident) <|
  match (if arr then pumpArrival s t io page v else .ok (s, t)) with
  | .error e => .error e
  | .ok (s2, t2) =>
    let r := pumpEnd s2 t2 d mb resident io page
    .ok (.next r.1 r.2)

/-- Steps 5 to 7. -/
def pumpFrom (s : State) (t : Thread) (d : BitVec 5) (mb arr : Bool) (va : Word) (v : VWord) (e : BitVec 64)
    (entry : Nat) : Except Stop Eff :=
  let page := va.toNat % 2 ^ 52 / 0x2_0000
  let resident := Pte.res e
  let s1 := if resident then s else startMove s t.asid page entry e
  let io := if resident then nearIo s.cur.1 else (movingIo s1 t.asid page).getD 0
  pumpLast s1 t d mb arr io page resident v

def execPump (d a b : BitVec 5) (sc : BitVec 4) (x : BitVec 1) (c : BitVec 2) :
    State → Host.Outcome State Fault Refusal :=
  run (.pump d a b sc x c) fun s t => withSources s t [a] (if x = 1 then [b.toNat] else []) fun s t =>
    let va := t.gVal a
    let v := t.vVal b.toNat
    match t.atIssue with
    | some (.pump io page resident) =>
      -- its move may have ended while it waited: there is none left to join
      pumpLast s t d (decide (c = 1)) (decide (x = 1)) io page (resident || (movingIo s t.asid page).isNone) v
    | _ =>
      if targetOf s.cur.1 s.pod va ≠ some .paged then .error (.trap 3 va)
      else
        released s t <|
        -- what precedes the command has been performed before it reads (R242)
        let s0 := s.drainOf t.uid
        -- the transfers of its walk (R58, R61)
        let s := countWalk s0 t.asid va
        match pumpLeaf s0 t va with
        | .error e => .ok (.stop s t e)
        | .ok (e, entry) =>
          match (if x = 1 then screenArrival s t v else none) with
          | some w => .error (.trap 3 w)
          | none => pumpFrom s t d (decide (c = 1)) (decide (x = 1)) va v e entry

end Sys2Proof.Machine
end

