-- ==== Sys2Proof/Machine/Parked.lean ====
section
/-!
DEFINITION. How parked operations complete (R135): accesses, remote accesses (R151), walks (R168 to R170), pushes (R91),
SENDs (R145) and divisions; shared by the events of Machine/Engines.lean and by TLBINV.
-/
namespace Sys2Proof.Machine

/-- The resident thread of a slot with what it is parked on. -/
def State.parkedAt (s : State) (core slot : Nat) : Option (Thread × Park) :=
  (s.threadIn core slot).bind fun t => t.park.map fun p => (t, p)

/-- The end of a passed access at its thread (R345), with its floating-point flags; AFADDV traps by the enables of its issue
(R355). -/
def deliverFlags (s : State) (k : Nat) (t : Thread) (op : MemOp) (f : Fill) (flags : FlagSet) : State :=
  if flags &&& op.enablesAt t = 0 then
    match f with
    | .g d w => deliverFlagged s k t d w flags
    | _ => deliver s k (t.flagged flags) f
  else stopIn s k t (.trap 15 (flags.zeroExtend 64))

/-- The address of the part of a request that a transfer has delivered poisoned (R59). -/
def badPart (s : State) (t : Thread) (r : Req) : Option Word :=
  match r.op with
  -- they carry the poison with the bytes (R60)
  | .mldb .. | .tget .. => none
  | _ =>
    if r.op.needs.1 && r.spans.any (fun x => (State.touchedUnits x.1 x.2).any (badFor s t)) then
      ((r.parts.find? fun p => (State.touchedUnits p.loc p.len).any (badFor s t)).orElse fun _ => r.parts.head?).map (·.va)
    else none

/-- A thread's packets are spent: what it sends next travels anew (R21). -/
def State.unload (s : State) (uid : Nat) : State := { s with carried := s.carried.filter fun x => decide (x.uid ≠ uid) }

/-- An access that has left the core is performed (R135) with its transfers (R58), its lines logged in a region (R274). -/
def completeAccess (s0 : State) (k : Nat) (t : Thread) (r : Req) : State :=
  let s := (countRequest s0 r).unload t.uid
  match badPart s t r with
  | some va => consumeError s k t va
  | none =>
  match logReq s (k / 16) t r with
  | .error e => stopIn s k t e
  | .ok (s0, t0) =>
    match perform s0 t0 r with
    | .ok s1 f flags => deliverFlags s1 k (afterReq s1 t0 r) r.op f flags
    | .waits => parkIn (s.drainOf t.uid) k t (r.waiting s.pushSeq)
    | .error va => consumeError s k t va

/-- The request of a thread reaches its home (R238), one that releases earlier stores once they have been performed. -/
def State.arrive (s : State) (t : Thread) (r : Req) : State :=
  if s.arrived.contains (t.uid, t.issued) || (r.releases && !(s.pendingOf t.uid).isEmpty) then s
  else { s with arrived := s.arrived ++ [(t.uid, t.issued)] }

/-- A request that reached its home before that of a thread meets it and is still to be served (R238). -/
def State.behind (s : State) (t : Thread) (r : Req) : Bool :=
  (s.arrived.takeWhile fun x => decide (x ≠ (t.uid, t.issued))).any fun x => (s.sentBy x).any r.meets

/-- The payload that a request carries to a node, in multiples of 64 bytes (R21): its store data. Whether the operand of an atomic or
the line of an AFADDV is payload is not said; DESIGN CHOICE (log entry 15): it travels in the header. -/
def payloadTo (s : State) (r : Req) (dest : Nat) : Nat :=
  let bytes := (r.parts.filter fun p => decide (nodeOf s p.loc = dest)).foldl (fun n p => n + p.data.length) 0
  Nat.min 4096 ((bytes + 63) / 64 * 64)

/-- The packets that a parked thread sends to other nodes, each with its node and its payload (R21): those of its request, of its
message with its 32 bytes (R144), of its push with its item (R88, R94). -/
def Park.trips (s : State) (core : Nat) (p : Park) : List (Nat × Nat) :=
  let away (n : Nat) : List (Nat × Nat) := if core / 1024 ≠ s.modNum ∨ n = coreNode core then [] else [(n, 64)]
  match p with
  | .access r | .remote r => (destsOf s core r).map fun d => (d, payloadTo s r d)
  | .send m _ _ _ => away (nodeOf s (Place.lm (sendModule s m.target * 1024 + sendCore m.target) 0))
  | .push m x _ _ => away (pushNode s core m x)
  | _ => []

/-- The node that holds a request's packet whole (R22, R24). -/
def heldAt (s : State) (core : Nat) (t : Thread) (dest : Nat) : Nat :=
  ((s.carried.find? fun c => decide (c.uid = t.uid ∧ c.issued = t.issued ∧ c.dest = dest)).map (·.node)).getD (coreNode core)

/-- Every packet of a request has been delivered (R24). -/
def deliveredTo (s : State) (core : Nat) (t : Thread) (r : Req) : Bool :=
  (destsOf s core r).all fun d => decide (heldAt s core t d = d)

/-- Every packet of a parked thread has been delivered (R24). -/
def Park.arrived (s : State) (core : Nat) (t : Thread) (p : Park) : Bool :=
  (p.trips s core).all fun x => decide (heldAt s core t x.1 = x.1)

/-- The nodes that its packets are still to reach and that no path leads to (R28). -/
def Park.cutOff (s : State) (core : Nat) (t : Thread) (p : Park) : List Nat :=
  ((p.trips s core).map (·.1)).filter fun d => decide (heldAt s core t d ≠ d) && !pathTo s (heldAt s core t d) d

/-- A request is served by `f` once its packets have been delivered (R24), its thread's earlier stores can be performed where
it releases them (R228), and the requests that reached its home before it for its location have been served (R238). -/
def serveAtHome (s : State) (k : Nat) (t : Thread) (r : Req) (f : State → State) : State :=
  let s1 := s.arrive t r
  if ¬deliveredTo s (k / 16) t r ∨ (r.releases ∧ s.blocked t.uid) then s
  else if s1.behind t r then s1
  else f { s1 with arrived := s1.arrived.filter fun x => decide (x ≠ (t.uid, t.issued)) }

/-- An access comes to be performed. -/
def arrivedAccess (s : State) (k : Nat) (t : Thread) (r : Req) : State := serveAtHome s k t r fun s => completeAccess s k t r

/-- Unit `n` of a load on its way is read (R225), after the thread's earlier stores to it (R227). -/
def readEarly (s : State) (t : Thread) (r : Req) (n : Nat) : State :=
  let units := r.parts.flatMap fun p => (List.range ((p.loc + p.len + 7) / 8 - p.loc / 8)).map (· + p.loc / 8)
  match r.op, units[n]? with
  | .load .., some u | .vload .., some u | .vdecode .., some u | .mld .., some u | .mcbk .., some u | .fetch, some u =>
    let s1 := s.drainTo t.uid [(8 * u, 8)]
    if s1.poisonIn (8 * u) 8 || !reachable s1 (8 * u) then s
    else { s1 with seen := s1.seen ++ [(t.uid, t.issued, 8 * u, s1.bytes (8 * u) 8)] }
  | _, _ => s

/-- A request at the owner of the local memory it names (R151): admitted and performed, or refused. -/
def completeRemote (s : State) (k : Nat) (t : Thread) (r : Req) : State :=
  match admitParts s (k / 16) t r.op.needs.1 r.op.needs.2 r.parts with
  | .error e => stopIn s k t e
  | .ok _ =>
    match launchReq s (k / 16) t r with
    | .error e => stopIn s k t e
    | .ok (.done s1 t1 f flags) => deliverFlags s1 k t1 r.op f flags
    | .ok (.parked s1 t1 (.access q)) => completeAccess s1 k t1 q
    | .ok (.parked s1 t1 p) => parkIn s1 k t1 p

/-- A walk ends (R163, R168 to R170). -/
def completeWalk (s : State) (k : Nat) (t : Thread) (va : Word) (rd wr : Bool) : State :=
  match cachedTrans s (k / 16) t.asid va wr with
  | some _ => s.wake k
  | none =>
    let s1 := countWalk s t.asid va
    match walk s t.asid va ⟨rd, wr, t.sv⟩ with
    | .page tr =>
      let m := markEntry s1 tr wr
      (installTrans m.1 (k / 16) m.2).wake k
    | .wait page entry old => parkIn (startMove s1 t.asid page entry old) k t (.retry (.page t.asid page))
    | .fault c => takeTrap s1 k t c va
    | .poisoned => consumeError s1 k t va

/-- A parked push whose packet has come to its node tries again (R24, R91). -/
def retryPush (s : State) (k : Nat) (t : Thread) (m : Nat) (p : Push) : State :=
  let r := placePush s (k / 16) m p
  match r.1 with
  | some s1 => ((s1.unload t.uid).modSlot k Thread.complete).wake k
  | none => r.2

/-- A parked push that has waited too long (R91): its count is withdrawn, and its thread traps (R250); the REND that
continues after the trap counts a deferred one again. -/
def timeoutPush (s : State) (k : Nat) (t : Thread) (m : Nat) (p : Push) : State :=
  let s1 := if p.counted then countDown s p.item.job 1 else s
  let t1 : Thread := if t.closing then { t with undo := mendOldest (Publication.setCounted false) t.undo } else t
  takeTrap s1 k { t1 with park := some (.retry .settling) } 12 (BitVec.ofNat 64 (p.wl + m * 64))

/-- A message has been delivered: the SEND completes, or the publication of a REND (R277). -/
def sent (s : State) (k : Nat) : State := (s.modSlot k Thread.complete).wake k

/-- A refused attempt: the next, by the back-off of its number, with an entry of the retry buffer, or in wait for one (R145). -/
def refused (s : State) (k : Nat) (t : Thread) (m : Message) (attempt : Nat) : State :=
  s.modSlot k fun x => { x with
    park := some (.send m (attempt + 1) (s.now + 16 * 2 ^ Nat.min (attempt + 1) 10)
      (decide (attempt ≠ 0) || decide (retryEntries (s.putSlot k { t with park := none }) (k / 16) < 8))) }

/-- The next attempt at a SEND (R145), once the message has been delivered to its target's node (R24): accepted,
undeliverable at the 64th, or refused. -/
def attemptSend (s : State) (k : Nat) (t : Thread) (m : Message) (attempt : Nat) : State :=
  let s1 := s.unload t.uid
  match deliverMessage s1 m with
  | some s2 => sent s2 k
  | none => if 63 ≤ attempt then takeTrap s1 k t 7 (undeliverable s m) else refused s1 k t m attempt

end Sys2Proof.Machine
end

