-- ==== Sys2Proof/Machine/Link.lean ====
section
/-!
DEFINITION. Die bridges and fabric links (R18 to R31): links 0 to 13 are the bridges in the order of R12, 14 to 29 the
fabric links (R35). Flits are accepted, packets held, re-formed and delivered, those of other modules among them (R20 to
R24, R30); links are repaired, taken down and replaced (R25 to R27, R31).
-/
namespace Sys2Proof.Machine

/-- Lanes on a rail, flits of the replay buffer (R18, R23). -/
def laneCount (n : Nat) : Nat := if n < 14 then 64 else 8
def replayRoom (n : Nat) : Nat := if n < 14 then 128 else 512

/-- Flits of a packet with that payload (R21). -/
def flitCount (n payload : Nat) : Nat := if n < 14 then 1 + payload / 64 else (64 + payload + 255) / 256

/-- A count that saturates (R29). -/
def bumpWord (w : BitVec 16) : BitVec 16 := if w = 0xFFFF then w else w + 1

/-! ### Packets of this module's requests (R21, R22, R24) -/

/-- The packets of parked threads that travel next over link `n`: thread, core, node and payload. -/
def crossing (s : State) (n : Nat) : List (Thread × Nat × Nat × Nat) :=
  s.residents.flatMap fun e =>
    (((e.2.park.map (Park.trips s (e.1 / 16))).getD []).filter fun x =>
      decide (nextLink s (heldAt s (e.1 / 16) e.2 x.1) x.1 = some n)).map fun x => (e.2, e.1 / 16, x.1, x.2)

/-- The oldest of them. -/
def oldestCrossing (s : State) (n : Nat) : Option (Thread × Nat × Nat × Nat) :=
  (crossing s n).foldl (fun best x => match best with
    | none => some x
    | some b => if x.1.lastIssue.getD 0 < b.1.lastIssue.getD 0 then some x else some b) none

/-- The record of a request's packet to a node. -/
def carriedFor (s : State) (core : Nat) (t : Thread) (dest : Nat) : Carried :=
  (s.carried.find? fun c => decide (c.uid = t.uid ∧ c.issued = t.issued ∧ c.dest = dest)).getD
    ⟨t.uid, t.issued, dest, coreNode core, 0, 0⟩

def setCarried (s : State) (c : Carried) : State :=
  { s with carried := (s.carried.filter fun x => !decide (x.uid = c.uid ∧ x.issued = c.issued ∧ x.dest = c.dest)) ++ [c] }

/-- One more packet has come whole over link `n` (R24). -/
def packetDone (s : State) (n : Nat) : State := s.setLink n { s.link n with delivered := (s.link n).delivered + 1 }

/-- A flit of a request of this module: with its last one the packet moves on to the node behind the link, an I/O die holding
it whole before it re-forms it (R22). -/
def requestFlit (s : State) (n : Nat) : State :=
  match oldestCrossing s n with
  | some (t, core, d, payload) =>
    let c := carriedFor s core t d
    let had := if c.link = n then c.flits else 0
    if flitCount n payload ≤ had + 1 then
      setCarried (packetDone s n) { c with node := across n c.node d, link := 0, flits := 0 }
    else setCarried s { c with link := n, flits := had + 1 }
  | none => s

/-! ### Packets of other modules (R22, R24, R30) -/

/-- What an access of another module does at its home. -/
def cargoReq (op : CargoOp) (loc : Nat) : Req :=
  let part (len : Nat) (data : List Byte) : Part := ⟨0x1000_0000_0000, loc, len, data, 0⟩
  match op with
  | .load len => ⟨.load 0 false, [part len []], none⟩
  | .store bytes => ⟨.store, [part bytes.length bytes], some 7⟩
  | .stf w => ⟨.stf, [part 8 (toBytes 8 w.toNat)], some 7⟩
  | .stp w => ⟨.stp, [part 8 (toBytes 8 w.toNat)], some 7⟩
  | .ldc => ⟨.ldc 0, [part 8 []], some 7⟩
  | .empty => ⟨.empty, [part 8 []], some 7⟩
  | .atomic len code b e => ⟨.atomic code 0 b e, [part len []], some 7⟩
  | .afaddv double v mode enables => ⟨.afaddv double v mode enables, [part 64 []], some 7⟩
  | .bankSet fmt w => ⟨.bankSet fmt w, [part 8 []], none⟩
  | .bankAdd fmt w => ⟨.bankAdd fmt w, [part 8 []], none⟩

/-- The payload of a packet (R21). -/
def cargoPayload : Cargo → Nat
  | .ask _ loc op => ((cargoReq op loc).parts.foldl (fun n p => n + p.data.length) 0 + 63) / 64 * 64
  | .other n => n

/-- A packet that R21 knows: at most 4,096 bytes of payload, in multiples of 64. -/
def isPacket (c : Cargo) : Bool := decide (cargoPayload c ≤ 4096 ∧ cargoPayload c % 64 = 0)

/-- The thread of another module for which an access is made. -/
def askerThread (a : Asker) : Thread := { Thread.start 0 with asid := a.asid, sv := a.sv }

/-- What a thread of another module would have been trapped for by its own checks (R339). -/
def cargoFormed (op : CargoOp) (loc : Nat) : Bool :=
  match op with
  | .load len => decide (len ≠ 0)
  | .store bytes => !bytes.isEmpty
  | .stf _ | .stp _ | .ldc | .empty => Place.hasFullBits loc && decide (loc % 8 = 0)
  | .atomic len .. => (decide (len = 4) || decide (len = 8)) && decide (loc % len = 0)
  | .afaddv .. => decide (loc % 64 = 0)
  | .bankSet .. | .bankAdd .. =>
    decide (Place.tier loc = .tileStore ∧ Place.tileOff loc < 0x4000 ∧ Place.tileOff loc % 8 = 0)

/-- Bank slots are admitted as an access below TPOOL.LOW (R356), all else as R151 and R187 say. -/
def cargoAdmitted (s : State) (a : Asker) (op : CargoOp) (loc : Nat) : Bool :=
  let r := cargoReq op loc
  match op with
  | .bankSet .. | .bankAdd .. => (s.die (Place.die loc)).tpOpen || a.sv
  | _ => match admitParts s a.core (askerThread a) r.op.needs.1 r.op.needs.2 (r.parts.flatMap piecesOf) with
    | .ok _ => true
    | .error _ => false

/-- A thread of another module of the pod may make an access here. -/
def foreignAdmits (s : State) (a : Asker) (loc : Nat) (op : CargoOp) : Bool :=
  decide (a.core / 1024 ≠ s.modNum) && s.inPod (a.core / 1024) && cargoFormed op loc && cargoAdmitted s a op loc

/-- The requests that have reached the home of a location before another are served (R238). -/
def serveArrived (s : State) (r : Req) : State :=
  s.arrived.foldl (fun s x => match s.sentBy x, s.slotOf x.1 with
    | some q, some (k, t) => if q.meets r then match t.park with
        | some (.remote _) => completeRemote (s.unload t.uid) k t q
        | _ => completeAccess s k t q
      else s
    | _, _ => s) s

/-- What an engine, the host or a move is to find at some ranges: the requests that have reached their home before it are served
(R238). -/
def serveFirst (s : State) (ranges : List (Nat × Nat)) : State :=
  serveArrived s ⟨.store, ranges.map fun r => ⟨0, r.1, r.2, [], 0⟩, none⟩

/-- The access of a packet that has come to its home: its store is performed there, with no store buffer of this module. -/
def performCargo (s : State) (t : Thread) (r : Req) : Done :=
  match r.op, r.parts with
  | .store, p :: _ => if reachable s p.loc then .ok (s.store p.loc p.data) .nothing 0 else .error p.va
  | _, _ => perform s t r

/-- A packet of another module has come whole to its node: its access is performed (R24, R30), after those that reached its
home before it (R238), or waits there for the full bit (R235, R236). -/
def performInbound (s0 : State) (x : Inbound) : State :=
  let s := serveArrived s0 (cargoReq x.op x.loc)
  if foreignAdmits s x.who x.loc x.op then
    match performCargo (countRequest s (cargoReq x.op x.loc)) (askerThread x.who) (cargoReq x.op x.loc) with
    | .ok s1 _ _ => s1
    | .waits => { s with inbound := s.inbound ++ [{ x with order := some s.pushSeq }], pushSeq := s.pushSeq + 1 }
    | .error _ => s
  else s

/-- A packet that a node holds whole: at its home it is performed, elsewhere it is re-formed and goes on (R22). -/
def holdInbound (s : State) (x : Inbound) : State :=
  if x.node = x.dest then performInbound s x else { s with inbound := s.inbound ++ [x] }

/-- The packets of other modules on their way over link `n` next, with their numbers; the oldest is first. -/
def passingOver (s : State) (n : Nat) : Option (Nat × Inbound) :=
  ((List.range s.inbound.length).filterMap fun i => (s.inbound[i]?).map fun x => (i, x)).find? fun e =>
    e.2.order.isNone && decide (nextLink s e.2.node e.2.dest = some n)

/-- A flit of a packet of another module that crosses this one. -/
def passingFlit (s : State) (n : Nat) : State :=
  match passingOver s n with
  | some (i, x) =>
    let had := if x.link = n then x.flits else 0
    if flitCount n (cargoPayload (.ask x.who x.loc x.op)) ≤ had + 1 then
      holdInbound { packetDone s n with inbound := s.inbound.eraseIdx i } { x with node := across n x.node x.dest, link := 0, flits := 0 }
    else { s with inbound := s.inbound.set i { x with link := n, flits := had + 1 } }
  | none => s

/-- A packet that link `n` has brought whole: one of another module is held on the I/O die of the fabric link (R22). -/
def bringIn (s : State) (n : Nat) : Cargo → State
  | .ask a loc op => if 14 ≤ n then holdInbound s ⟨a, loc, op, nodeOf s loc, 8 + n % 2, 0, 0, s.now, none⟩ else s
  | .other _ => s

/-- A flit of the packet that link `n` has begun to bring: with the last one that its payload asks for it has come whole (R21,
R24). -/
def otherFlit (s : State) (n : Nat) (c : Cargo) (had : Nat) : State :=
  let l := s.link n
  if flitCount n (cargoPayload c) ≤ had + 1 then
    bringIn (s.setLink n { l with begun := none, partFlits := 0, delivered := l.delivered + 1 }) n c
  else s.setLink n { l with begun := some c, partFlits := had + 1 }

/-- One more flit of a packet has been accepted on link `n` (R24). -/
def acceptFlit (s : State) (n : Nat) : FlitOf → State
  | .request => requestFlit s n
  | .passing => passingFlit s n
  | .first c => if isPacket c && (s.link n).begun.isNone then otherFlit s n c 0 else s
  | .next => match (s.link n).begun with
    | some c => otherFlit s n c (s.link n).partFlits
    | none => s

/-! ### Taking a link down (R26, R27, R31) -/

/-- A link taken down: a packet whose remaining flits will not arrive is discarded whole (R24). -/
def takeDown (l : LinkState) : LinkState :=
  { l with
    state := 0, discarded := if l.begun.isNone then l.discarded else l.discarded + 1, begun := none, partFlits := 0
    replays := [], ahead := [] }

/-- Link `n` goes down: what it was bringing is sent whole by the next way (R27), a spare fabric link takes its place (R31). -/
def linkDown (s : State) (n : Nat) (l : LinkState) : State :=
  let s1 := s.setLink n (takeDown l)
  let s2 := { s1 with
    carried := s1.carried.map fun c => if c.link = n then { c with flits := 0 } else c
    inbound := s1.inbound.map fun x => if x.link = n then { x with flits := 0 } else x
    inService := s1.inService.filter fun x => decide (14 + x ≠ n) }
  if 14 ≤ n then assignSpare s2 (n - 14) else s2

/-! ### Flits (R20, R23, R26) -/

/-- Rail parts that are no good: those that fail their CRC, and those of a bad rail (R20, R25). -/
def failingParts (l : LinkState) (bad : BitVec 5) : Nat :=
  ((List.range 5).filter fun i => (bad ||| l.railBad).getLsbD i).length

/-- The successive replays of a flit. -/
def replayCount (l : LinkState) (seq : BitVec 12) : Nat :=
  ((l.replays.find? fun e => decide (e.1 = seq)).map (·.2)).getD 0

/-- Whether a flit has already been accepted (R23): it lies before the first that has not been, or among those beyond it. -/
def alreadyAccepted (l : LinkState) (seq : BitVec 12) : Bool :=
  decide (0x800 ≤ (seq - l.expect).toNat) || l.ahead.any fun e => decide (e.1 = seq)

/-- The flits that are next in order, one after another, of those accepted. -/
def takeOrdered (n : Nat) : Nat → State → State
  | 0, s => s
  | fuel + 1, s =>
    let l := s.link n
    match l.ahead.find? fun e => decide (e.1 = l.expect) with
    | some (q, packet) =>
      let l1 := { l with expect := l.expect + 1, ahead := l.ahead.filter fun e => decide (e.1 ≠ q) }
      takeOrdered n fuel (acceptFlit (s.setLink n l1) n packet)
    | none => s

/-- A received flit (R20). The spec does not say whether the two directions of a link number their flits apart; DESIGN CHOICE (log
entry 15): they share one sequence. It is accepted with at most one failing part, unless it has been already (R23); refused otherwise, and
the link taken down where its 16th replay is (R26). -/
def receiveFlit (s : State) (n : Nat) (seq : BitVec 12) (bad : BitVec 5) (packet : FlitOf) : State :=
  let l := s.link n
  if !l.isUp || alreadyAccepted l seq then s
  else if 2 ≤ failingParts l bad then (if 16 ≤ replayCount l seq then linkDown s n l else s)
  else
    let l1 := { l with
      rebuild := if failingParts l bad = 1 then bumpWord l.rebuild else l.rebuild
      ahead := l.ahead ++ [(seq, packet)] }
    takeOrdered n l1.ahead.length (s.setLink n l1)

def execFlitReceive (link : Nat) (seq : BitVec 12) (bad : BitVec 5) (packet : FlitOf) (s : State) :
    Host.Outcome State Fault Refusal :=
  .next (if link < 30 then receiveFlit s link seq bad packet else s)

/-- A packet of another module that has met no path for 1 ms is not performed (R28): it is discarded whole (R24). -/
def dropStale (s : State) (i : Nat) : State :=
  match s.inbound[i]? with
  | some x =>
    if x.order.isNone && !pathTo s x.node x.dest && decide (x.since + oneMs ≤ s.now) then { s with inbound := s.inbound.eraseIdx i }
    else s
  | none => s

/-- An acknowledgement frees the flit and clears its count of successive replays (R23, R26). The spec does not say whether
it acknowledges the flits before it too; DESIGN CHOICE (log entry 15): the counts of older flits stay. -/
def ackFlit (l : LinkState) (seq : BitVec 12) : LinkState :=
  { l with lastAck := seq, replays := l.replays.filter fun e => decide (e.1 ≠ seq) }

def execFlitAcknowledge (link : Nat) (seq : BitVec 12) (s : State) : Host.Outcome State Fault Refusal :=
  .next (if link < 30 then s.setLink link (ackFlit (s.link link) seq) else s)

/-- The sender replays the flits after the last one acknowledged (R20, R23); a flit that has been replayed 16 times without
being accepted takes the link down instead (R26). -/
def replayFlits (s : State) (n flits : Nat) : State :=
  let l := s.link n
  let seqs := (List.range flits).map fun i => l.lastAck + 1 + BitVec.ofNat 12 i
  if seqs.any fun q => decide (16 ≤ replayCount l q) && !alreadyAccepted l q then linkDown s n l
  else
    s.setLink n { l with
      replay := bumpWord l.replay
      replays := (seqs.map fun q => (q, replayCount l q + 1)) ++ l.replays.filter fun e => !seqs.contains e.1 }

def execFlitReplay (link flits : Nat) (s : State) : Host.Outcome State Fault Refusal :=
  .next (if link < 30 ∧ (s.link link).isUp ∧ flits ≠ 0 then
    replayFlits s link (Nat.min flits (replayRoom link)) else s)

/-! ### Retraining (R25, R27) -/

/-- A failing lane takes a spare of its rail, or its rail is marked bad (R25); rail 4 is the XOR rail. -/
def spareLane (n : Nat) (l : LinkState) (lane : Nat) : LinkState :=
  let rail := lane / laneCount n
  if 5 ≤ rail then l
  else
    match l.spares.getD rail 0 with
    | 0 => { l with railBad := l.railBad ||| (1#5 <<< rail) }
    | k + 1 => { l with spares := l.spares.set rail k }

/-- The end of a retrain: `lanes` are those whose error rate exceeds the threshold (R25); the third failure in succession
takes the link down (R27). -/
def retrain (s : State) (n : Nat) (trained : Bool) (lanes : List Nat) : State :=
  let l := s.link n
  if trained then
    let l1 := lanes.eraseDups.foldl (spareLane n) l
    s.setLink n { l1 with retrains := 0, failedRetrains := 0, state := if l1.railBad = 0 then 2 else 3 }
  else
    let l1 := { l with retrains := if l.retrains = 15 then 15 else l.retrains + 1, failedRetrains := l.failedRetrains + 1 }
    if 3 ≤ l1.failedRetrains then linkDown s n l1 else s.setLink n { l1 with state := 1 }

/-- A link retrains; one that is down stays so (R27, R48). -/
def execLinkRetrain (link : Nat) (trained : Bool) (lanes : List Nat) (s : State) : Host.Outcome State Fault Refusal :=
  .next (if link < 30 ∧ (s.link link).state ≠ 0 then retrain s link trained lanes else s)

end Sys2Proof.Machine
end

