-- ==== Sys2Proof/Machine/Registers.lean ====
section
/-!
DEFINITION. The system registers (R445 to R447): their index words, who may read and write them, what they read and what
a write of each changes. The map and the layouts are those of the rules that R445 names.
-/
namespace Sys2Proof.Machine

/-! ### The map (R445) -/

/-- What a register belongs to. -/
inductive RegOf where
  | thread
  | core
  | die
  | ioDie
  | module
  deriving DecidableEq, Repr

/-- The column 'Of' of the map. -/
def regOf (n : Nat) : RegOf :=
  if n ≤ 13 then .thread
  else if n ≤ 15 then .core
  else if n ≤ 19 then .thread
  else if n ≤ 26 then .core
  else if n ≤ 35 then .die
  else if n = 36 then .ioDie
  else .module

/-- The column 'Index': how many there are. -/
def regCount (n : Nat) : Nat :=
  match n with
  | 20 => 4
  | 28 | 29 | 30 => 16
  | 37 | 38 | 39 => 64
  | 40 => 4
  | 42 => 256
  | _ => 1

/-- Every field is P (R446). -/
def regPrivileged (n : Nat) : Bool :=
  [11, 12, 13, 20, 24, 25, 26, 27, 28, 29, 31, 32, 33, 34, 36, 37, 38, 40, 41, 42].contains n

/-- Some field is P: RGN and STAT beside those (R446). -/
def regHasP (n : Nat) : Bool := regPrivileged n || n = 8 || n = 10

def regIndex (x : Word) : Nat := bitsOf x.toNat 7 0
def regDie (x : Word) : Nat := bitsOf x.toNat 11 8

/-- The index word names something (R445). -/
def indexOk (n : Nat) (x : Word) : Bool :=
  decide (bitsOf x.toNat 63 12 = 0) && decide (regIndex x < regCount n) &&
    match regOf n with
    | .die => decide (regDie x ≤ 8)
    | .ioDie => regDie x = 9 || regDie x = 10
    | _ => regDie x = 0

/-- The die that an index word names, for a thread on `core`. -/
def dieNamed (core : Nat) (x : Word) : Nat :=
  if regDie x = 0 then State.dieOf core else core / 1024 * 8 + regDie x - 1

/-- The I/O die that an index word names. -/
def ioNamed (x : Word) : Nat := regDie x - 9

/-! ### Reading -/

/-- Four 16-bit fields, each with an attribute (R167). -/
def lmfmtWord (l : List (BitVec 9)) : Nat := l.foldr (fun a n => a.toNat + 2 ^ 16 * n) 0

/-- Eight bytes, each with a spare (R172). -/
def clmapWord (l : List (BitVec 5)) : Nat := l.foldr (fun a n => a.toNat + 2 ^ 8 * n) 0

/-- TPSTAT (R183). -/
def tpstat (s : State) (die part : Nat) : Nat :=
  let d := s.die die
  d.usage part + d.freeUnits.length * 2 ^ 16 + (s.waiters (tallocWaiter die part)).length * 2 ^ 32

/-- WLCFG (R98). -/
def wlcfgWord (w : Worklist) : Nat :=
  w.bound.toNat + w.repro.toNat * 2 ^ 12 + w.home.toNat * 2 ^ 42 + w.scope.toNat * 2 ^ 48 + w.tout.toNat * 2 ^ 52 +
    w.en.toNat * 2 ^ 63

/-- A register of the thread in slot `slot` of `core`. -/
def readThreadReg (core slot : Nat) (t : Thread) (n : Nat) : Nat :=
  match n with
  | 0 => slot
  | 1 => t.gang.toNat + t.index.toNat * 2 ^ 16
  | 2 => core % 1024 + core / 1024 * 2 ^ 16
  | 3 => t.job.toNat
  | 4 => t.asid.toNat
  | 5 => t.rnd.toNat
  | 6 => t.fpst.toNat
  | 7 => t.wab.toNat
  | 8 => if t.sv then t.rgn else t.levels.length
  | 9 => t.rtry
  | 10 => if t.sv then t.stat else { t with psv := false }.stat
  | 11 => t.epc.toNat
  | 12 => t.trapc.toNat
  | 13 => t.trapv.toNat
  | 16 => t.m1.toNat
  | 17 => t.m2.toNat
  | 18 => t.m3.toNat
  | _ => t.port.ch.toNat * 2 ^ 3 + t.port.dn.toNat * 2 ^ 5 + t.port.up.toNat * 2 ^ 8 + t.port.en.toNat * 2 ^ 11

/-- A register of a core. The count of R154 is the module's: whether all cores leave reset in one cycle is not said (DESIGN CHOICE,
log entry 65). -/
def readCoreReg (s : State) (core n i : Nat) : Nat :=
  let c := s.core core
  match n with
  | 14 => s.now
  | 15 => Nat.min 64 c.mailbox.length
  | 20 => (c.lmwin.getD i 0).toNat
  | 21 => lmfmtWord c.lmfmt
  | 22 => c.tsfmt.toNat
  | 23 => c.bsfmt.toNat
  | 24 => c.maxd.toNat + c.delay.toNat * 2 ^ 4
  | 25 => c.svec.toNat * 4
  | _ => c.tcxCount.toNat + c.tcxBase.toNat * 2 ^ 12

/-- A register of a compute die. -/
def readDieReg (s : State) (die n i : Nat) : Nat :=
  let d := s.die die
  match n with
  | 27 => d.tpLow + d.tpOpen.toNat * 2 ^ 63
  | 28 => d.tpmin.getD i 0
  | 29 => d.tpcap.getD i 0
  | 30 => tpstat s die i
  | 31 => clmapWord d.clmap
  | 32 => d.rakecfg.toNat
  | 33 => d.elogEn.toNat + d.elogNote.toNat * 2 + d.elogWl.toNat * 2 ^ 8 + d.elogJob.toNat * 2 ^ 16 +
      d.elogBase.toNat * 2 ^ 32
  | 34 => d.harrowEn.toNat + d.harrowRate.toNat * 2 ^ 4
  | _ => d.cor.toNat + d.uncor.toNat * 2 ^ 32

/-- A register of the module. -/
def readModuleReg (s : State) (n i : Nat) : Nat :=
  match n with
  | 37 => wlcfgWord (s.wl i)
  | 38 => (s.wl i).spillBase.toNat * 2 ^ 16 + (s.wl i).runSlots.toNat * 2 ^ 52
  | 39 => (wlstat s i).toNat
  | 40 =>
    let r := NatMap.get s.slotres i (false, 0)
    r.2.toNat * 2 ^ 48 + r.1.toNat * 2 ^ 63
  | 41 => s.noteEn.toNat + s.noteWl.toNat * 2 ^ 8 + s.noteJob.toNat * 2 ^ 16
  | _ =>
    let r := NatMap.get s.asroot i (false, 0)
    r.2.toNat * 2 ^ 13 + r.1.toNat * 2 ^ 63

/-- FRAMERING (R73). -/
def framering (x : Io) : Nat := x.ringEn.toNat + x.ringBase.toNat * 2 ^ 12 + x.ringLogN.toNat * 2 ^ 52

/-- What a register reads. -/
def readReg (s : State) (core slot : Nat) (t : Thread) (n : Nat) (x : Word) : Word :=
  BitVec.ofNat 64 (match regOf n with
    | .thread => readThreadReg core slot t n
    | .core => readCoreReg s core n (regIndex x)
    | .die => readDieReg s (dieNamed core x) n (regIndex x)
    | .ioDie => framering (s.io (ioNamed x))
    | .module => readModuleReg s n (regIndex x))

/-! ### Writing -/

/-- RGN (R267): while a region is open BASE stays, and SIZE does not fall below the fill offset. -/
def writeRgn (t : Thread) (v : Word) : Thread :=
  let size : BitVec 12 := v.extractLsb' 52 12
  let base : BitVec 38 := v.extractLsb' 14 38
  if t.levels = [] then { t with rgnSize := size, rgnBase := base }
  else if size.toNat * 0x4000 < t.fill then t
  else { t with rgnSize := size }

/-- A register of the thread. -/
def writeThreadReg (t : Thread) (n : Nat) (v : Word) : Thread :=
  match n with
  | 5 => let m : BitVec 3 := v.extractLsb' 0 3; if m.toNat ≤ 5 then { t with rnd := m } else t
  | 6 => { t with fpst := v.extractLsb' 0 14 &&& 0x3F3F#14 }
  | 8 => writeRgn t v
  | 10 => { t with psv := v.getLsbD 1 }
  | 11 => { t with epc := v.extractLsb' 0 19 }
  | 12 => { t with trapc := v.extractLsb' 0 10 }
  | 13 => { t with trapv := v }
  | 16 => { t with m1 := v }
  | 17 => { t with m2 := v }
  | 18 => { t with m3 := v }
  | _ => t

/-- A window's reserved bits read zero; RANGE takes 0 to 4 (R150). -/
def windowWritten (old v : Word) : Word :=
  let kept : Word := v &&& 0xEE00_1FFF_0000_1FFF#64
  if bitsOf v.toNat 59 57 ≤ 4 then kept
  else (kept &&& ~~~0x0E00_0000_0000_0000#64) ||| (old &&& 0x0E00_0000_0000_0000#64)

/-- LMFMT field by field (R167). -/
def lmfmtWritten (old : List (BitVec 9)) (v : Word) : List (BitVec 9) :=
  old.mapIdx fun i a =>
    let b : BitVec 9 := v.extractLsb' (16 * i) 9
    if attrValid b then b else a

/-- A register of a core. -/
def writeCoreReg (c : Core) (n i : Nat) (v : Word) : Core :=
  match n with
  | 20 => { c with lmwin := c.lmwin.set i (windowWritten (c.lmwin.getD i 0) v) }
  | 21 => { c with lmfmt := lmfmtWritten c.lmfmt v }
  | 22 =>
    let b : BitVec 9 := v.extractLsb' 0 9
    if attrValid b ∧ attrGeom b = 0 then { c with tsfmt := b } else c
  | 24 =>
    let m : BitVec 2 := v.extractLsb' 0 2
    { c with delay := v.extractLsb' 4 4, maxd := if m = 3 then c.maxd else m }
  | 25 => { c with svec := v.extractLsb' 2 17 }
  | 26 => { c with tcxBase := v.extractLsb' 12 40, tcxCount := v.extractLsb' 0 10 }
  | _ => c

/-- The sum of MIN over a die with that of partition `i` replaced (R182). -/
def minSum (d : Die) (i v : Nat) : Nat := ((d.tpmin.set i v).foldl (· + ·) 0)

/-- A logical cluster of a die holds no resident thread and no held slot (R172). -/
def clusterIdle (s : State) (die c : Nat) : Bool :=
  !s.slots.any fun e => decide (State.clusterOf (e.1 / 16) = die * 8 + c) &&
    match e.2 with
    | .busy _ | .trailing _ | .held _ => true
    | _ => false

/-- CLMAP field by field (R172); the TLBs of the logical cores that move are emptied (R173). -/
def writeClmap (s : State) (die : Nat) (v : Word) : State :=
  (List.range 8).foldl (fun s c =>
    let old := ((s.die die).clmap.getD c 16).toNat
    let new := bitsOf v.toNat (8 * c + 4) (8 * c)
    if 16 < new ∨ ¬clusterIdle s die c ∨ new = old then s
    else
      let moves (core : Nat) : Bool :=
        let i := 4 * (State.coreY core % 4) + State.coreX core % 4
        decide (State.clusterOf core = die * 8 + c) && decide (Nat.min old new ≤ i) && decide (i < Nat.max old new)
      { s.modDie die (fun d => { d with clmap := d.clmap.set c (BitVec.ofNat 5 new) }) with
        cores := s.cores.map fun e => if moves e.1 then (e.1, { e.2 with tlb := [] }) else e }) s

/-- A count of HARROWSTAT (R261): all ones clear it. -/
def clearCount (old : BitVec 32) (v : BitVec 32) : BitVec 32 := if v = BitVec.allOnes 32 then 0 else old

/-- A register of a compute die. -/
def writeDieReg (s : State) (die n i : Nat) (v : Word) : State :=
  let d := s.die die
  match n with
  | 27 =>
    let low := bitsOf v.toNat 10 0
    s.setDie die { d with
      tpOpen := v.getLsbD 63
      tpLow := if d.tiles = [] ∧ low ≤ 1024 then low else d.tpLow }
  | 28 =>
    let m := bitsOf v.toNat 10 0
    if minSum d i m ≤ 1024 - d.tpLow then s.setDie die { d with tpmin := d.tpmin.set i m } else s
  | 29 =>
    let m := bitsOf v.toNat 10 0
    if m ≤ 1024 then s.setDie die { d with tpcap := d.tpcap.set i m } else s
  | 31 => writeClmap s die v
  | 32 => s.setDie die { d with rakecfg := v }
  | 33 => s.setDie die { d with
      elogBase := v.extractLsb' 32 25, elogJob := v.extractLsb' 16 16, elogWl := v.extractLsb' 8 6
      elogNote := v.getLsbD 1, elogEn := v.getLsbD 0 }
  | 34 => s.setDie die { d with harrowRate := v.extractLsb' 4 4, harrowEn := v.getLsbD 0 }
  | 35 => s.setDie die { d with
      uncor := clearCount d.uncor (v.extractLsb' 32 32), cor := clearCount d.cor (v.extractLsb' 0 32) }
  | _ => s

/-- FRAMERING (R73): a write lets a pump that had stopped take frames again (R159). -/
def writeFramering (s : State) (i : Nat) (v : Word) : State :=
  s.modIo i fun x => { x with
    ringLogN := v.extractLsb' 52 6, ringBase := v.extractLsb' 12 40, ringEn := v.getLsbD 0, ringStopped := false }

/-- The worklist has no members, no run and nothing parked on it, and is disabled (R99). -/
def wlQuiet (s : State) (w : Nat) : Bool :=
  let x := s.wl w
  !x.en && x.window = [] && x.held = [] && x.runs = [] && (s.waiters (popWaiter w)).isEmpty &&
    !(s.residents.any fun e => match e.2.park with
      | some (.push m p _ _) => decide (m = s.modNum) && decide (p.wl = w)
      | _ => false) &&
    !(s.rings.any fun e => e.2.pushing.any fun x => decide (x.1 = s.modNum) && decide (x.2.1.wl = w))

/-- WLCFG (R98, R99); pops parked on a worklist that is enabled are served. -/
def writeWlcfg (s : State) (w : Nat) (v : Word) : State :=
  let x := s.wl w
  let scope : BitVec 4 := v.extractLsb' 48 4
  let y : Worklist :=
    if wlQuiet s w then { x with home := v.extractLsb' 42 6, repro := v.getLsbD 12, bound := v.extractLsb' 0 12 } else x
  let s1 := s.setWl w { y with
    en := v.getLsbD 63, tout := v.extractLsb' 52 4
    scope := if 5 ≤ scope.toNat ∧ scope.toNat ≤ 8 then scope else x.scope }
  serveParkedPops w (s1.slots.length + 1) s1

/-- WLSPILL (R100, R92): slots that were out of use are in use again, their runs can be reloaded, and what waits for them
is served. -/
def writeWlspill (s : State) (w : Nat) (v : Word) : State :=
  let x := s.wl w
  if x.liveRuns = [] then
    let s1 := refill w 4097 (s.setWl w { x with
      runSlots := v.extractLsb' 52 12, spillBase := v.extractLsb' 16 36, badSlots := [] })
    serveParkedPops w (s1.slots.length + 1) s1
  else s

/-- SLOTRES (R113): what is written stands, also where a gang that used the reservation up is not started after all. -/
def writeSlotres (s : State) (n : Nat) (v : Word) : State :=
  { s with
    slotres := NatMap.set s.slotres n (v.getLsbD 63, v.extractLsb' 48 8)
    gangs := s.gangs.map fun e => (e.1, { e.2 with reserved := if e.2.reserved = some n then none else e.2.reserved }) }

/-- A register of the module. -/
def writeModuleReg (s : State) (n i : Nat) (v : Word) : State :=
  match n with
  | 37 => writeWlcfg s i v
  | 38 => writeWlspill s i v
  | 40 => writeSlotres s i v
  | 41 => { s with noteJob := v.extractLsb' 16 16, noteWl := v.extractLsb' 8 6, noteEn := v.getLsbD 0 }
  | 42 => { s with asroot := NatMap.set s.asroot i (v.getLsbD 63, v.extractLsb' 13 37) }
  | _ => s

/-- A write of a register by a thread on `core`. -/
def writeReg (s : State) (core : Nat) (t : Thread) (n : Nat) (x v : Word) : State × Thread :=
  match regOf n with
  | .thread => (s, writeThreadReg t n v)
  | .core => (s.modCore core fun c => writeCoreReg c n (regIndex x) v, t)
  | .die => (writeDieReg s (dieNamed core x) n (regIndex x) v, t)
  | .ioDie => (writeFramering s (ioNamed x) v, t)
  | .module => (writeModuleReg s n (regIndex x) v, t)

end Sys2Proof.Machine
end

