-- ==== Sys2Proof/Machine/System.lean ====
section
/-!
DEFINITION. The SYS group (R444 to R452): register access, SETRND, traps and their return, YIELD, SLEEP, TCSWAP,
TLBINV and BREAK.
-/
namespace Sys2Proof.Machine

/-! ### SYSR, SYSW and SETRND (R446, R448) -/

/-- A register of a compute die, an I/O die or the module: its access parks the thread (R446, R135). -/
def regAway (n : Nat) : Bool :=
  match regOf n with
  | .thread | .core => false
  | .die | .ioDie | .module => true

def execSysr (d x : BitVec 5) (n : BitVec 6) : State → Host.Outcome State Fault Refusal :=
  run (.sysr d x n) fun s t =>
    if regPrivileged n.toNat ∧ ¬t.sv then .error (illegal (.sysr d x n))
    else
      withSources s t [x] [] fun s t =>
        let w := t.gVal x
        check (indexOk n.toNat w) (.trap 3 w) <|
          let v := readReg s s.cur.1 s.cur.2 t n.toNat w
          if regAway n.toNat then .ok (.parked s t (.ending (some (d, v)))) else retG s t d v

/-- SYSW in a region is allowed of RND and FPST alone (R275). -/
def execSysw (a x : BitVec 5) (n : BitVec 6) : State → Host.Outcome State Fault Refusal :=
  run (.sysw a x n) fun s t =>
    if (regHasP n.toNat ∧ ¬t.sv) ∨ (t.inRegion ∧ n ≠ 5 ∧ n ≠ 6) then .error (illegal (.sysw a x n))
    else
      withSources s t [a, x] [] fun s t =>
        let w := t.gVal x
        check (indexOk n.toNat w) (.trap 3 w) <|
          let r := writeReg s s.cur.1 t n.toNat w (t.gVal a)
          if regAway n.toNat then .ok (.parked r.1 r.2 (.ending none)) else .ok (.next r.1 r.2)

def execSetrnd (m : BitVec 3) : State → Host.Outcome State Fault Refusal :=
  run (.setrnd m) fun s t => .ok (.next s (if m.toNat ≤ 5 then { t with rnd := m } else t))

/-! ### TRAP, BREAK, ERET, YIELD and SLEEP (R449, R450, R249) -/

def execTrap (i : BitVec 15) : State → Host.Outcome State Fault Refusal :=
  run (.trap i) fun _ _ => .error (.trap 16 (i.zeroExtend 64))

def execBrk (i : BitVec 15) : State → Host.Outcome State Fault Refusal :=
  run (.brk i) fun s t =>
    if (s.core s.cur.1).debugArmed then
      -- the thread would go on at 0x8_0000 (R149, R54)
      check (!t.atLastWord) fallsOff (.ok (.stay s { t with halted := true }))
    else .error (.trap 17 (i.zeroExtend 64))

def execEret : State → Host.Outcome State Fault Refusal :=
  run .eret fun s t => if t.hnd then .ok (.stay s t.leaveTrap) else .error (illegal .eret)

/-- The slots of the other threads of the core that are ready (R450). -/
def readySiblings (s : State) : List Nat :=
  (List.range 16).filter fun n => decide (n ≠ s.cur.2) && (slotFrom s s.cur.1 n).any fun at' => decide (at' ≤ s.now)

def execYield : State → Host.Outcome State Fault Refusal :=
  run .yield fun s t => .ok (.next s { t with yieldTo := readySiblings s, yieldEnd := s.now + 16 })

def execSleep (n : BitVec 2) : State → Host.Outcome State Fault Refusal :=
  run (.sleep n) fun s t => .ok (.next s { t with slpreq := n })

/-! ### TCSWAP (R256 to R259, R451) -/

/-- The slot that holds the thread of a slot: a pair's leading slot for its other one. -/
def leadSlot (s : State) (k : Nat) : Nat :=
  match NatMap.get s.slots k .empty with
  | .trailing lead => lead
  | _ => k

/-- Context `n` of a core: cached, or read from the area. -/
def savedContext (s : State) (core n : Nat) : Option Thread :=
  let c := s.core core
  match c.ctxCache.find? fun e => decide (e.1 = n) with
  | some e => e.2
  | none => readContext s core (contextAddress c n)

/-- The cache with context `n` most recently used, and what it must write back (R256). -/
def cachePut (c : Core) (n : Nat) (x : Option Thread) : List (Nat × Option Thread) × Option (Nat × Option Thread) :=
  let l := (n, x) :: c.ctxCache.filter fun e => decide (e.1 ≠ n)
  (l.take 4, l[4]?)

/-- A context written back to its place in the area. -/
def writeBack (s : State) (core n : Nat) (x : Option Thread) : State :=
  let va := contextAddress (s.core core) n
  match x with
  | some t => (writeContext s va t).modCore core fun c => { c with ctxArea := NatMap.set c.ctxArea va.toNat t }
  | none => (writeEmpty s va).modCore core fun c => { c with ctxArea := NatMap.drop c.ctxArea va.toNat }

/-- Context `n` becomes `x` in the cache, the fifth context written back. -/
def saveContext (s : State) (core n : Nat) (x : Option Thread) : State :=
  let c := s.core core
  let p := cachePut c n x
  -- what the device keeps of an older context at that place goes
  let s1 := s.setCore core { c with
    ctxCache := p.1, ctxArea := NatMap.drop c.ctxArea (contextAddress c n).toNat }
  match p.2 with
  | some e => writeBack s1 core e.1 e.2
  | none => s1

/-- The place of the context that the cache would write back is mapped (R159). -/
def evictMapped (s : State) (core n : Nat) (x : Option Thread) : Bool :=
  let c := s.core core
  (cachePut c n x).2.all fun e => contextMapped s c e.1

/-- The reading of the undo header of a composed context, for the marks of its levels (readLevels): its page is marked (R161). -/
def fetchMarks (s : State) (core n : Nat) (x : Thread) : State :=
  let kept := (s.core core).ctxArea.any fun e => decide (e.1 = (contextAddress (s.core core) n).toNat)
  if kept ∨ x.levels = [] then s
  else
    match deviceWalk s x.asid (undoAddress x 8) false core with
    | some p => countTransfers (deviceMark s x.asid (undoAddress x 8) false) p (8 * x.levels.length)
    | none => s

/-- The reading of a context from the area (R256): its pages are marked (R161), and STATE of one that reads back with an
uncorrectable error becomes 2 (R259). -/
def fetchContext (s : State) (core n : Nat) (x : Option Thread) : State :=
  let va := contextAddress (s.core core) n
  if (s.core core).ctxCache.any fun e => decide (e.1 = n) then s
  else
    let s0 := (granules va 10 0x9000).foldl (fun s g => areaTransfers s (va + BitVec.ofNat 64 g.1) g.2) s
    let s1 := x.elim s0 (fetchMarks s0 core n)
    if x.elim false (·.spoiled) then
      areaWrite s1 (va + 1320) (toBytes 8 (setBits (ofBytes (areaRead s1 (va + 1320) 8)) 39 37 2))
    else s1

/-- A swap-out (R257): the thread of slot `k` leaves it, a pair both its slots; its gang no longer holds them. -/
def swapOut (s : State) (k : Nat) (t : Thread) : State × Thread :=
  let core := k / 16
  let f := flushProducts s core t.uid
  let s1 := f.2
  let t1 : Thread := match NatMap.get s1.slots k .empty with
    -- a residue check that fails is consumed at the first instruction after the swap-in (R400)
    | .busy x => { x with spoiled := x.spoiled || f.1 }
    | _ => t
  let w := withdrawFor s1 core t1
  let t2 : Thread := { w.2 with
    residentSum := w.2.residentSum + (s.now - w.2.residentFrom), residentFrom := s.now, tid := BitVec.ofNat 4 k }
  let s2 := writeHeader w.1 core t2
  let leave (e : Nat × Slot) : Nat × Slot := if e.1 = k ∨ e.2 = .trailing k then (e.1, .empty) else e
  let s3 := { s2 with slots := s2.slots.map leave }
  let s4 := match s3.gang? t2.gang.toNat with
    | some g => s3.setGang t2.gang.toNat { g with slots := g.slots.filter fun x => decide (x ≠ k) }
    | none => s3
  ((freedOn s4 (State.dieOf core)).leave core, t2)

/-- A restored thread as its slot receives it: a departure from GBAR that fell in its absence ends its wait. -/
def resumed (s : State) (core : Nat) (t : Thread) : Thread :=
  let from' := Nat.max s.now (s.core core).awakeAt
  let t1 : Thread := { t with
    readyAt := Nat.max t.readyAt from', residentFrom := s.now, fetchBuf := none
    trail := { t.trail with lag := [], readyAt := Nat.max t.trail.readyAt from' } }
  if t.departed then { t1.advance with park := none, departed := false } else t1

/-- The other slot for a restored pair (R451): the lowest empty one. -/
def otherSlot (s : State) (k : Nat) : Option Nat :=
  (List.range 16).map (fun i => k / 16 * 16 + i) |>.find? fun j =>
    decide (j ≠ k) && decide (NatMap.get s.slots j .empty = .empty)

/-- A swap-in: the thread in slot `k`, its pair's other half in `other`. -/
def swapIn (s : State) (k : Nat) (other : Option Nat) (t : Thread) : State :=
  -- a context that software has composed is a new thread
  let s1 := { s with nextUid := Nat.max s.nextUid (t.uid + 1) }.putSlot k (resumed s (k / 16) t)
  let s2 := match other with
    | some j => { s1 with slots := NatMap.set s1.slots j (.trailing k) }
    | none => s1
  match s2.gang? t.gang.toNat with
  | some g => s2.setGang t.gang.toNat { g with slots := insertNat g.slots k }
  | none => s2

/-- The swap itself (R256): what slot `k` holds becomes context `n`, what context `n` held is resumed there; none where
a pair finds no second slot. -/
def swap (s : State) (k n : Nat) (x : Option Thread) : Option State :=
  let core := k / 16
  let out := match NatMap.get s.slots k .empty with
    | .busy t => let o := swapOut s k t; (o.1, some o.2)
    | _ => (s, none)
  let s1 := saveContext (fetchContext out.1 core n x) core n out.2
  match x with
  | none => some s1
  | some c =>
    if c.pair then (otherSlot s1 k).map fun j => swapIn s1 k (some j) c
    else some (swapIn s1 k none c)

/-- How far a swap of the thread in slot `k` with context `n` can go. -/
inductive Swapped where
  | done (s : State)
  /-- The slot stops issuing; what must complete first does, then the swap goes on (R257). -/
  | waits (s : State)
  | refused
  deriving DecidableEq, Repr

/-- A swap as far as it can go: refused where an area is not mapped or a pair finds no second slot (R159, R451). -/
def trySwap (s : State) (k n : Nat) : Swapped :=
  let core := k / 16
  let x := savedContext s core n
  let here : Option Thread := match NatMap.get s.slots k .empty with
    | .busy y => some y
    | _ => none
  if ¬contextMapped s (s.core core) n then .refused
  else if here = none ∧ x = none then .done s
  else if ¬evictMapped s core n here then .refused
  else if here.elim false Thread.holdsUp then
    .waits (if here.elim false Thread.betweenHints then s else s.modSlot k fun y => { y with stopping := true })
  else
    match swap s k n x with
    | some s1 => .done s1
    | none => .refused

/-- TCSWAP gs, gn once its operands are good. -/
def swapWith (s : State) (t : Thread) (k n : Nat) (gn : Word) : Except Stop Eff :=
  match trySwap s k n with
  | .done s1 => .ok (.next s1 t)
  | .waits s1 => .ok (.parked s1 t (.swap k n gn))
  | .refused => .error (.trap 3 gn)

/-- A TCSWAP that waits goes on as far as it can; a slot that it does not swap issues again. -/
def goOnSwap (s : State) (e : Nat × Thread) : State :=
  match e.2.park with
  | some (.swap k n gn) =>
    match trySwap s k n with
    -- the core is awake for the thread that it takes in (R152)
    | .done _ => match trySwap (s.rouse (e.1 / 16)) k n with
      | .done s1 => deliver s1 e.1 e.2 .nothing
      | _ => s
    | .waits s1 => s1
    | .refused => takeTrap (s.modSlot k fun y => { y with stopping := false }) e.1 e.2 3 gn
  | _ => s

/-- What follows from a step. -/
def settle (s : State) : State :=
  let s1 := settleRounds 8 s
  feedRetry (wakeRepushes (wakeOperands (refillRegs (s1.residents.foldl goOnSwap s1))))

/-- TCSWAP.k (R451): the thread saved in context `n` is killed (R263). -/
def killSaved (s : State) (core n : Nat) : State :=
  match savedContext s core n with
  | none => s
  | some t => endThread (saveContext (fetchContext s core n (some t)) core n none) core { t with residentFrom := s.now } false

def execTcswap (a b : BitVec 5) (k : BitVec 1) : State → Host.Outcome State Fault Refusal :=
  run (.tcswap a b k) fun s t =>
    if ¬t.sv ∨ t.inRegion then .error (illegal (.tcswap a b k))
    else
      withSources s t [a, b] [] fun s t =>
        let core := s.cur.1
        let gs := t.gVal a
        let gn := t.gVal b
        let n := gn.toNat
        let slot := leadSlot s (core * 16 + gs.toNat)
        let held : Bool := match NatMap.get s.slots slot .empty with
          | .held _ => true
          | _ => false
        if k = 1 then
          if gs ≠ 0 then .error (.trap 3 gs)
          else if (s.core core).tcxCount.toNat ≤ n then .error (.trap 3 gn)
          else if ¬contextMapped s (s.core core) n ∨ ¬evictMapped s core n none then .error (.trap 3 gn)
          else .ok (.next (killSaved s core n) t)
        else if 16 ≤ gs.toNat ∨ held ∨ slot = core * 16 + s.cur.2 then .error (.trap 3 gs)
        else if (s.core core).tcxCount.toNat ≤ n then .error (.trap 3 gn)
        else swapWith s t slot n gn

/-! ### TLBINV (R171, R343, R452) -/

/-- Whether a core lies within a scope of the issuing core (R221). -/
def coreInScope (scope : BitVec 4) (mine core : Nat) : Bool :=
  match scope.toNat with
  | 1 => decide (core = mine)
  | 3 => decide (State.clusterOf core = State.clusterOf mine)
  | 4 => decide (State.dieOf core = State.dieOf mine)
  | 5 => decide (core / 1024 = mine / 1024)
  | _ => true

/-- Whether a die's translation cache lies within it. -/
def dieInScope (scope : BitVec 4) (mine die : Nat) : Bool :=
  match scope.toNat with
  | 4 => decide (die = State.dieOf mine)
  | 5 => decide (die / 8 = mine / 1024)
  | 6 => true
  | _ => false

/-- The level of the entry that ends the walk of an address (R160). -/
def endLevel (s : State) (va : Nat) : Nat → Nat → Nat → Nat
  | 0, level, _ => level
  | fuel + 1, level, table =>
    let e : BitVec 64 := s.word (Place.hbm s.modNum (table + 8 * walkIndex va level))
    if Pte.valid e && !Pte.leaf e && Pte.pointerFormed e level then endLevel s va fuel (level + 1) (Pte.pointer e) else level

/-- The size of the page that an address names: that of the entry which ends its walk, mapped or not. -/
def namedSize (s : State) (asid : BitVec 8) (va : Word) : Nat :=
  let root := NatMap.get s.asroot asid.toNat (false, 0)
  let level := if root.1 then endLevel s (va.toNat % 2 ^ 52) 4 0 (root.2.toNat * 0x2000) else 0
  if level = 0 then 2 ^ 42 else Pte.pageSize level

/-- The entries that a form removes (R171). -/
def removes (form : BitVec 2) (asid : BitVec 8) (va : Word) (tr : Trans) : Bool :=
  match form.toNat with
  | 0 => true
  | 1 => decide (tr.asid = asid)
  | _ => tr.covers asid va

/-- The accesses that a form names: paged, of the space, in a page of one of the sizes (R343). -/
def names (form : BitVec 2) (asid : BitVec 8) (va : Word) (sizes : List Nat) (space : BitVec 8) (x : Word) : Bool :=
  decide (0x2000_0000_0000 ≤ x.toNat) &&
    match form.toNat with
    | 0 => true
    | 1 => decide (space = asid)
    | _ => decide (space = asid) && sizes.any fun n => decide (x.toNat % 2 ^ 52 / n = va.toNat % 2 ^ 52 / n)

/-- A request that may wait at its home: LDC, LDO, STP or WAITA (R343). -/
def Req.waitsHome (r : Req) : Bool :=
  match r.op with
  | .ldc _ | .ldo _ | .stp | .waita .. => true
  | _ => false

def Req.named (r : Req) (hit : BitVec 8 → Word → Bool) (asid : BitVec 8) : Bool := r.parts.any fun p => hit asid p.va

/-- The request that a thread has sent to its home and that has not been served. -/
def Park.request : Park → Option Req
  | .access r | .remote r | .home r _ | .jwait _ _ r _ => some r
  | _ => none

/-- A parked thread under TLBINV: an LDC, LDO, STP or WAITA that its home has not served is withdrawn and issued again, a JWAIT
as the LDO it waits as; a deferred STP is translated again by its REND (R343). -/
def withdrawNamed (hit : BitVec 8 → Word → Bool) (s : State) (k : Nat) : State :=
  match NatMap.get s.slots k .empty with
  | .busy t =>
    match t.park.bind Park.request with
    | some r =>
      if r.named hit t.asid && r.waitsHome then
        (if t.closing then s.modSlot k fun t => { t with undo := mendOldest (fun _ => .stale r) t.undo } else s).wake k
      else s
    | none => s
  | _ => s

/-- The deferred accesses of a thread among what TLBINV names, by their records. -/
def namedRecords (hit : BitVec 8 → Word → Bool) (t : Thread) : List (Nat × Req) :=
  t.undo.filterMap fun x => match x.2 with
    | .publish (.access r) => if r.named hit t.asid then some (x.1, r) else none
    | _ => none

/-- What TLBINV waits for (R171 step 3): of the threads of the cores in its scope, but its own, the accesses on their way or at
their homes, the pending stores and the deferred accesses that go through what it names; and commands. -/
def awaitedBy (s : State) (hit : BitVec 8 → Word → Bool) (within : Nat → Bool) (uid : Nat) : List Awaited :=
  let threads := (s.everyThread.filter fun e => within e.1 && decide (e.2.uid ≠ uid)).map (·.2)
  (threads.filterMap fun t => ((t.park.bind Park.request).filter fun r => r.named hit t.asid).map fun _ => .access t.uid t.issued) ++
    (threads.flatMap fun t => (namedRecords hit t).map fun x => .record t.uid x.1) ++
    ((s.stores.filter fun x => threads.any fun t => decide (t.uid = x.owner) && hit t.asid x.va).map fun x =>
      .store x.owner x.loc x.since) ++
    ((s.copies.filter fun c => within c.core && c.vas.any (hit c.asid)).map fun c => .command c.owner c.issue)

/-- Whether one of them is still to be performed. -/
def stillAwaited (s : State) : Awaited → Bool
  | .access uid n => s.residents.any fun e => decide (e.2.uid = uid ∧ e.2.issued = n) && (e.2.park.bind Park.request).isSome
  | .record uid off => s.everyThread.any fun e => decide (e.2.uid = uid) && e.2.undo.any fun x => decide (x.1 = off) &&
      match x.2 with
      | .publish (.access _) => true
      | _ => false
  | .store uid loc since => s.stores.any fun x => decide (x.owner = uid ∧ x.loc = loc ∧ x.since = since)
  | .command uid n => s.copies.any fun c => decide (c.owner = uid ∧ c.issue = n)

/-- The accesses that the issuing thread has itself deferred: they are translated again when its region closes (DESIGN CHOICE,
log entry 28), for it could not wait for them. -/
def staleOwn (hit : BitVec 8 → Word → Bool) (t : Thread) : Thread :=
  let mend (x : Nat × UndoRec) : Nat × UndoRec := match x.2 with
    | .publish (.access r) => if r.named hit t.asid then (x.1, .publish (.stale r)) else x
    | _ => x
  { t with undo := t.undo.map mend }

/-- TLBINV after its checks: what it removes and withdraws, and what its thread then waits for. -/
def invalidate (s : State) (t : Thread) (scope : BitVec 4) (form : BitVec 2) (asid : BitVec 8) (va : Word) :
    State × Thread × List Awaited :=
  let mine := s.cur.1
  -- a release (R171 step 1)
  let s1 := s.drainOf t.uid
  let keep (tr : Trans) : Bool := !removes form asid va tr
  let cleanCore (e : Nat × Core) : Nat × Core :=
    if coreInScope scope mine e.1 then (e.1, { e.2 with tlb := e.2.tlb.filter keep }) else e
  let cleanDie (e : Nat × Die) : Nat × Die :=
    if dieInScope scope mine e.1 then (e.1, { e.2 with tcache := e.2.tcache.filter keep }) else e
  let removed := (s1.cores.flatMap fun (e : Nat × Core) => if coreInScope scope mine e.1 then e.2.tlb else []) ++
    s1.dies.flatMap fun (e : Nat × Die) => if dieInScope scope mine e.1 then e.2.tcache else []
  -- the cached translations make no difference to what is withdrawn (R343)
  let size := namedSize s1 asid va
  let hit := names form asid va (size :: (removed.filter fun tr => tr.covers asid va).map Trans.size)
  let s2 := { s1 with cores := s1.cores.map cleanCore, dies := s1.dies.map cleanDie }
  let s3 := ((s2.residents.map (·.1)).filter fun k => coreInScope scope mine (k / 16) && decide (k ≠ mine * 16 + s.cur.2)).foldl
    (withdrawNamed (names form asid va [size])) s2
  (s3, staleOwn hit t, awaitedBy s3 hit (coreInScope scope mine) t.uid)

/-- TLBINV's end: at once when there is nothing to wait for. -/
def awaitAll (r : State × Thread × List Awaited) : Eff :=
  .parked r.1 r.2.1 (if r.2.2 = [] then .ending none else .invalidate r.2.2)

def execTlbinv (a b : BitVec 5) (sc : BitVec 4) (f : BitVec 2) : State → Host.Outcome State Fault Refusal :=
  run (.tlbinv a b sc f) fun s t =>
    if ¬t.sv then .error (illegal (.tlbinv a b sc f))
    else
      withSources s t [a, b] [] fun s t =>
        let ga := t.gVal a
        let gb := t.gVal b
        if f ≠ 0 ∧ 256 ≤ ga.toNat then .error (.trap 3 ga)
        else if f = 2 ∧ ¬(isCanonical gb ∧ 0x2000_0000_0000 ≤ gb.toNat) then .error (.trap 3 gb)
        else released s t <| .ok (awaitAll (invalidate s t sc f (ga.extractLsb' 0 8) gb))

end Sys2Proof.Machine
end

