-- ==== Sys2Proof/Machine/Engines.lean ====
section
/-!
DEFINITION. The events that end what a thread or an engine has begun: accesses, walks, pushes, SENDs, copies, products,
rotations (R135, R400, R402), a core's sleep (R152), the re-reads of WAITA (R241), and the writes of system registers
(R446). An event that finds nothing to act on leaves the state as it is.
-/
namespace Sys2Proof.Machine

/-- An event at the parked thread of a slot. -/
def atPark (core slot : Nat) (s : State) (f : Thread → Park → State) : Host.Outcome State Fault Refusal :=
  match s.parkedAt core slot with
  | some (t, p) => .next (f t p)
  | none => .next s

/-! ### Accesses and walks -/

def execAccessCompletion (core slot : Nat) (s : State) : Host.Outcome State Fault Refusal :=
  atPark core slot s fun t p => match p with
    | .access r => arrivedAccess s (core * 16 + slot) t r
    | .ending result => deliver s (core * 16 + slot) t (result.elim .nothing fun x => .g x.1 x.2)
    -- TLBINV once everything that it waits for has been performed (R171 step 3)
    | .invalidate l => if l.any (stillAwaited s) then s else deliver s (core * 16 + slot) t .nothing
    | _ => s

def execRemoteAccess (core slot : Nat) (s : State) : Host.Outcome State Fault Refusal :=
  atPark core slot s fun t p => match p with
    | .remote r => serveAtHome s (core * 16 + slot) t r fun s => completeRemote (s.unload t.uid) (core * 16 + slot) t r
    | _ => s

/-- The misses of a die that wait for a walk, oldest first: slot, space and page (R168). -/
def missesOf (s : State) (die : Nat) : List (Nat × BitVec 8 × Nat) :=
  let misses := s.residents.filterMap fun e => match e.2.park with
    | some (.walk va _ _) =>
      if State.dieOf (e.1 / 16) = die then some (e.2.lastIssue.getD 0, e.1, e.2.asid, va.toNat % 2 ^ 52 / 0x2_0000) else none
    | _ => none
  (misses.foldl (fun acc x => acc.takeWhile (fun y => decide (y.1 ≤ x.1)) ++ [x] ++
    acc.dropWhile (fun y => decide (y.1 ≤ x.1))) []).map (·.2)

/-- Whether one of its die's eight walkers serves the miss of a slot: those for the oldest eight pages are at work (R168). -/
def walkServed (s : State) (k : Nat) : Bool :=
  let misses := missesOf s (State.dieOf (k / 16))
  match misses.find? fun m => decide (m.1 = k) with
  | some m => ((misses.map (·.2)).eraseDups.take 8).contains m.2
  | none => false

/-- The walk of a slot's miss ends for every miss of the die that has merged with it (R168). -/
def endWalks (s : State) (k : Nat) : State :=
  let misses := missesOf s (State.dieOf (k / 16))
  match misses.find? fun m => decide (m.1 = k) with
  | none => s
  | some m => (misses.filter fun x => decide (x.2 = m.2)).foldl (fun s x => match NatMap.get s.slots x.1 .empty with
      | .busy t => match t.park with
        | some (.walk va rd wr) => completeWalk s x.1 t va rd wr
        | _ => s
      | _ => s) s

def execWalkComplete (core slot : Nat) (s : State) : Host.Outcome State Fault Refusal :=
  .next (if walkServed s (core * 16 + slot) then endWalks s (core * 16 + slot) else s)

/-- The address of the first part of a request that a test picks. -/
def Req.pick (r : Req) (f : Nat → Bool) : Option Word := (r.parts.find? fun p => f p.loc).map (·.va)

/-- 1 ms has passed since a thread's issue (R28). -/
def waited (s : State) (t : Thread) : Bool := decide (t.lastIssue.getD t.readyAt + oneMs ≤ s.now)

/-- The address of a thread's request, message or push that cannot be delivered on any path and has waited 1 ms (R28): none once its
packets have been delivered. -/
def undelivered (s : State) (core : Nat) (t : Thread) : Option Word :=
  if ¬waited s t then none
  else match t.park with
    | some (.access r) => r.pick fun l => reachable s l && ((Park.access r).cutOff s core t).contains (nodeOf s l)
    | some (.remote r) => r.pick fun l => reachable s l && ((Park.remote r).cutOff s core t).contains (nodeOf s l)
    -- each attempt of a SEND is a packet of its own
    | some (.send m n due b) =>
      if due + oneMs ≤ s.now ∧ (Park.send m n due b).cutOff s core t ≠ [] then some 0 else none
    | some (.push m p since n) => if (Park.push m p since n).cutOff s core t ≠ [] then some 0 else none
    | _ => none

/-- The thread in slot `k` meets R28: its request is not performed, and it consumes an error. -/
def timeOut (s : State) (k : Nat) (t : Thread) : State :=
  match undelivered s (k / 16) t with
  | some va =>
    match t.park with
    -- the push is not performed: its count is withdrawn with it
    | some (.push _ p _ _) => consumeError s k t (p.item.bits.extractLsb' 0 64)
    | _ => consumeError s k t va
  | none => s

/-- A request that cannot be delivered (R28). -/
def execRequestTimeout (core slot : Nat) (s : State) : Host.Outcome State Fault Refusal :=
  match s.threadIn core slot with
  | some t => .next (timeOut s (core * 16 + slot) t)
  | none => .next s

/-- A CXL device that has not responded within 1 ms (R67). -/
def execCxlDeviceTimeout (core slot : Nat) (s : State) : Host.Outcome State Fault Refusal :=
  atPark core slot s fun t p => match p with
    | .access r =>
      match r.pick fun l => decide (Place.tier l = .cxl) with
      | some va => if waited s t then consumeError s (core * 16 + slot) t va else s
      | none => s
    | _ => s

/-! ### WAITA on CXL memory (R241) -/

/-- The home reads the word of a parked WAITA again: it differs, it is poisoned, or the thread stays parked. -/
def rereadWaita (s : State) (k : Nat) (t : Thread) : State :=
  match t.park with
  | some (.home ⟨.waita d e, p :: _, _⟩ _) =>
    if s.poisonIn p.loc 8 then consumeError s k t p.va
    else
      -- its own deferred store to the word is what it finds there (R276)
      let w := wordOf (ownView s t p.loc 8)
      if w ≠ e then deliverG s k t d w else s
  | _ => s

/-- A thread parked in WAITA on a CXL word, with the word's place and the scope. -/
def cxlWaita (t : Thread) : Option (Nat × Option (BitVec 4)) :=
  match t.park with
  | some (.home ⟨.waita _ _, p :: _, sc⟩ _) => if Place.tier p.loc = .cxl then some (p.loc, sc) else none
  | _ => none

def execWaitaReread (core slot : Nat) (s : State) : Host.Outcome State Fault Refusal :=
  atPark core slot s fun t _ => if (cxlWaita t).isSome then rereadWaita s (core * 16 + slot) t else s

/-- Threads whose WAITA at .sy waits on one of the lines of `[p, p + n)`. -/
def snooped (s : State) (p n : Nat) : List Nat :=
  s.residents.filterMap fun e => match cxlWaita e.2 with
    | some (loc, sc) => if sc = some 8 ∧ (State.touchedUnits p n).contains (loc / 64) then some e.1 else none
    | none => none

/-- A host write to back-invalidate CXL memory of this module. -/
def execHostWriteBackInvalidate (addr : Nat) (bytes : List (BitVec 8)) (s : State) : Host.Outcome State Fault Refusal :=
  let p := Place.cxl s.modNum addr
  let s1 := (serveFirst s [(p, bytes.length)]).write p bytes
  .next ((snooped s p bytes.length).foldl (fun s k => match NatMap.get s.slots k .empty with
    | .busy t => rereadWaita s k t
    | _ => s) s1)

/-! ### Pushes and messages -/

def execParkedPushRetry (core slot : Nat) (s : State) : Host.Outcome State Fault Refusal :=
  atPark core slot s fun t p => match p with
    | .push m x _ _ => if p.arrived s core t then retryPush s (core * 16 + slot) t m x else s
    | _ => s

def execPushTimeout (core slot : Nat) (s : State) : Host.Outcome State Fault Refusal :=
  atPark core slot s fun t p => match p with
    | .push m x since _ =>
      if (pushDeadline s m x since).any fun due => decide (due ≤ s.now) then timeoutPush s (core * 16 + slot) t m x else s
    | _ => s

def execSendRetryAttempt (core slot : Nat) (s : State) : Host.Outcome State Fault Refusal :=
  atPark core slot s fun t p => match p with
    | .send m n due true =>
      if due ≤ s.now ∧ p.arrived s core t ∧ ¬s.blocked t.uid then
        attemptSend s (core * 16 + slot) t m n
      else s
    | _ => s

/-! ### Copies, products and rotations -/

/-- A command completes, after the requests that have reached the homes of its bytes before it (R238). -/
def execCopyComplete (n : Nat) (s : State) : Host.Outcome State Fault Refusal :=
  .next (finishCopy (serveFirst s ((s.copies[n]?).elim [] fun c => c.reads ++ c.writes)) n)

/-- The oldest product of a core's matrix unit is complete, and its residues are checked (R400): a failure is consumed by
the thread that issued it. -/
def execMatrixProductComplete (core : Nat) (residueFails : Bool) (s : State) : Host.Outcome State Fault Refusal :=
  match (s.core core).products with
  | [] => .next s
  | _ => .next (advanceRotations (finishProduct s core residueFails) core)

/-- The rotation that waits for a core's buffer takes it once it is empty (R402 step 3). -/
def serveHandoff (s : State) (core : Nat) : State :=
  if (s.core core).rotation.isSome then s
  else
    let waiting (e : Nat × Thread) : Bool := decide (e.1 / 16 = core) && match e.2.park with
      | some (.handoff _) => true
      | _ => false
    match s.residents.find? waiting with
    | some (k, t) => match t.park with
      | some (.handoff h) => rotateNext s k t h
      | _ => s
    | none => s

/-- The halves of a rotation that can be delivered are (R402). -/
def deliverRotation (s : State) (core : Nat) : State :=
  let half (s : State) (ok : Rotation → Bool) (f : State → Nat → Rotation → State) : State :=
    match (s.core core).rotation with
    | some r => if ok r then f s core r else s
    | none => s
  let s1 := half s (fun r => !r.aSent && aEmpty s (westOf r.cluster core) r.aOff) deliverA
  let s2 := half s1 (fun r => !r.bSent && bNoneReady s1 (northOf r.cluster core) r.bOff) deliverB
  serveHandoff (clearRotation s2 core) core

def execRotationDelivery (core : Nat) (s : State) : Host.Outcome State Fault Refusal := .next (deliverRotation s core)

/-! ### Sleep (R152) -/

def execCoreSleep (core : Nat) (s : State) : Host.Outcome State Fault Refusal :=
  .next (if (sleepDue s core).any fun due => decide (due ≤ s.now) then
    s.modCore core fun c => { c with asleep := sleepDepth s core } else s)

/-! ### System registers -/

def execWlcfgWrite (wl : Nat) (value : BitVec 64) (s : State) : Host.Outcome State Fault Refusal :=
  .next (if wl < 64 then writeWlcfg s wl value else s)

def execWlspillWrite (wl : Nat) (value : BitVec 64) (s : State) : Host.Outcome State Fault Refusal :=
  .next (if wl < 64 then writeWlspill s wl value else s)

def execClmapWrite (die : Nat) (value : BitVec 64) (s : State) : Host.Outcome State Fault Refusal :=
  .next (if die < 8 then writeClmap s (s.modNum * 8 + die) value else s)

def execSlotresWrite (n : Nat) (value : BitVec 64) (s : State) : Host.Outcome State Fault Refusal :=
  .next (if n < 4 then writeSlotres s n value else s)

/-- The write that a SYSW of the thread in a slot makes (R446). -/
def execSystemRegisterWrite (core slot : Nat) (reg : BitVec 6) (index value : BitVec 64) (s : State) :
    Host.Outcome State Fault Refusal :=
  match s.threadIn core slot with
  | some t =>
    if indexOk reg.toNat index ∧ reg.toNat ≤ 42 then
      let r := writeReg s core t reg.toNat index value
      .next (r.1.setThread core slot r.2)
    else .next s
  | none => .next s

end Sys2Proof.Machine
end

