-- ==== Sys2Proof/Machine/Integer.lean ====
section
/-!
DEFINITION. Register arithmetic, multiplication and division, and the immediate forms (R318 to R329).
-/
namespace Sys2Proof.Machine

/-! ### Results (R323, R325) -/

/-- 1 or 0. -/
def flagWord (b : Bool) : Word := if b then 1 else 0

/-- The shift amount b[5:0]. -/
def shiftCount (b : Word) : Nat := (b.extractLsb' 0 6).toNat

/-- Leading zero bits. -/
def leadingZeros (a : Word) : Nat := if a = 0 then 64 else 63 - Nat.log2 a.toNat

/-- Trailing zero bits: the place of the lowest set bit. -/
def trailingZeros (a : Word) : Nat := ((List.range 64).find? fun i => a.getLsbD i).getD 64

/-- Set bits. -/
def onesCount (a : Word) : Nat := (List.range 64).countP fun i => a.getLsbD i

/-- Bits of SEXT and ZEXT by their width field (R322). -/
def extWidth (w : BitVec 2) : Nat := 8 * 2 ^ w.toNat

def signExt (w : BitVec 2) (a : Word) : Word := BitVec.ofInt 64 (signedLane (extWidth w) (a.toNat % 2 ^ extWidth w))

def zeroExt (w : BitVec 2) (a : Word) : Word := BitVec.ofNat 64 (a.toNat % 2 ^ extWidth w)

/-- DIV: truncated, clamped; by zero the end of the range on the dividend's side (R325). -/
def divSigned (a b : Word) : Word :=
  if b = 0 then (if 0 ≤ a.toInt then 0x7FFF_FFFF_FFFF_FFFF else 0x8000_0000_0000_0000)
  else
    let q := a.toInt.tdiv b.toInt
    if 2 ^ 63 ≤ q then 0x7FFF_FFFF_FFFF_FFFF else BitVec.ofInt 64 q

def divUnsigned (a b : Word) : Word := if b = 0 then BitVec.allOnes 64 else BitVec.ofNat 64 (a.toNat / b.toNat)

/-- REM: the dividend less the divisor times the exact truncated quotient. -/
def remSigned (a b : Word) : Word := if b = 0 then a else BitVec.ofInt 64 (a.toInt - b.toInt * a.toInt.tdiv b.toInt)

def remUnsigned (a b : Word) : Word := if b = 0 then a else BitVec.ofNat 64 (a.toNat % b.toNat)

/-- Bits [127:64] of an exact product. -/
def highHalf (p : Int) : Word := BitVec.ofInt 64 (p / 2 ^ 64)

/-! ### Shapes -/

/-- A result of two g sources (R318, R319). -/
def twoSource (i : Instr) (d a b : BitVec 5) (f : Word → Word → Word) : State → Host.Outcome State Fault Refusal :=
  run i fun s t => withSources s t [a, b] [] fun s t => retG s t d (f (t.gVal a) (t.gVal b))

/-- A result of one g source. -/
def oneSource (i : Instr) (d a : BitVec 5) (f : Word → Word) : State → Host.Outcome State Fault Refusal :=
  run i fun s t => withSources s t [a] [] fun s t => retG s t d (f (t.gVal a))

/-- A result that takes the divider: the thread parks until it is written (R320, R135). -/
def divideShape (i : Instr) (d a b : BitVec 5) (f : Word → Word → Word) : State → Host.Outcome State Fault Refusal :=
  run i fun s t => withSources s t [a, b] [] fun s t => .ok (.parked s t (.divide d (f (t.gVal a) (t.gVal b)) 0))

/-- A result of one source and an immediate under HIMM (R326, R305). -/
def immShape (i : Instr) (d a : BitVec 5) (imm : Option (BitVec 24) → Word) (f : Word → Word → Word) :
    State → Host.Outcome State Fault Refusal :=
  run i fun s t => withSources s t [a] [] fun s t => retG s t d (f (t.gVal a) (imm t.himm))

/-! ### INT (R322, R323) -/

def execAdd (d a b : BitVec 5) : State → Host.Outcome State Fault Refusal :=
  twoSource (.add d a b) d a b fun x y => x + y
def execSub (d a b : BitVec 5) : State → Host.Outcome State Fault Refusal :=
  twoSource (.sub d a b) d a b fun x y => x - y
def execAnd (d a b : BitVec 5) : State → Host.Outcome State Fault Refusal :=
  twoSource (.and d a b) d a b fun x y => x &&& y
def execOr (d a b : BitVec 5) : State → Host.Outcome State Fault Refusal :=
  twoSource (.or d a b) d a b fun x y => x ||| y
def execXor (d a b : BitVec 5) : State → Host.Outcome State Fault Refusal :=
  twoSource (.xor d a b) d a b fun x y => x ^^^ y
def execAndn (d a b : BitVec 5) : State → Host.Outcome State Fault Refusal :=
  twoSource (.andn d a b) d a b fun x y => x &&& ~~~y
def execOrn (d a b : BitVec 5) : State → Host.Outcome State Fault Refusal :=
  twoSource (.orn d a b) d a b fun x y => x ||| ~~~y
def execShl (d a b : BitVec 5) : State → Host.Outcome State Fault Refusal :=
  twoSource (.shl d a b) d a b fun x y => x <<< shiftCount y
def execShr (d a b : BitVec 5) : State → Host.Outcome State Fault Refusal :=
  twoSource (.shr d a b) d a b fun x y => x >>> shiftCount y
def execSra (d a b : BitVec 5) : State → Host.Outcome State Fault Refusal :=
  twoSource (.sra d a b) d a b fun x y => x.sshiftRight (shiftCount y)
def execRol (d a b : BitVec 5) : State → Host.Outcome State Fault Refusal :=
  twoSource (.rol d a b) d a b fun x y => x.rotateLeft (shiftCount y)
def execSlt (d a b : BitVec 5) : State → Host.Outcome State Fault Refusal :=
  twoSource (.slt d a b) d a b fun x y => flagWord (decide (x.toInt < y.toInt))
def execSltu (d a b : BitVec 5) : State → Host.Outcome State Fault Refusal :=
  twoSource (.sltu d a b) d a b fun x y => flagWord (decide (x.toNat < y.toNat))
def execSeq (d a b : BitVec 5) : State → Host.Outcome State Fault Refusal :=
  twoSource (.seq d a b) d a b fun x y => flagWord (decide (x = y))
def execMin (d a b : BitVec 5) : State → Host.Outcome State Fault Refusal :=
  twoSource (.min d a b) d a b fun x y => if x.toInt < y.toInt then x else y
def execMax (d a b : BitVec 5) : State → Host.Outcome State Fault Refusal :=
  twoSource (.max d a b) d a b fun x y => if x.toInt < y.toInt then y else x
def execMinz (d a b : BitVec 5) : State → Host.Outcome State Fault Refusal :=
  twoSource (.minz d a b) d a b fun x y => if x.toNat < y.toNat then x else y
def execMaxz (d a b : BitVec 5) : State → Host.Outcome State Fault Refusal :=
  twoSource (.maxz d a b) d a b fun x y => if x.toNat < y.toNat then y else x
def execClz (d a : BitVec 5) : State → Host.Outcome State Fault Refusal :=
  oneSource (.clz d a) d a fun x => BitVec.ofNat 64 (leadingZeros x)
def execCtz (d a : BitVec 5) : State → Host.Outcome State Fault Refusal :=
  oneSource (.ctz d a) d a fun x => BitVec.ofNat 64 (trailingZeros x)
def execPopc (d a : BitVec 5) : State → Host.Outcome State Fault Refusal :=
  oneSource (.popc d a) d a fun x => BitVec.ofNat 64 (onesCount x)
def execSext (d a : BitVec 5) (w : BitVec 2) : State → Host.Outcome State Fault Refusal :=
  oneSource (.sext d a w) d a (signExt w)
def execZext (d a : BitVec 5) (w : BitVec 2) : State → Host.Outcome State Fault Refusal :=
  oneSource (.zext d a w) d a (zeroExt w)

/-! ### MULDIV (R324, R325) -/

def execMul (d a b : BitVec 5) : State → Host.Outcome State Fault Refusal :=
  twoSource (.mul d a b) d a b fun x y => x * y
def execDiv (d a b : BitVec 5) : State → Host.Outcome State Fault Refusal :=
  divideShape (.div d a b) d a b divSigned
def execDivz (d a b : BitVec 5) : State → Host.Outcome State Fault Refusal :=
  divideShape (.divz d a b) d a b divUnsigned
def execRem (d a b : BitVec 5) : State → Host.Outcome State Fault Refusal :=
  divideShape (.rem d a b) d a b remSigned
def execRemz (d a b : BitVec 5) : State → Host.Outcome State Fault Refusal :=
  divideShape (.remz d a b) d a b remUnsigned
def execMulh (d a b : BitVec 5) : State → Host.Outcome State Fault Refusal :=
  twoSource (.mulh d a b) d a b fun x y => highHalf (x.toInt * y.toInt)
def execMulhz (d a b : BitVec 5) : State → Host.Outcome State Fault Refusal :=
  twoSource (.mulhz d a b) d a b fun x y => highHalf ((x.toNat : Int) * (y.toNat : Int))
def execMulhsz (d a b : BitVec 5) : State → Host.Outcome State Fault Refusal :=
  twoSource (.mulhsz d a b) d a b fun x y => highHalf (x.toInt * (y.toNat : Int))

/-! ### Immediate forms (R326 to R329) -/

def execAddi (d a : BitVec 5) (i : BitVec 16) : State → Host.Outcome State Fault Refusal :=
  immShape (.addi d a i) d a (fun h => immSigned h i) fun x y => x + y
def execSlti (d a : BitVec 5) (i : BitVec 16) : State → Host.Outcome State Fault Refusal :=
  immShape (.slti d a i) d a (fun h => immSigned h i) fun x y => flagWord (decide (x.toInt < y.toInt))
def execSltiu (d a : BitVec 5) (i : BitVec 16) : State → Host.Outcome State Fault Refusal :=
  immShape (.sltiu d a i) d a (fun h => immSigned h i) fun x y => flagWord (decide (x.toNat < y.toNat))
def execAndi (d a : BitVec 5) (i : BitVec 16) : State → Host.Outcome State Fault Refusal :=
  immShape (.andi d a i) d a (fun h => immZero h i) fun x y => x &&& y
def execOri (d a : BitVec 5) (i : BitVec 16) : State → Host.Outcome State Fault Refusal :=
  immShape (.ori d a i) d a (fun h => immZero h i) fun x y => x ||| y
def execXori (d a : BitVec 5) (i : BitVec 16) : State → Host.Outcome State Fault Refusal :=
  immShape (.xori d a i) d a (fun h => immZero h i) fun x y => x ^^^ y
def execShli (d a : BitVec 5) (n : BitVec 6) : State → Host.Outcome State Fault Refusal :=
  oneSource (.shli d a n) d a fun x => x <<< n.toNat
def execShri (d a : BitVec 5) (n : BitVec 6) : State → Host.Outcome State Fault Refusal :=
  oneSource (.shri d a n) d a fun x => x >>> n.toNat
def execSrai (d a : BitVec 5) (n : BitVec 6) : State → Host.Outcome State Fault Refusal :=
  oneSource (.srai d a n) d a fun x => x.sshiftRight n.toNat
def execRoli (d a : BitVec 5) (n : BitVec 6) : State → Host.Outcome State Fault Refusal :=
  oneSource (.roli d a n) d a fun x => x.rotateLeft n.toNat
def execLdhi (d : BitVec 5) (i : BitVec 16) : State → Host.Outcome State Fault Refusal :=
  run (.ldhi d i) fun s t => retG s t d (immLdhi t.himm i)
def execAddpc (d : BitVec 5) (i : BitVec 16) : State → Host.Outcome State Fault Refusal :=
  run (.addpc d i) fun s t => retG s t d (t.pc.zeroExtend 64 + immSigned t.himm i)

/-- A division's result for a g register: waiting for POUT, it leaves the instruction to be executed again if it is
withdrawn (R143, R257), and its flags come with it (R368). -/
def divided (s : State) (k : Nat) (t : Thread) (d : BitVec 5) (w : Word) (f : FlagSet) : State :=
  match writeG s (k / 16) t d w with
  | .ok (s1, t1) => ({ s1 with slots := NatMap.set s1.slots k (.busy (t1.flagged f).advance) }).wake k
  | .error (.park p) => parkIn s k { t with late := f } p
  | .error e => stopIn s k t e

/-- The divider's result (R135): the parked thread gets it, with its flags, or their trap (R208). -/
def execDivideResultWritten (core slot : Nat) (s : State) : Host.Outcome State Fault Refusal :=
  let k := core * 16 + slot
  match s.threadIn core slot with
  | none => .next s
  | some t =>
    match t.park with
    | some (.divide d v f) =>
      match t.raise f with
      | .ok _ => .next (divided s k t d v f)
      | .error e => .next (stopIn s k t e)
    | some (.vdivide d v f) =>
      match t.raise f with
      | .ok t1 => .next (deliver s k t1 (.v d.toNat v))
      | .error e => .next (stopIn s k t e)
    | _ => .next s

end Sys2Proof.Machine
end

