-- ==== Sys2Proof/Machine/Float.lean ====
section
/-!
DEFINITION. Scalar floating point (R371 to R374).
-/
namespace Sys2Proof.Machine

/-- The format of a precision field (R371): f32 or f64. -/
def fpFmt (p : BitVec 1) : Nat := if p = 1 then 1 else 2

/-- A float operand: its low bits in a g register. -/
def fpBits (p : BitVec 1) (w : Word) : Nat := w.toNat % 2 ^ fmtWidth (fpFmt p)

def fpVal (p : BitVec 1) (w : Word) : Exact := decodeFloat (floatFmt (fpFmt p)) (fpBits p w)

/-- A result of two float sources, rounded by the rounding field (R371). -/
def fpArith (i : Instr) (d a b : BitVec 5) (r : BitVec 3) (p : BitVec 1) (f : Exact → Exact → Exact) :
    State → Host.Outcome State Fault Refusal :=
  run i fun s t => withSources s t [a, b] [] fun s t =>
    let x := roundTo (fpFmt p) (t.mode r) (f (fpVal p (t.gVal a)) (fpVal p (t.gVal b)))
    retFlagsG s t d (BitVec.ofNat 64 x.1) x.2

def execFadd (d a b : BitVec 5) (r : BitVec 3) (p : BitVec 1) : State → Host.Outcome State Fault Refusal :=
  fpArith (.fadd d a b r p) d a b r p fun x y => x.add y
def execFsub (d a b : BitVec 5) (r : BitVec 3) (p : BitVec 1) : State → Host.Outcome State Fault Refusal :=
  fpArith (.fsub d a b r p) d a b r p fun x y => x.add y.neg
def execFmul (d a b : BitVec 5) (r : BitVec 3) (p : BitVec 1) : State → Host.Outcome State Fault Refusal :=
  fpArith (.fmul d a b r p) d a b r p fun x y => x.mul y

/-- FDIV (R371): the thread parks until the result is written (R369). -/
def execFdiv (d a b : BitVec 5) (r : BitVec 3) (p : BitVec 1) : State → Host.Outcome State Fault Refusal :=
  run (.fdiv d a b r p) fun s t => withSources s t [a, b] [] fun s t =>
    let q := fpDiv (fpVal p (t.gVal a)) (fpVal p (t.gVal b))
    let x := roundTo (fpFmt p) (t.mode r) q.1
    .ok (.parked s t (.divide d (BitVec.ofNat 64 x.1) (x.2 ||| q.2)))

/-- FSQRT (R371). -/
def execFsqrt (d a : BitVec 5) (r : BitVec 3) (p : BitVec 1) : State → Host.Outcome State Fault Refusal :=
  run (.fsqrt d a r p) fun s t => withSources s t [a] [] fun s t =>
    let x := roundTo (fpFmt p) (t.mode r) (fpSqrt (fpVal p (t.gVal a)))
    .ok (.parked s t (.divide d (BitVec.ofNat 64 x.1) x.2))

/-- A code that does not round (R372): bits and flags from the operands' bits. -/
def fpBitsOp (i : Instr) (d a b : BitVec 5) (p : BitVec 1) (f : Nat → Nat → Nat × FlagSet) :
    State → Host.Outcome State Fault Refusal :=
  run i fun s t => withSources s t [a, b] [] fun s t =>
    let x := f (fpBits p (t.gVal a)) (fpBits p (t.gVal b))
    retFlagsG s t d (BitVec.ofNat 64 x.1) x.2

def execFmin (d a b : BitVec 5) (p : BitVec 1) : State → Host.Outcome State Fault Refusal :=
  fpBitsOp (.fmin d a b p) d a b p fun x y => fpMinMax (fpFmt p) false x y
def execFmax (d a b : BitVec 5) (p : BitVec 1) : State → Host.Outcome State Fault Refusal :=
  fpBitsOp (.fmax d a b p) d a b p fun x y => fpMinMax (fpFmt p) true x y

/-- A comparison's 1 or 0 with its flags (R372). -/
def compareBits (p : BitVec 1) (c : FpCond) (x y : Nat) : Nat × FlagSet :=
  let r := fpCompare (fpFmt p) c x y
  (if r.1 then 1 else 0, r.2)

def execFeq (d a b : BitVec 5) (p : BitVec 1) : State → Host.Outcome State Fault Refusal :=
  fpBitsOp (.feq d a b p) d a b p (compareBits p .eq)
def execFlt (d a b : BitVec 5) (p : BitVec 1) : State → Host.Outcome State Fault Refusal :=
  fpBitsOp (.flt d a b p) d a b p (compareBits p .lt)
def execFle (d a b : BitVec 5) (p : BitVec 1) : State → Host.Outcome State Fault Refusal :=
  fpBitsOp (.fle d a b p) d a b p (compareBits p .le)
def execFclass (d a : BitVec 5) (p : BitVec 1) : State → Host.Outcome State Fault Refusal :=
  run (.fclass d a p) fun s t => withSources s t [a] [] fun s t =>
    retG s t d (BitVec.ofNat 64 (fpClass (fpFmt p) (fpBits p (t.gVal a))))
def execFsgn (d a b : BitVec 5) (p : BitVec 1) : State → Host.Outcome State Fault Refusal :=
  fpBitsOp (.fsgn d a b p) d a b p fun x y => (fpSign (fpFmt p) x y, 0)

/-- A conversion between the formats of codes `src` and `dst` (R373, R209). -/
def fpConvert (i : Instr) (d a : BitVec 5) (r : BitVec 3) (src dst : Nat) : State → Host.Outcome State Fault Refusal :=
  run i fun s t => withSources s t [a] [] fun s t =>
    let x := convert src dst false (t.mode r) ((t.gVal a).toNat % 2 ^ fmtWidth src) []
    retFlagsG s t d (BitVec.ofNat 64 x.1) x.2

/-- FCVT.d reads f32 and FCVT.s reads f64 (R373). -/
def execFcvt (d a : BitVec 5) (r : BitVec 3) (p : BitVec 1) : State → Host.Outcome State Fault Refusal :=
  fpConvert (.fcvt d a r p) d a r (if p = 1 then 2 else 1) (fpFmt p)
def execFcvti (d a : BitVec 5) (r : BitVec 3) (p : BitVec 1) : State → Host.Outcome State Fault Refusal :=
  fpConvert (.fcvti d a r p) d a r (fpFmt p) 13
def execIcvtf (d a : BitVec 5) (r : BitVec 3) (p : BitVec 1) : State → Host.Outcome State Fault Refusal :=
  fpConvert (.icvtf d a r p) d a r 13 (fpFmt p)

/-- A fused multiply-add (R374): the product exact, one rounding. -/
def fmaShape (i : Instr) (d a b c : BitVec 5) (r : BitVec 3) (p : BitVec 1) (f : Exact → Exact → Exact) :
    State → Host.Outcome State Fault Refusal :=
  run i fun s t => withSources s t [a, b, c] [] fun s t =>
    let x := roundTo (fpFmt p) (t.mode r) (f ((fpVal p (t.gVal a)).mul (fpVal p (t.gVal b))) (fpVal p (t.gVal c)))
    retFlagsG s t d (BitVec.ofNat 64 x.1) x.2

def execFma (d a b c : BitVec 5) (r : BitVec 3) (p : BitVec 1) : State → Host.Outcome State Fault Refusal :=
  fmaShape (.fma d a b c r p) d a b c r p fun x y => x.add y
def execFms (d a b c : BitVec 5) (r : BitVec 3) (p : BitVec 1) : State → Host.Outcome State Fault Refusal :=
  fmaShape (.fms d a b c r p) d a b c r p fun x y => x.add y.neg
def execFnma (d a b c : BitVec 5) (r : BitVec 3) (p : BitVec 1) : State → Host.Outcome State Fault Refusal :=
  fmaShape (.fnma d a b c r p) d a b c r p fun x y => x.neg.add y

end Sys2Proof.Machine
end

