-- ==== Sys2Proof/Machine/Gang.lean ====
section
/-!
DEFINITION. Gangs and jobs (R118, R427 to R433): GBAR, GEXIT, JOPEN, JWAIT and JSUCC.
-/
namespace Sys2Proof.Machine

/-! ### Gangs -/

/-- The thread in the issuing slot arrives at its gang's barrier (R428). -/
def arrive (s : State) (t : Thread) (g : Gang) : State :=
  let s1 := parkIn (s.drainOf t.uid) (s.cur.1 * 16 + s.cur.2) t .gbar
  tryDepart (s1.setGang t.gang.toNat { g with arrived := insertNat g.arrived t.index.toNat }) t.gang.toNat

def execGbar : State → Host.Outcome State Fault Refusal :=
  run .gbar fun s t =>
    if t.inRegion then .error (illegal .gbar)
    else
      match s.gang? t.gang.toNat with
      -- a thread placed without a gang is alone
      | none => released s t (.ok (.next (s.drainOf t.uid) t))
      | some g => check (!t.atLastWord) fallsOff (released s t (.ok (.gone (arrive s t g))))

/-- What a thread leaves behind when it ends: the header of its undo area written, and the accumulators as they stand (R269,
R466). -/
def leaveBehind (s : State) (k : Nat) (t : Thread) : State :=
  (writeHeader s (k / 16) t).modCore (k / 16) fun c =>
    { c with leftAcc := if t.acc = [] then c.leftAcc else NatMap.set c.leftAcc (k % 16) t.acc }

/-- A thread of the gang has ended by GEXIT (R428). -/
def noteExit (s : State) (g : Nat) : State := (s.gang? g).elim s fun x => s.setGang g { x with exited := true }

/-- The thread in slot `k` ends by GEXIT (R429, R116): its slots, a pair's two, stay taken until its gang retires. -/
def exitThread (s : State) (k : Nat) (t : Thread) : State :=
  let g := t.gang.toNat
  let left : Slot := if (s.gang? g).isSome then .retiring g else .empty
  let s0 := leaveBehind (s.drainOf t.uid) k t
  let slots := s0.slots.map fun e => if e.1 = k ∨ e.2 = .trailing k then (e.1, left) else e
  let s1 := abandonRegions ({ s0 with slots := slots }.leave (k / 16)) (k / 16) t
  leaveGang (noteExit (chargeStay s1 t) g) t

def execGexit : State → Host.Outcome State Fault Refusal :=
  run .gexit fun s t =>
    if t.inRegion then .error (illegal .gexit)
    else if (s.core s.cur.1).products.any fun p => decide (p.owner = t.uid) then .error (.park (.retry (.products .own)))
    else if hasCommands s s.cur.1 t.uid then .error (.park (.retry .commands))
    else released s t (.ok (.gone (exitThread s (s.cur.1 * 16 + s.cur.2) t)))

/-! ### Jobs -/

/-- An area that a job names, mapped and writable in a space with its privilege (R118, R432), asked for by the thread's core: its
place; a page wait where its page is away. -/
def areaPlace (s : State) (t : Thread) (asid : BitVec 8) (sv : Bool) (va operand : Word) : Except Stop Nat :=
  let asker : Thread := { t with asid := asid, sv := sv }
  match targetOf s.cur.1 s.pod va with
  | some .paged =>
    match walk s asid va ⟨false, true, sv⟩ with
    | .page tr => .ok (tr.place va)
    | .wait page _ _ => .error (.park (.retry (.page asid page)))
    | .fault _ => .error (.trap 3 operand)
    | .poisoned => .error (.error operand)
  | some (.localMem c off _) =>
    if (admitPart s s.cur.1 asker false true ⟨va, Place.lm c off, 64, [], 0⟩).toBool then .ok (Place.lm c off)
    else .error (.trap 3 operand)
  | some (.tileStore d off _) =>
    if (admitPart s s.cur.1 asker false true ⟨va, Place.tile d off, 64, [], 0⟩).toBool then .ok (Place.tile d off)
    else .error (.trap 3 operand)
  | _ => .error (.trap 3 operand)

/-- A page wait whose page is to be moved in (R170): the move is under way when the thread parks. -/
def startWait (s : State) (asid : BitVec 8) (va : Word) : State :=
  match walk s asid va ⟨false, true, true⟩ with
  | .wait page entry old => startMove (countWalk s asid va) asid page entry old
  | _ => s

/-- The module-wide address of an address in own local memory (R156): the record of a job outlives its opener. -/
def wideAddress (core : Nat) (va : Word) : Word :=
  if va.toNat < 0x8_0000 then BitVec.ofNat 64 (0x100_0000_0000 + core % 1024 * 0x8_0000 + va.toNat) else va

/-- A descriptor's limits (R118). -/
def descriptorOk (d : List Byte) : Bool :=
  let scope := (d.getD 18 0).toNat
  decide (ofBytes (d.take 8) % 64 = 0) && decide (ofBytes ((d.drop 8).take 8) % 64 = 0) &&
    (decide (scope = 0) || (decide (5 ≤ scope) && decide (scope ≤ 8))) && decide ((d.getD 19 0).toNat ≤ 1) &&
    decide (ofBytes (d.drop 20) = 0)

/-- A job's state as JOPEN sets it (R430, R119). -/
def openedJob (core : Nat) (t : Thread) (d : List Byte) : Job :=
  let scope := (d.getD 18 0).toNat
  { Job.free with
    live := true, count := 1
    record := wideAddress core (wordOf (d.take 8)), table := wordOf ((d.drop 8).take 8)
    ntempl := ofBytes ((d.drop 16).take 2)
    scope := if scope = 0 then 5 else BitVec.ofNat 4 scope
    pod := decide ((d.getD 19 0).toNat = 1)
    asid := t.asid, sv := t.sv
    opener := some (t.gang.toNat, t.index.toNat), refHeld := true }

/-- Job numbers that are free (R118). -/
def freeNumbers (s : State) : List Nat :=
  (List.range 4096).filter fun j =>
    let x := s.job j
    !x.live && !x.kept && decide (x.flushing = []) && !s.todo.contains (.record j)

/-- JOPEN with its descriptor read (R430). -/
def openJob (s : State) (t : Thread) (d : BitVec 5) (va : Word) (desc : List Byte) : Except Stop Eff :=
  let core := s.cur.1
  let record := wordOf (desc.take 8)
  check (descriptorOk desc) (.trap 3 va) <|
  match areaPlace s t t.asid t.sv record va with
  | .error (.park p) => .ok (.parked (startWait s t.asid record) t p)
  | .error e => .error e
  | .ok loc =>
    check (Place.hasFullBits loc) (.trap 3 va) <|
    released s t <|
    let free := freeNumbers s
    let c := s.choose free.length
    match free[c.1]? with
    | none => .error (.park (.retry .jobNumber))
    | some j =>
      let s1 := walkMark (c.2.drainOf t.uid) t.asid record ⟨false, true, t.sv⟩ true
      let s2 := serve ((s1.setJob j (openedJob core t desc)).setFull loc false) loc
      -- DONE has been emptied as by EMPTY: in a handler its thread's open regions take it up (R252)
      retDone s2 (afterAccess s2 t [⟨record, loc, 8, [], 0⟩] false true) d (BitVec.ofNat 64 j)

/-- JOPEN with its descriptor read, which it keeps where it waits (R430). -/
def openDescribed (s : State) (t : Thread) (d : BitVec 5) (va : Word) (desc : List Byte) : Except Stop Eff :=
  keepIssue s t (.descriptor desc) (openJob s { t with atIssue := some (.descriptor desc) } d va desc)

def execJopen (d a : BitVec 5) : State → Host.Outcome State Fault Refusal :=
  run (.jopen d a) fun s t =>
    if t.inRegion then .error (illegal (.jopen d a))
    else
      withSources s t [a] [] fun s t =>
        let va := t.gVal a
        if va.toNat % 32 ≠ 0 then .error (.trap 2 va)
        else
          match t.atIssue with
          | some (.descriptor desc) => openDescribed s t d va desc
          | _ =>
            match resolve s s.cur.1 t true false false 32 32 [(0, va)] with
            | .error e => .error e
            | .ok spots =>
              let parts := spots.map Spot.part
              match sendReq s s.cur.1 t ⟨.fetch, parts, none⟩ with
              | .error e => .error e
              | .ok (.done s1 t1 (.again (.descriptor desc)) _) => openDescribed s1 t1 d va desc
              | .ok (.done s1 t1 _ _) => .ok (.next s1 t1)
              | .ok (.parked s1 t1 p) => .ok (.parked s1 t1 p)

/-- The wait of a JWAIT on DONE, as that of an LDO there (R431, R347): at once when the word is full, parked otherwise. What it
waits for before that, it waits for with the reference dropped. -/
def awaitDone (s : State) (t : Thread) (d : BitVec 5) (j : Nat) : Except Stop Eff :=
  let x := s.job j
  match resolve s s.cur.1 t true false true 8 8 [(0, x.record)] with
  | .error (.park p) => .ok (.parked s t p)
  | .error e => .error e
  | .ok spots =>
    match access s t ⟨.jwait j d, spots.map Spot.part, some x.scope⟩ with
    | .error (.park p) => .ok (.parked s t p)
    | r => r

def execJwait (d a : BitVec 5) : State → Host.Outcome State Fault Refusal :=
  run (.jwait d a) fun s t =>
    if t.inRegion then .error (illegal (.jwait d a))
    else
      withSources s t [a] [] fun s t =>
        let w := t.gVal a
        let j := w.toNat % 2 ^ 16
        let x := s.job j
        let mine := decide (x.opener = some (t.gang.toNat, t.index.toNat))
        if 2 ^ 16 ≤ w.toNat then .error (.trap 3 w)
        else if jobLive s j ∧ mine ∧ x.refHeld then
          awaitDone (countDown (s.setJob j { x with refHeld := false, waited := true }) j 1) t d j
        else if mine ∧ x.waited then awaitDone s t d j
        else .error (.trap 3 w)

/-- The hold word's layout (R432). -/
def holdFormed (h : Word) : Bool :=
  decide (bitsOf h.toNat 63 60 ≤ 12) && decide (bitsOf h.toNat 59 52 = 0) && decide (h.toNat % 64 = 0)

/-- The first addresses of the stretches of an area that are mapped each for itself: pages of 4 KiB and up, in the fixed region
the lines that windows count (R150). -/
def stretches (va : Word) (size : Nat) : List Word :=
  let step := if va.toNat < 0x2000_0000_0000 then 64 else 4096
  (List.range ((va.toNat % step + size + step - 1) / step)).map fun i =>
    if i = 0 then va else va + BitVec.ofNat 64 (step * i - va.toNat % step)

/-- The hold area is mapped and writable in the space of the successor, all of it. -/
def holdMapped (s : State) (t : Thread) (x : Job) (va operand : Word) (size : Nat) : Except Stop Unit :=
  match (stretches va size).mapM fun a => areaPlace s t x.asid x.sv a operand with
  | .error e => .error e
  | .ok _ => .ok ()

/-- The moves of the hold area's pages that are away. -/
def startHold (s : State) (asid : BitVec 8) (va : Word) (size : Nat) : State :=
  (stretches va size).foldl (fun s a => startWait s asid a) s

/-- The hold area's pages have been translated (R161). -/
def markHold (s : State) (x : Job) (va : Word) (size : Nat) : State :=
  (stretches va size).foldl (fun s a => walkMark s x.asid a ⟨false, true, x.sv⟩ false) s

/-- JSUCC (R432). -/
def execJsucc (d a b : BitVec 5) : State → Host.Outcome State Fault Refusal :=
  run (.jsucc d a b) fun s t =>
    if t.inRegion then .error (illegal (.jsucc d a b))
    else
      withSources s t [d, a, b] [] fun s t =>
        let succ := (t.gVal d).toNat % 2 ^ 16
        let pred := (t.gVal a).toNat % 2 ^ 16
        let h := t.gVal b
        let x := s.job succ
        if ¬jobLive s succ ∨ succ = pred ∨ isHeld x then .error (.trap 3 (t.gVal d))
        else if ¬jobLive s pred ∨ (s.job pred).count = 0 then .error (.trap 3 (t.gVal a))
        else if ¬holdFormed h then .error (.trap 3 h)
        else
          let cap := 2 ^ (bitsOf h.toNat 63 60 + 4)
          let va := (h.extractLsb' 0 52).signExtend 64
          match holdMapped s t x va h (32 * cap) with
          | .error (.park p) => .ok (.parked (startHold s x.asid va (32 * cap)) t p)
          | .error e => .error e
          | .ok _ =>
            .ok (.next ((markHold s x va (32 * cap)).setJob succ { x with
              pred := some pred, holdAddr := wideAddress s.cur.1 va, holdCap := cap, holding := [] }) t)

/-- The supervisor's forms (R433): privileged, illegal in a region, on a job whose items stay held. -/
def releaseShape (i : Instr) (d : BitVec 5) (f : State → Nat → Job → State) : State → Host.Outcome State Fault Refusal :=
  run i fun s t =>
    if ¬t.sv ∨ t.inRegion then .error (illegal i)
    else
      withSources s t [d] [] fun s t =>
        let j := (t.gVal d).toNat % 2 ^ 16
        let x := s.job j
        if x.stuck then .ok (.next (f s j x) t) else .error (.trap 3 (t.gVal d))

/-- A job whose hold has ended. -/
def unheld (x : Job) : Job := { x with pred := none, stuck := false, holding := [], holdCap := 0 }

def execJsuccRel (d : BitVec 5) : State → Host.Outcome State Fault Refusal :=
  releaseShape (.jsuccRel d) d fun s j x =>
    x.holding.foldl (fun s p => devicePush s { p with who := .jobTable }) (s.setJob j (unheld x))

def execJsuccDis (d : BitVec 5) : State → Host.Outcome State Fault Refusal :=
  releaseShape (.jsuccDis d) d fun s j x => countDown (s.setJob j (unheld x)) j x.holding.length

end Sys2Proof.Machine
end

