-- ==== Sys2Proof/Machine/Hbm.lean ====
section
/-!
DEFINITION. HBM and the harrow: transfers with their retries and repairs (R59 to R61),
the error logs with their notifications (R63 to R65), retirement candidates (R62), and scrubbing (R261).
-/
namespace Sys2Proof.Machine

/-! ### The error logs (R63 to R65) -/

/-- Bytes 8 to 23 of a record (R64). -/
def recordBody (addr stack channel lane kind attempts : Nat) : List Byte :=
  toBytes 8 addr ++ toBytes 1 stack ++ toBytes 1 channel ++ toBytes 1 lane ++ toBytes 1 kind ++ toBytes 4 attempts

/-- A record in the array log, or the transfer log, of the die of a stack; one of kind 2 or more is notified (R65). The die
keeps the number of records ever written (R64), from its reset on. -/
def logRecordOf (s : State) (transfer : Bool) (addr stack channel lane kind attempts : Nat) : State :=
  let die := stack / 3
  let d := s.die (s.modNum * 8 + die)
  let base := Place.hbm s.modNum (d.elogBase.toNat * 2 ^ 16 + if transfer then 0x8000 else 0)
  if d.elogEn ∧ reachable s base then
    let n := if transfer then d.transferRecords else d.arrayRecords
    let head := toBytes 8 n ++ recordBody addr stack channel lane kind attempts
    let s1 := (countTransfers s (base + 32 + 32 * (n % 1023)) 32).store (base + 32 + 32 * (n % 1023)) (head ++ List.replicate 8 0)
    let s2 := ((countTransfers s1 base 8).store base (toBytes 8 (n + 1))).modDie (s.modNum * 8 + die) fun x =>
      if transfer then { x with transferRecords := n + 1 } else { x with arrayRecords := n + 1 }
    if d.elogNote ∧ 2 ≤ kind then
      pushNote s2 d.elogWl.toNat (noteItem d.elogJob (BitVec.ofNat 192 (ofBytes head))) (.die die)
    else s2
  else s

/-- A finding of array ECC on the line at an address: kind 1 or 2, and the frame's kind 3 once (R59, R62). A frame lies in many
stacks and channels: its record names those of the transfer that makes it a candidate (DESIGN CHOICE, log entry 18). -/
def logArray (s : State) (pa : Nat) (uncorrectable : Bool) : State :=
  let stack := hbmStack pa
  let channel := hbmChannel pa
  let frame := pa / 0x2_0000
  let s1 := logRecordOf s false (pa / 64 * 64) stack channel 0xFF (if uncorrectable then 2 else 1) 0
  let f := NatMap.get s1.frames frame ([], false)
  let seen := if uncorrectable then f.1 else insertNat f.1 (pa / 64)
  if !f.2 ∧ (uncorrectable ∨ 4 ≤ seen.length) then
    logRecordOf { s1 with frames := NatMap.set s1.frames frame (seen, true) } false (frame * 0x2_0000) stack channel 0xFF 3 0
  else { s1 with frames := NatMap.set s1.frames frame (seen, f.2) }

/-! ### Transfers (R59 to R61) -/

/-- One more failure of a lane; at 3 it waits for the refresh interval, or there is no spare left for it (R61). -/
def failLane (pa : Nat) (s : State) (lane : Nat) : State :=
  let c := s.channel (channelAt pa)
  let addr := pa / 64 * 64
  let n := (NatMap.get c.failures lane (0, 0)).1 + 1
  let c1 := { c with failures := NatMap.set c.failures lane (n, addr) }
  if n ≠ 3 then s.setChannel (channelAt pa) c1
  else if c.due.length < c.spares then s.setChannel (channelAt pa) { c1 with due := c.due ++ [(lane, addr)] }
  else logRecordOf (s.setChannel (channelAt pa) c1) true addr (hbmStack pa) (hbmChannel pa) lane 4 0

/-- The data lanes that fail at attempt `i`: none where the list of attempts has ended. -/
def failingLanes (attempts : List (List Nat)) (i : Nat) : List Nat :=
  ((attempts.getD i []).filter fun l => decide (l < 64)).eraseDups

/-- A repair that is delivered to a thread is charged to its job (R60). -/
def chargeRepair (s : State) (job : Option Nat) : State :=
  match job with
  | some j => if jobLive s j then charge s j 1 .corrected else s
  | none => s

/-- What array ECC makes of an attempt that passes. -/
def decideEcc (s : State) (pa : Nat) (ecc : Ecc) (job : Option Nat) : State :=
  match ecc with
  | .clean => s
  | .corrected => chargeRepair (logArray s pa false) job
  | .uncorrectable => (logArray s pa true).setPoison (Place.hbm s.modNum pa)

/-- The lane that a transfer-log record names: one of those that failed first. -/
def namedLane (s : State) (attempts : List (List Nat)) : Nat × State :=
  let lanes := failingLanes attempts 0
  let c := s.choose lanes.length
  (lanes.getD c.1 0xFF, c.2)

/-- The thread whose request on its way reads a line, of the job where one is given. -/
def lineReader (s : State) (line : Nat) (job : Option Nat) : Option Thread :=
  (s.residents.find? fun e => (job.all fun j => decide (e.2.job.toNat = j)) && match e.2.park with
    | some (.access r) => r.op.needs.1 && r.spans.any fun x => (State.touchedUnits x.1 x.2).contains line
    | _ => false).map (·.2)

/-- 64 bytes delivered poisoned (R59, last row) to the request that reads them: a thread's, a copy's, or else the next read of a
walker, a device block or the host. Which of several requests in flight for one line gets them is not said; DESIGN CHOICE (log
entry 16): that of the first resident thread in the order of the slots, a copy's where no thread reads the line. -/
def deliverBad (s : State) (line : Nat) (job : Option Nat) : State :=
  match lineReader s line job with
  | some t => { s with badTransfers := s.badTransfers ++ [(t.uid, t.issued, line)] }
  | none =>
    match s.copies.findIdx? fun c => c.reads.any fun x => (State.touchedUnits x.1 x.2).contains line with
    | some n => { s with copies := s.copies.mapIdx fun i c => if i = n then { c with bad := insertNat c.bad line } else c }
    | none => { s with badReads := insertNat s.badReads line }

/-- A transfer of 64 bytes for a read (R59), which the read that it belongs to counts (R61). A retry that passes is charged as
a repair also where array ECC then finds the data uncorrectable (DESIGN CHOICE, log entry 16). -/
def transferRead (s : State) (pa : Nat) (attempts : List (List Nat)) (ecc : Ecc) (job : Option Nat) : State :=
  let stack := hbmStack pa
  let channel := hbmChannel pa
  let addr := pa / 64 * 64
  let passed := (List.range 4).find? fun i => failingLanes attempts i = []
  let failed := (List.range (passed.getD 4)).flatMap (failingLanes attempts)
  let s1 := failed.foldl (failLane pa) s
  match passed with
  | some 0 => decideEcc s1 pa ecc job
  | some n =>
    let l := namedLane s1 attempts
    decideEcc (chargeRepair (logRecordOf l.2 true addr stack channel l.1 1 n) job) pa ecc job
  | none =>
    let l := namedLane s1 attempts
    deliverBad (logRecordOf l.2 true addr stack channel l.1 2 0) (Place.hbm s.modNum pa / 64) job

def execHbmTransferRead (addr : Nat) (attempts : List (List Nat)) (ecc : Ecc) (job : Option Nat) (s : State) :
    Host.Outcome State Fault Refusal :=
  .next (if addr < 0x180_0000_0000 then transferRead s addr attempts ecc job else s)

/-- A channel that has made 2^20 transfers clears its lane failure counts (R61). -/
def execTransferCountWrap (stack channel : Nat) (s : State) : Host.Outcome State Fault Refusal :=
  let key := channelKey stack channel
  .next (if stack < 24 ∧ channel < 32 ∧ 2 ^ 20 ≤ (s.channel key).transfers then
    s.setChannel key { s.channel key with transfers := (s.channel key).transfers - 2 ^ 20, failures := [] } else s)

/-- A lane that has failed too often is mapped to a spare (R61). Its failure count goes with it (DESIGN CHOICE, log entry
16: the spec clears counts only every 2^20 transfers). -/
def remapLane (stack channel : Nat) (s : State) (x : Nat × Nat) : State :=
  let key := channelKey stack channel
  let c := s.channel key
  match c.spares with
  | 0 => s
  | n + 1 =>
    logRecordOf (s.setChannel key { c with spares := n, failures := NatMap.drop c.failures x.1 })
      true x.2 stack channel x.1 3 0

/-- The refresh interval of a channel (R61). -/
def execLaneRemap (stack channel : Nat) (s : State) : Host.Outcome State Fault Refusal :=
  let key := channelKey stack channel
  let c := s.channel key
  .next (if stack < 24 ∧ channel < 32 then
    c.due.foldl (remapLane stack channel) (s.setChannel key { c with due := [] }) else s)

/-! ### The harrow (R261) -/

/-- The die whose harrow reads a place, if one does: local memory, B store, tile store or HBM of this module. -/
def harrowDie (s : State) (loc : Nat) : Option Nat :=
  if ¬reachable s loc ∨ Place.module loc ≠ s.modNum then none
  else match Place.tier loc with
    | .localMem => some (State.dieOf (Place.core loc))
    | .bStore => some (State.dieOf (loc % Place.unit / 0x40_0000))
    | .tileStore => some (Place.die loc)
    | .hbm => some (s.modNum * 8 + hbmDie (loc % Place.unit % 0x4_0000_0000_0000))
    | _ => none

/-- A count of HARROWSTAT. -/
def bumpCount (n : BitVec 32) : BitVec 32 := if n = BitVec.allOnes 32 then n else n + 1

/-- What the harrow notes of a line. -/
def harrowFinding (s : State) (die loc : Nat) (bad : Bool) : State :=
  match Place.tier loc with
  | .hbm => logArray s (loc % Place.unit % 0x4_0000_0000_0000) bad
  | _ => s.modDie die fun d => if bad then { d with uncor := bumpCount d.uncor } else { d with cor := bumpCount d.cor }

/-- The harrow reads one line, at any place in it. -/
def execHarrowScrub (loc : Nat) (finding : Ecc) (s : State) : Host.Outcome State Fault Refusal :=
  .next (match harrowDie s loc with
    | none => s
    | some die =>
      if (s.die die).harrowEn then
        match finding with
        | .clean => s
        | .corrected => harrowFinding s die loc false
        | .uncorrectable => (harrowFinding s die loc true).setPoison loc
      else s)

end Sys2Proof.Machine
end

