-- ==== Sys2Proof/Machine/HostPort.lean ====
section
/-!
DEFINITION. The host's three windows (R33): the control window with its registers (R34 to R36, R29, R43, R53), the HBM
aperture (R37) and the sluice with its intake queues (R38 to R43, R49). Before MHL has trained nothing of the host
arrives.
-/
namespace Sys2Proof.Machine

/-! ### Registers as the host reads them -/

/-- MODID (R35). -/
def modid (s : State) : Nat := 0x9140 + s.modNum % 8 * 2 ^ 16

/-- MODSTAT (R36). -/
def modstat (s : State) : Nat :=
  s.topleft.toNat * 2 ^ 16 + s.booterr.toNat * 2 ^ 12 + s.snapLost.toNat * 2 ^ 8 + s.snap.toNat * 2 ^ 7 + s.status.toNat

/-- MBXDB (R53). -/
def mbxdb (s : State) : Nat := s.mbxDone.toNat * 2 + s.mbxGo.toNat

/-- LINKSTAT (R29). -/
def linkstat (l : LinkState) : Nat :=
  l.rebuild.toNat * 2 ^ 48 + l.replay.toNat * 2 ^ 32 + l.railBad.toNat * 2 ^ 11 +
    l.spares.foldl Nat.min 7 * 2 ^ 8 + l.retrains.toNat * 2 ^ 4 + l.state.toNat

/-- SLSTAT (R43): free entries of the intake queue in its low bits. -/
def slstat (q : Sluice) : Nat :=
  q.dropFmt.toNat * 2 ^ 48 + q.dropCred.toNat * 2 ^ 32 + q.dropItem.toNat * 2 ^ 16 + (64 - q.queue.length)

/-- A register of the control window (R35); none where the window holds memory. RSTCTL, of which the spec states only the
writes, reads zero (DESIGN CHOICE, log entry 10). -/
def controlRegister (s : State) (a : Nat) : Option Nat :=
  if (0x1000 ≤ a ∧ a < 0x5000) ∨ (0x4_0000 ≤ a ∧ a < 0x4_0200) ∨ 0x10_0000 ≤ a then none
  else if a = 0 then some (modid s)
  else if a = 8 then some (modstat s)
  else if a = 0x10 then some (mbxdb s)
  else if 0x2_0000 ≤ a ∧ a < 0x2_00F0 then some (linkstat (s.link ((a - 0x2_0000) / 8)))
  else if 0x3_0000 ≤ a ∧ a < 0x3_0400 then
    let q := s.sluice ((a - 0x3_0000) / 16)
    some (if a % 16 < 8 then q.en.toNat else slstat q)
  else some 0

/-- Offsets that respond in STATE 3 (R48): MODID, MODSTAT, MBXDB, the mailbox and RSTCTL. -/
def respondsInRecovery (a : Nat) : Bool :=
  decide (a < 0x18) || (decide (0x1000 ≤ a) && decide (a < 0x5000)) || (decide (0x1_0000 ≤ a) && decide (a < 0x1_0008))

/-- A byte of the control window as it stands; one that does not respond reads all ones (DESIGN CHOICE, log entry 10). -/
def controlByte (s : State) (a : Nat) : Byte :=
  if s.status = 3 ∧ ¬respondsInRecovery a then 0xFF
  else
    match controlRegister s (a / 8 * 8) with
    | some v => BitVec.ofNat 8 (v / 2 ^ (8 * (a % 8)))
    | none => s.mem.byte (Place.control a)

/-- A read of the control window by a requester (R34). -/
def controlRead (s : State) (who off n : Nat) : List Byte :=
  (List.range n).map fun i =>
    if s.mhl ∧ (s.hostId = none ∨ s.hostId = some who) ∧ off + i < 0x20_0000 then controlByte s (off + i) else 0xFF

/-- A read of the sluice window (R42), which does not respond in STATE 3 (R48). -/
def sluiceRead (s : State) (off n : Nat) : List Byte :=
  if n = 8 ∧ off % 8 = 0 ∧ s.mhl ∧ s.status ≠ 3 then toBytes 8 (slstat (s.sluice (off / 0x1_0000))) else List.replicate n 0xFF

/-! ### Writes to the control window -/

/-- The value that a write brings to the 8 bytes at `a`, bytes that it does not cover as zero. -/
def broughtTo (off : Nat) (bytes : List Byte) (a : Nat) : Nat :=
  ofBytes ((List.range 8).map fun i => if off ≤ a + i then bytes.getD (a + i - off) 0 else 0)

/-- Whether a write covers the byte at `a`. -/
def coversByte (off : Nat) (bytes : List Byte) (a : Nat) : Bool := decide (off ≤ a) && decide (a < off + bytes.length)

/-- Whether a write touches the 8 bytes at `a`. -/
def touchesWord (off : Nat) (bytes : List Byte) (a : Nat) : Bool :=
  decide (off < a + 8) && decide (a < off + bytes.length)

/-- MODSTAT (R36): ones clear SNAP, 0xF clears SNAPLOST. -/
def writeModstat (s : State) (v : Nat) : State :=
  { s with
    snap := s.snap && decide (v / 2 ^ 7 % 2 = 0)
    snapLost := if bitsOf v 11 8 = 15 then 0 else s.snapLost }

/-- MBXDB (R53): GO submits unless GO or DONE is 1, a one clears DONE. -/
def writeMbxdb (s : State) (v : Nat) : State :=
  { s with
    mbxGo := s.mbxGo || (decide (v % 2 = 1) && !s.mbxDone)
    mbxDone := s.mbxDone && decide (v / 2 % 2 = 0) }

/-- LINKSTAT (R29): all ones clear a count. -/
def writeLinkstat (l : LinkState) (v : Nat) : LinkState :=
  { l with
    rebuild := if bitsOf v 63 48 = 0xFFFF then 0 else l.rebuild
    replay := if bitsOf v 47 32 = 0xFFFF then 0 else l.replay
    retrains := if bitsOf v 7 4 = 15 then 0 else l.retrains }

/-- SLSTAT (R43): all ones clear a count. -/
def writeSlstat (q : Sluice) (v : Nat) : Sluice :=
  { q with
    dropFmt := if bitsOf v 63 48 = 0xFFFF then 0 else q.dropFmt
    dropCred := if bitsOf v 47 32 = 0xFFFF then 0 else q.dropCred
    dropItem := if bitsOf v 31 16 = 0xFFFF then 0 else q.dropItem }

/-- The part of a write that falls on the memory at offsets `[lo, hi)` of the control window. -/
def writeArea (s : State) (off : Nat) (bytes : List Byte) (lo hi : Nat) : State :=
  let start := Nat.max off lo
  let stop := Nat.min (off + bytes.length) hi
  if start < stop then s.write (Place.control start) ((bytes.drop (start - off)).take (stop - start)) else s

/-- The ring descriptors (R44) that a write touches: the device's count of discarded entries stands, the bytes that are zero stay
zero, and the intake threads of the rings use what is written anew (R159). -/
def writeRings (s : State) (off : Nat) (bytes : List Byte) : State :=
  let start := Nat.max off 0x4_0000
  let stop := Nat.min (off + bytes.length) 0x4_0200
  if start < stop then
    let data := (List.range (stop - start)).map fun i =>
      let a := start + i
      let b := bytes.getD (a - off) 0
      if a % 32 ≤ 8 then b else if a % 32 = 9 then b &&& 1 else s.mem.byte (Place.control a)
    let touched (e : Nat × RingThread) : Bool := decide (start < 0x4_0000 + 32 * e.1 + 32 ∧ 0x4_0000 + 32 * e.1 < stop)
    { s.write (Place.control start) data with
      rings := s.rings.map fun e => if touched e then (e.1, { e.2 with faulted := false }) else e }
  else s

/-- The registers that respond in every state. -/
def writeCommon (s : State) (off : Nat) (bytes : List Byte) : State :=
  let s1 := if touchesWord off bytes 8 then writeModstat s (broughtTo off bytes 8) else s
  let s2 := writeArea s1 off bytes 0x1000 0x2000
  if touchesWord off bytes 0x10 then writeMbxdb s2 (broughtTo off bytes 0x10) else s2

def writeLinks (s : State) (off : Nat) (bytes : List Byte) : State :=
  (List.range 30).foldl (fun s n =>
    if touchesWord off bytes (0x2_0000 + 8 * n) then
      s.setLink n (writeLinkstat (s.link n) (broughtTo off bytes (0x2_0000 + 8 * n)))
    else s) s

def writeSluices (s : State) (off : Nat) (bytes : List Byte) : State :=
  (List.range 64).foldl (fun s w =>
    let a := 0x3_0000 + 16 * w
    let s1 := if coversByte off bytes a then s.setSluice w { s.sluice w with en := decide (broughtTo off bytes a % 2 = 1) } else s
    if touchesWord off bytes (a + 8) then s1.setSluice w (writeSlstat (s1.sluice w) (broughtTo off bytes (a + 8))) else s1) s

/-- A host write to the control window, but to RSTCTL (R34, R35). -/
def execControlWindowWrite (who off : Nat) (bytes : List (BitVec 8)) (s : State) : Host.Outcome State Fault Refusal :=
  .next (if s.mhl then
    if s.hostId = none ∨ s.hostId = some who then
      let s1 := writeCommon { s with hostId := some who } off bytes
      if s.status = 3 then s1
      else writeRings (writeSluices (writeLinks s1 off bytes) off bytes) off bytes
    else s
  else s)

/-! ### The HBM aperture -/

/-- STATE has reached 2 since the last reset (R49), and MHL is up. -/
def booted (s : State) : Bool := s.ready && s.mhl

/-- A host load of HBM, with its transfers and the poison that it or they bring (R37, R59). -/
def hostLoad (s : State) (p len : Nat) : State :=
  (countTransfers { s with hostRead := s.bytes p len, hostPoison := s.poisonRead p len } p len).spendBad p len

/-- A host access to HBM (R37), after the requests that have reached its home before it (R238): a load leaves its bytes in
`hostRead`, all ones until STATE has reached 2 (R49). R232 lets device threads see host writes at different times; the model lets
all see them at one instant (DESIGN CHOICE, log entry 10). -/
def execHostApertureAccess (addr len : Nat) (store : Option (List (BitVec 8))) (s : State) :
    Host.Outcome State Fault Refusal :=
  .next (match store with
    | none =>
      if addr + len ≤ 0x180_0000_0000 then
        if booted s then hostLoad (serveFirst s [(Place.hbm s.modNum addr, len)]) (Place.hbm s.modNum addr) len
        else { s with hostRead := List.replicate len 0xFF, hostPoison := false }
      else s
    | some bytes =>
      if addr + bytes.length ≤ 0x180_0000_0000 ∧ booted s then
        (countTransfers (serveFirst s [(Place.hbm s.modNum addr, bytes.length)]) (Place.hbm s.modNum addr) bytes.length).store
          (Place.hbm s.modNum addr) bytes
      else s)

/-! ### The sluice -/

/-- A sluice write is well formed (R38). -/
def sluiceFormed (off len : Nat) : Bool :=
  decide (len % 32 = 0) && decide (1 ≤ len / 32) && decide (len / 32 ≤ 8) && decide (off % 32 = 0) &&
    decide ((off + len - 1) / 0x1_0000 = off / 0x1_0000)

/-- One item of a well-formed write (R39). -/
def sluiceItem (w : Nat) (s : State) (item : Item) : State :=
  let q := s.sluice w
  let passes := q.en && decide (item.cls < 4) && jobLive s item.job
  match passes, countUp s item.job with
  | true, some s1 =>
    if q.queue.length < 64 then s1.setSluice w { q with queue := q.queue ++ [item] }
    else s.setSluice w { q with dropCred := bumpWord q.dropCred }
  | _, _ => s.setSluice w { q with dropItem := bumpWord q.dropItem }

/-- A host write to the sluice window (R39, R49). -/
def execSluiceWrite (off : Nat) (bytes : List (BitVec 8)) (s : State) : Host.Outcome State Fault Refusal :=
  let w := off / 0x1_0000
  .next (if booted s ∧ off < 0x40_0000 then
    if sluiceFormed off bytes.length then
      ((List.range (bytes.length / 32)).map fun i => itemOfBytes ((bytes.drop (32 * i)).take 32)).foldl (sluiceItem w) s
    else
      let q := s.sluice w
      s.setSluice w { q with dropFmt := bumpWord q.dropFmt }
  else s)

/-- The oldest item of an intake queue is pushed (R40), while the worklist takes pushes (R75, R98). -/
def drainIntake (s : State) (w : Nat) : State :=
  let q := s.sluice w
  match q.queue with
  | [] => s
  | item :: rest =>
    if (s.wl w).en then
      let r := doPush s ⟨w, item, .ioDie 0, true, false⟩
      match r.1 with
      | some s1 => s1.setSluice w { q with queue := rest }
      | none => r.2
    else s

def execIntakeQueueDrain (wl : Nat) (s : State) : Host.Outcome State Fault Refusal := .next (drainIntake s wl)

end Sys2Proof.Machine
end

