-- ==== Sys2Proof/Machine/LoadStore.lean ====
section
/-!
DEFINITION. Scalar loads and stores (R344, R345) and vector memory (R360 to R365).
-/
namespace Sys2Proof.Machine

/-- The parts of an access after its checks, each with the bytes that its lane stores. -/
def partsOf (spots : List Spot) (data : Nat → List Byte) : List Part :=
  spots.map fun x => { x.part with data := data x.part.lane }

/-- Steps 3 to 6 of R339, then step 8 and the access, for one address. -/
def accessAt (s : State) (t : Thread) (va : Word) (len align : Nat) (fullBits : Bool) (op : MemOp)
    (data : List Byte) (scope : Option (BitVec 4)) : Except Stop Eff :=
  match resolve s s.cur.1 t op.needs.1 op.needs.2 fullBits len align [(0, va)] with
  | .error e => .error e
  | .ok spots => access s t ⟨op, partsOf spots fun _ => data, scope⟩

/-! ### Scalars (R345) -/

def loadShape (i : Instr) (d b : BitVec 5) (o : BitVec 12) (len : Nat) (signed : Bool) :
    State → Host.Outcome State Fault Refusal :=
  run i fun s t => withSources s t [b] [] fun s t =>
    accessAt s t (t.gVal b + offM t.himm o len) len len false (.load d signed) [] t.hmodScope

def storeShape (i : Instr) (r b : BitVec 5) (o : BitVec 12) (len : Nat) : State → Host.Outcome State Fault Refusal :=
  run i fun s t => withSources s t [b, r] [] fun s t =>
    accessAt s t (t.gVal b + offM t.himm o len) len len false .store (toBytes len (t.gVal r).toNat) t.hmodScope

def execLdb (d b : BitVec 5) (o : BitVec 12) : State → Host.Outcome State Fault Refusal :=
  loadShape (.ldb d b o) d b o 1 true
def execLdh (d b : BitVec 5) (o : BitVec 12) : State → Host.Outcome State Fault Refusal :=
  loadShape (.ldh d b o) d b o 2 true
def execLdw (d b : BitVec 5) (o : BitVec 12) : State → Host.Outcome State Fault Refusal :=
  loadShape (.ldw d b o) d b o 4 true
def execLdd (d b : BitVec 5) (o : BitVec 12) : State → Host.Outcome State Fault Refusal :=
  loadShape (.ldd d b o) d b o 8 false
def execLdbz (d b : BitVec 5) (o : BitVec 12) : State → Host.Outcome State Fault Refusal :=
  loadShape (.ldbz d b o) d b o 1 false
def execLdhz (d b : BitVec 5) (o : BitVec 12) : State → Host.Outcome State Fault Refusal :=
  loadShape (.ldhz d b o) d b o 2 false
def execLdwz (d b : BitVec 5) (o : BitVec 12) : State → Host.Outcome State Fault Refusal :=
  loadShape (.ldwz d b o) d b o 4 false
def execStb (r b : BitVec 5) (o : BitVec 12) : State → Host.Outcome State Fault Refusal :=
  storeShape (.stb r b o) r b o 1
def execSth (r b : BitVec 5) (o : BitVec 12) : State → Host.Outcome State Fault Refusal :=
  storeShape (.sth r b o) r b o 2
def execStw (r b : BitVec 5) (o : BitVec 12) : State → Host.Outcome State Fault Refusal :=
  storeShape (.stw r b o) r b o 4
def execStd (r b : BitVec 5) (o : BitVec 12) : State → Host.Outcome State Fault Refusal :=
  storeShape (.std r b o) r b o 8

/-! ### Vector memory -/

/-- R366: vd is a source too where a mask may keep lanes of it. -/
def vdSource (m : BitVec 2) (d : Nat) : List Nat := if m = 0 then [] else [d]

/-- The scale byte's place of a decoding VLD (R165, R361). -/
def scalePlace (attr : BitVec 9) (loc : Nat) : Option Nat :=
  if attrGeom attr = 0 then none else some (loc / 0x2_0000 * 0x2_0000 + scaleOffset attr (loc % 0x2_0000))

/-- Step 7 of R339 for a VLD of address `va`, and the access with the codebooks that stood at its issue (R361, R362). -/
def vldDecoded (s : State) (t : Thread) (d : BitVec 5) (m : BitVec 2) (va : Word) (x : Spot)
    (books : List (List (BitVec 16))) : Except Stop Eff :=
  let attr := x.attr.getD 0
  let loc := x.part.loc
  if inScaleArea attr (loc % 0x2_0000) then .error (.trap 5 va)
  else if rawAttr attr && decide (va.toNat % 64 ≠ 0) then .error (.trap 2 va)
  else
    -- the codebook that applies is the issuing core's (R200)
    let book := books.getD (attrBook attr) []
    let len := if rawAttr attr then 64 else 16
    access s t ⟨.vdecode d m attr (scalePlace attr loc) book, [{ x.part with len := len }], t.hmodScope⟩

def execVld (d b : BitVec 5) (m : BitVec 2) (o : BitVec 12) : State → Host.Outcome State Fault Refusal :=
  run (.vld d b m o) fun s t => withSources s t [b] (vdSource m d.toNat) fun s t =>
    let va := t.gVal b + offM t.himm o 64
    let books := (operandsAt s t 0).books
    match resolve s s.cur.1 t true false false 16 16 [(0, va)] with
    | .error e => keepIssue s t (.operands 0 0 books) (.error e)
    | .ok (x :: _) => vldDecoded s t d m va x books
    | .ok [] => .ok (.next s t)

/-- The parts of a VST by its mask (R362): the 64 bytes as one where every lane is active, so that they clear poison
(R341); else one without data before the active lanes', so that the checks cover all 64 bytes whatever the mask. -/
def vstParts (x : Part) (m : Word) (v : VWord) : List Part :=
  let lanes := (List.range 8).filter (active m)
  if lanes = [] then [x]
  else if lanes.length = 8 then [{ x with len := 64, data := vBytes v }]
  else
    x :: lanes.map fun i =>
      { x with va := x.va + BitVec.ofNat 64 (8 * i), loc := x.loc + 8 * i, len := 8
               data := ((vBytes v).drop (8 * i)).take 8, lane := i }

def execVst (r b : BitVec 5) (m : BitVec 2) (o : BitVec 12) : State → Host.Outcome State Fault Refusal :=
  run (.vst r b m o) fun s t => withSources s t [b] [r.toNat] fun s t =>
    let va := t.gVal b + offM t.himm o 64
    match resolve s s.cur.1 t false true false 64 64 [(0, va)] with
    | .error e => .error e
    | .ok (x :: _) => access s t ⟨.store, vstParts x.part (t.mVal m) (t.vVal r.toNat), t.hmodScope⟩
    | .ok [] => .ok (.next s t)

/-- Bytes of a lane by the width field (R363). -/
def laneBytes (w : BitVec 2) : Nat := 2 ^ w.toNat

/-- The active lanes' addresses (R364). -/
def laneAddresses (n : Nat) (m base : Word) (off : Nat → Word) : List (Nat × Word) :=
  ((List.range n).filter (active m)).map fun i => (i, base + off i)

/-- A stride's offset of lane `i`. -/
def strideOff (stride : Word) (i : Nat) : Word := stride * BitVec.ofNat 64 i

/-- An index lane's offset. -/
def indexOff (w : BitVec 2) (index : VWord) (i : Nat) : Word :=
  BitVec.ofInt 64 (signedLane (laneBits w) (lane index (laneBits w) i) * laneBytes w)

/-- The attributes of the lanes that lie in local memory, as they stand when the instruction is issued (R166). -/
def laneAttrs (s : State) (t : Thread) (lanes : List (Nat × Word)) : List (Nat × BitVec 9) :=
  match t.atIssue with
  | some (.lanes l) => l
  | _ => lanes.filterMap fun l => match targetOf s.cur.1 s.pod l.2 with
    | some (.localMem c off _) => some (l.1, lmAttr s c off)
    | _ => none

/-- Step 7 of R339 for vector loads: no lane may meet cb4, a block-scaled page or a scale area (R364, R166); `held` are the
attributes of the issue. -/
def rawLanes (held : List (Nat × BitVec 9)) (spots : List Spot) : Except Stop Unit :=
  match spots.find? fun x => !rawAttr (NatMap.get held x.part.lane (x.attr.getD 0)) with
  | some x => .error (.trap 5 x.part.va)
  | none => .ok ()

def vloadShape (i : Instr) (d : BitVec 5) (w m : BitVec 2) (gs : List (BitVec 5)) (vs : List Nat)
    (base : Thread → Word) (off : Thread → Nat → Word) : State → Host.Outcome State Fault Refusal :=
  run i fun s t => withSources s t gs (vs ++ vdSource m d.toNat) fun s t =>
    let n := laneBytes w
    let lanes := laneAddresses (64 / n) (t.mVal m) (base t) (off t)
    let held := laneAttrs s t lanes
    match resolve s s.cur.1 t true false false n n lanes with
    | .error e => keepIssue s t (.lanes held) (.error e)
    | .ok spots =>
      match rawLanes held spots with
      | .error e => .error e
      | .ok _ => access s t ⟨.vload d n, spots.map (·.part), t.hmodScope⟩

def vstoreShape (i : Instr) (r : BitVec 5) (w m : BitVec 2) (gs : List (BitVec 5)) (vs : List Nat)
    (base : Thread → Word) (off : Thread → Nat → Word) : State → Host.Outcome State Fault Refusal :=
  run i fun s t => withSources s t gs (r.toNat :: vs) fun s t =>
    let n := laneBytes w
    match resolve s s.cur.1 t false true false n n (laneAddresses (64 / n) (t.mVal m) (base t) (off t)) with
    | .error e => .error e
    | .ok spots =>
      access s t ⟨.store, partsOf spots fun i => ((vBytes (t.vVal r.toNat)).drop (n * i)).take n, t.hmodScope⟩

def execVlds (d a b : BitVec 5) (w m : BitVec 2) : State → Host.Outcome State Fault Refusal :=
  vloadShape (.vlds d a b w m) d w m [a, b] [] (fun t => t.gVal a) fun t => strideOff (t.gVal b)
def execVsts (r a b : BitVec 5) (w m : BitVec 2) : State → Host.Outcome State Fault Refusal :=
  vstoreShape (.vsts r a b w m) r w m [a, b] [] (fun t => t.gVal a) fun t => strideOff (t.gVal b)
def execVgath (d a b : BitVec 5) (w m : BitVec 2) : State → Host.Outcome State Fault Refusal :=
  vloadShape (.vgath d a b w m) d w m [a] [b.toNat] (fun t => t.gVal a) fun t => indexOff w (t.vVal b.toNat)
def execVscat (r a b : BitVec 5) (w m : BitVec 2) : State → Host.Outcome State Fault Refusal :=
  vstoreShape (.vscat r a b w m) r w m [a] [b.toNat] (fun t => t.gVal a) fun t => indexOff w (t.vVal b.toNat)

end Sys2Proof.Machine
end

