-- ==== Sys2Proof/Machine/Sha.lean ====
section
/-!
DEFINITION. SHA-256, by which R50 to R52 name an image's hash (FIPS 180-4; log entry 7). Its constants are computed as that
standard describes them: from the roots of the first primes.
-/
namespace Sys2Proof.Machine

/-! ### Constants -/

/-- The first 64 primes: the numbers below 312 that nothing from 2 to 17 divides, but itself. -/
def shaPrimes : List Nat :=
  (List.range 312).filter fun n =>
    decide (2 ≤ n) && (List.range 18).all fun d => decide (d < 2) || decide (n ≤ d) || decide (n % d ≠ 0)

/-- The first 32 bits of the fraction of the `k`-th root of `p`, the root found digit by digit in units of 2^-32. -/
def rootFraction (k p : Nat) : BitVec 32 :=
  let digit (r i : Nat) : Nat := if (r + 2 ^ (37 - i)) ^ k ≤ p * 2 ^ (32 * k) then r + 2 ^ (37 - i) else r
  BitVec.ofNat 32 ((List.range 38).foldl digit 0)

/-- The constants of the rounds, from cube roots. -/
def shaK : List (BitVec 32) := shaPrimes.map (rootFraction 3)

/-! ### The hash value and its rounds -/

/-- A hash value, and the working variables of a round. -/
structure ShaValue where
  a : BitVec 32
  b : BitVec 32
  c : BitVec 32
  d : BitVec 32
  e : BitVec 32
  f : BitVec 32
  g : BitVec 32
  h : BitVec 32
  deriving DecidableEq, Repr

/-- Eight words as a value. -/
def ShaValue.of (l : List (BitVec 32)) : ShaValue :=
  let w (i : Nat) : BitVec 32 := l.getD i 0
  ⟨w 0, w 1, w 2, w 3, w 4, w 5, w 6, w 7⟩

def ShaValue.words (v : ShaValue) : List (BitVec 32) := [v.a, v.b, v.c, v.d] ++ [v.e, v.f, v.g, v.h]

/-- The initial value, from square roots. -/
def ShaValue.start : ShaValue := .of ((shaPrimes.take 8).map (rootFraction 2))

/-- A word rotated right by each of some counts, the results and `rest` combined by exclusive or. -/
def rotations (x : BitVec 32) (counts : List Nat) (rest : BitVec 32) : BitVec 32 :=
  counts.foldl (fun acc n => acc ^^^ x.rotateRight n) rest

/-- The bits of `x` where `pick` is set, those of `y` elsewhere. -/
def chosen (pick x y : BitVec 32) : BitVec 32 := y ^^^ (pick &&& (x ^^^ y))

/-- The bits that two of three words have. -/
def majority (x y z : BitVec 32) : BitVec 32 := (x &&& y) ||| (z &&& (x ||| y))

/-- One round with constant and schedule word added. -/
def ShaValue.round (v : ShaValue) (kw : BitVec 32) : ShaValue :=
  let carry := rotations v.e [6, 11, 25] 0 + chosen v.e v.f v.g + v.h + kw
  { a := rotations v.a [2, 13, 22] 0 + majority v.a v.b v.c + carry
    b := v.a, c := v.b, d := v.c, e := carry + v.d, f := v.e, g := v.f, h := v.g }

/-- The next `n` words of the schedule after the sixteen of a window. -/
def shaSchedule : Nat → List (BitVec 32) → List (BitVec 32)
  | 0, _ => []
  | n + 1, window =>
    let at' (i : Nat) : BitVec 32 := window.getD i 0
    let next := at' 0 + at' 9 + rotations (at' 1) [7, 18] (at' 1 >>> 3) + rotations (at' 14) [17, 19] (at' 14 >>> 10)
    at' 0 :: shaSchedule n (window.tail ++ [next])

/-! ### Messages -/

/-- Four bytes, the first the most significant. -/
def bigWord (b : List Byte) : BitVec 32 := BitVec.ofNat 32 (ofBytes (b.take 4).reverse)

/-- The value after one block of a message. -/
def ShaValue.block (v : ShaValue) (m : List Byte) : ShaValue :=
  let words := shaSchedule 64 ((List.range 16).map fun i => bigWord (m.drop (4 * i)))
  let out := (List.zipWith (· + ·) shaK words).foldl ShaValue.round v
  .of (List.zipWith (· + ·) v.words out.words)

/-- The message with its padding: a one, zeros, and its length in bits. -/
def shaPadded (m : List Byte) : List Byte :=
  m ++ [0x80] ++ List.replicate ((119 - m.length % 64) % 64) 0 ++ (toBytes 8 (8 * m.length)).reverse

/-- The 32 bytes of the hash of a message. -/
def sha256 (m : List Byte) : List Byte :=
  let padded := shaPadded m
  let value := (List.range (padded.length / 64)).foldl (fun v i => v.block (padded.drop (64 * i))) ShaValue.start
  value.words.flatMap fun x => (toBytes 4 x.toNat).reverse

end Sys2Proof.Machine
end

