-- ==== Sys2Proof/Machine/Mailbox.lean ====
section
/-!
DEFINITION. The management mailbox (R53, R54): one event for each type of request, with attestation (R51, R52) and the
arming of an injected error (R464). An event acts only while a request of its type stands in the request area with GO
set.
-/
namespace Sys2Proof.Machine

/-- Byte `i` of the request area (R35). -/
def reqPlace (i : Nat) : Nat := Place.control (0x1000 + i)

/-- A field of the request: `n` bytes from byte `i`. -/
def reqField (s : State) (i n : Nat) : Nat := ofBytes (s.bytes (reqPlace i) n)

/-- The request's type (R53). -/
def reqType (s : State) : Nat := reqField s 0 8

/-- Bytes `i` to 63 are zero, as those must be that a type does not use (R53). -/
def restZero (s : State) (i : Nat) : Bool := (s.bytes (reqPlace i) (64 - i)).all fun b => decide (b = 0)

/-- A reply (R53): GO cleared, the status and body in the reply area, DONE set. -/
def reply (s : State) (status : Nat) (body : List Byte) : State :=
  { s.write (Place.control 0x2000) (toBytes 8 status ++ body ++ List.replicate (12280 - body.length) 0) with
    mbxGo := false, mbxDone := true }

/-- The frame of the requests: served only as submitted; refused in a STATE that does not allow it, or for a field
outside its limits (status 1). -/
def serveRequest (ty : Nat) (states : List (BitVec 3)) (formed : State → Bool) (f : State → State) (s : State) :
    Host.Outcome State Fault Refusal :=
  .next (if s.mbxGo ∧ reqType s = ty then
    if states.contains s.status && formed s then f s else reply s 1 []
  else s)

/-! ### Attestation (R51, R52) -/

/-- Spared cores, HBM lanes and link lanes (R52). -/
def sparedCores (s : State) : Nat :=
  ((List.range 8).flatMap fun d => (s.die (s.modNum * 8 + d)).clmap.filter fun x => decide (x ≠ 16)).length

def sparedHbmLanes (s : State) : Nat := s.channels.foldl (fun n e => n + (2 - e.2.spares)) 0

def sparedLinkLanes (s : State) : Nat :=
  s.links.foldl (fun n e => n + (5 * (if e.1 < 14 then 2 else 1) - e.2.spares.foldl (· + ·) 0)) 0

/-- The SHA-256 of a loaded image (R52): of its bytes where it has been committed, else the one of the image that the part was
made with (log entry 7). -/
def imageDigest (x : Nat × Option (List Byte)) : List Byte :=
  match x.2 with
  | some bytes => sha256 bytes
  | none => (List.range 32).map fun i => Config.imageHash x.1 i

/-- The reply from byte 8 up to the end of the last image hash (R54). -/
def attested (s : State) : List Byte :=
  s.bytes (reqPlace 8) 32 ++ toBytes 8 (0x9140 + s.modNum % 8 * 2 ^ 16) ++ toBytes 4 s.fusedMin.toNat ++ [0, 0, 0, 0] ++
    toBytes 2 (sparedCores s) ++ toBytes 2 (sparedHbmLanes s) ++ toBytes 2 (sparedLinkLanes s) ++ [0, 0] ++
    toBytes 8 s.loaded.length ++
    s.loaded.flatMap imageDigest

/-- The next unused leaf of the current lower tree, trees counted over the part's life. -/
def nextLeaf (s : State) : Nat := (32768 - s.topleft.toNat) * 1024 + (1024 - s.lowerLeft)

/-- One leaf of the lower tree spent; after the last a new tree is built (R51). -/
def spendLeaf (s : State) : State :=
  let s1 := { s with lowerLeft := s.lowerLeft - 1 }
  if s1.lowerLeft = 0 then (newLowerTree s1).getD s1 else s1

/-- The length of an HSS signature under the parameters of R51, as NIST SP 800-208 encodes it: the number of levels, the LMS
signature of the lower tree's key (height 15), that key, and the LMS signature of the message (height 10). -/
def signatureLength : Nat := 4 + (4 + 2180 + 4 + 15 * 32) + 56 + (4 + 2180 + 4 + 10 * 32)

/-- A signed reply; none can be given once TOPLEFT is zero. One of more than 217 images is longer than its area: the tail is
written past 0x5000, where the host reads nothing (R54; DESIGN CHOICE, log entry 11). -/
def attest (s : State) : State :=
  if s.topleft = 0 then reply s 3 []
  else
    let body := attested s
    reply (spendLeaf s) 0 (body ++ toBytes 8 signatureLength ++
      (List.range signatureLength).map (Config.signature body (nextLeaf s)))

def execAttestation (s : State) : Host.Outcome State Fault Refusal :=
  serveRequest 1 [2] (fun s => restZero s 40) attest s

/-! ### The other types (R54) -/

/-- The fused minimum rises, up to the version of the loaded firmware. -/
def execRaiseFusedMinimum (s : State) : Host.Outcome State Fault Refusal :=
  let new (s : State) : Nat := reqField s 8 4
  serveRequest 2 [2]
    (fun s => restZero s 12 && decide (s.fusedMin.toNat ≤ new s) && decide (new s ≤ s.fwVersion.toNat))
    (fun s => reply { s with fusedMin := BitVec.ofNat 32 (new s) } 0 []) s

/-- A debug assertion of the snapshot trigger (R55, R265); the request waits while a thread stands between a hint and its
instruction (R310). -/
def execSnapshotTrigger (s : State) : Host.Outcome State Fault Refusal :=
  serveRequest 3 [0, 1, 2, 3, 4] (fun s => restZero s 8)
    (fun s => if s.betweenHints then s else reply (assertTrigger s 1) 0 []) s

/-- The core that a request names. -/
def reqCore (s : State) : Nat := s.modNum * 1024 + reqField s 8 2

/-- Debug on one core (R449). -/
def execArmDebug (s : State) : Host.Outcome State Fault Refusal :=
  serveRequest 4 [2]
    (fun s => decide (reqField s 8 2 < 1024) && decide (reqField s 10 1 < 2) && restZero s 11)
    (fun s => reply (s.modCore (reqCore s) fun c => { c with debugArmed := decide (reqField s 10 1 = 1) }) 0 []) s

/-- The halted thread that a request names. -/
def haltedThread (s : State) : Option Thread :=
  if reqField s 8 2 < 1024 ∧ reqField s 10 1 < 16 then
    match s.threadIn (reqCore s) (reqField s 10 1) with
    | some t => if t.halted then some t else none
    | none => none
  else none

/-- A thread that BREAK halted goes on past it. -/
def resumeHalted (s : State) : State :=
  match haltedThread s with
  | some t => reply (s.setThread (reqCore s) (reqField s 10 1) { t.advance with halted := false }) 0 []
  | none => reply s 1 []

def execResumeHaltedThread (s : State) : Host.Outcome State Fault Refusal :=
  serveRequest 5 [2] (fun s => restZero s 11) resumeHalted s

/-- An injected residue-check failure (R464). -/
def execArmErrorInjection (s : State) : Host.Outcome State Fault Refusal :=
  serveRequest 6 [2]
    (fun s => decide (reqField s 8 2 < 1024) && decide (1 ≤ reqField s 10 2) && decide (reqField s 12 4 = 1) &&
      restZero s 16 && (s.core (reqCore s)).injection.isNone)
    (fun s => reply (s.modCore (reqCore s) fun c => { c with injection := some (reqField s 10 2) }) 0 []) s

/-- Bytes of an image into the staging buffer. -/
def execStageImageChunk (s : State) : Host.Outcome State Fault Refusal :=
  let off (s : State) : Nat := reqField s 8 4
  let len (s : State) : Nat := reqField s 12 4
  serveRequest 7 [2, 3]
    (fun s => decide (off s % 64 = 0) && decide (1 ≤ len s) && decide (len s ≤ 4080) && decide (off s + len s ≤ 0x10_0000) &&
      restZero s (Nat.min 64 (16 + len s)))
    (fun s => reply (s.write (Place.staging (off s)) (s.bytes (reqPlace 16) (len s))) 0 []) s

/-- The image that a commit names: firmware copies 0 and 1, the intake program 2, another image from 3 on. -/
def commitTarget (s : State) : Nat := if reqField s 8 1 = 3 then 3 + reqField s 9 1 else reqField s 8 1

/-- The staged image of the length that a commit gives. -/
def stagedImage (s : State) : List Byte := s.bytes (Place.staging 0) (reqField s 12 4)

/-- A staged image that verifies (R50) goes to the non-volatile store. -/
def execCommitStagedImage (s : State) : Host.Outcome State Fault Refusal :=
  serveRequest 8 [2, 3]
    (fun s => decide (reqField s 8 1 < 4) && (decide (reqField s 8 1 = 3) || decide (reqField s 9 1 = 0)) &&
      decide (reqField s 10 2 = 0) && decide (reqField s 12 4 ≤ 0x10_0000) && restZero s 16 &&
      Config.imageVerifies (stagedImage s) && decide (s.fusedMin.toNat ≤ (Config.imageVersion (stagedImage s)).toNat))
    (fun s => reply { s with images := NatMap.set s.images (commitTarget s) (stagedImage s) } 0 []) s

/-- A type that there is not. -/
def execUnknownRequest (s : State) : Host.Outcome State Fault Refusal :=
  .next (if s.mbxGo ∧ (reqType s = 0 ∨ 9 ≤ reqType s) then reply s 2 [] else s)

end Sys2Proof.Machine
end

