-- ==== Sys2Proof/Machine/Tile.lean ====
section
/-!
DEFINITION. Tiles: allocation (R179 to R181), seals (R184), consuming accesses (R185, R186), and the instructions of
the TILE group (R434 to R436).
-/
namespace Sys2Proof.Machine

/-- The address of the first byte of a handle's tile (R177). -/
def tileAddress (h : Word) : Word := (h.extractLsb' 0 52).signExtend 64

/-- Whether a tile's pool admits reads by the thread (R187). -/
def tileAdmits (s : State) (t : Thread) (x : Tile) : Bool := decide ((s.job x.job).asid = t.asid) || t.sv

/-! ### TALLOC -/

/-- The die that a request names (R179). -/
def reqDieOf (core : Nat) (w : Word) : Nat := if reqDie w = 15 then State.dieOf core else core / 1024 * 8 + reqDie w

/-- The cases in which TALLOC faults at issue (R179). -/
def requestOk (s : State) (core : Nat) (t : Thread) (w : Word) : Bool :=
  let die := s.die (reqDieOf core w)
  let j := reqOwner t w
  decide (bitsOf w.toNat 47 22 = 0) && decide (reqClass w ≠ 3) && (decide (reqDie w < 8) || decide (reqDie w = 15)) &&
    jobLive s j && (decide ((s.job j).asid = t.asid) || t.sv) &&
    (decide (die.tpcap.getD (reqPart w) 0 ≠ 0) || decide (die.tpmin.getD (reqPart w) 0 ≠ 0))

/-- The request as a waiter of its partition (R180, R181). -/
def waitTile (s : State) (t : Thread) (d : BitVec 5) (w : Word) (die : Nat) : Except Stop Eff :=
  .ok (.parked s t (.talloc d w die s.pushSeq))

def execTalloc (d a : BitVec 5) : State → Host.Outcome State Fault Refusal :=
  run (.talloc d a) fun s t => withSources s t [a] [] fun s t =>
    let core := s.cur.1
    let w := t.gVal a
    let die := reqDieOf core w
    check (requestOk s core t w) (.trap 3 w) <|
    match reserveAll s core t (1 + t.poutRecords d) with
    | .error e => .error e
    | .ok _ =>
      if s.waiters (tallocWaiter die (reqPart w)) ≠ [] then waitTile s t d w die
      else
        let bases := (s.die die).admits (reqPart w) (reqClass w)
        let c := s.choose bases.length
        match bases[c.1]? with
        | none => waitTile s t d w die
        | some base =>
          let g := grantTile c.2 die (reqPart w) (reqClass w) (reqCount w) (reqOwner t w) base
          match logOp g.1 core t (.grant die base (g.2.extractLsb' 52 12)) with
          | .error e => .error e
          | .ok st => retDone st.1 st.2 d g.2

/-! ### Seals and frees -/

/-- An operation on a tile of a job in another space is refused as a pool access is (R187; log entry 49). -/
def ofSpace (s : State) (t : Thread) (h : Word) (rest : Except Stop Eff) : Except Stop Eff :=
  check ((currentTile s h).all fun x => tileAdmits s t x.2) (.trap 3 (tileAddress h)) rest

/-- A seal made (R184): consumers parked on it wake. -/
def sealTile (s : State) (die : Nat) (x : Tile) (scope : BitVec 4) : State :=
  (setTile s die { x with sealed := true, scope := scope }).wakeRetry fun _ _ w =>
    decide (w = .seal die x.base)

def execTseal (a : BitVec 5) (c : BitVec 4) : State → Host.Outcome State Fault Refusal :=
  run (.tseal a c) fun s t => withSources s t [a] [] fun s t =>
    let h := t.gVal a
    ofSpace s t h <|
    match currentTile s h with
    | none => .error (.trap 8 h)
    | some (die, x) =>
      if x.sealed then .error (.trap 9 h)
      else if t.inRegion then
        match logOp s s.cur.1 t (.publish (.seal h c)) with
        | .error e => .error e
        | .ok st => .ok (.next st.1 st.2)
      else released s t (.ok (.next (sealTile (s.drainOf t.uid) die x c) t))

def execTfree (a : BitVec 5) : State → Host.Outcome State Fault Refusal :=
  run (.tfree a) fun s t => withSources s t [a] [] fun s t =>
    let h := t.gVal a
    ofSpace s t h <|
    match currentTile s h with
    | none => .error (.trap 8 h)
    | some (die, x) =>
      if x.sealed && !x.persistent then .error (.trap 8 h)
      else if t.inRegion then
        match logOp s s.cur.1 t (.publish (.free h)) with
        | .error e => .error e
        | .ok st => .ok (.next st.1 st.2)
      else .ok (.next (freeTile s die x) t)

/-! ### Consuming accesses (R185, R188) -/

/-- Who lowers a tile's count. -/
inductive Taker where
  | read
  | drop
  | abandon
  deriving DecidableEq, Repr

/-- R185 and R188 for `n` reads of handle `h`: the count falls, logged in a region; at zero outside one, the tile that
is to be freed is named. -/
def consumeTile (s : State) (core : Nat) (t : Thread) (h : Word) (n : Nat) (who : Taker) :
    Except Stop (State × Thread × Option (Nat × Nat × BitVec 12)) :=
  match currentTile s h with
  | none => .error (.trap 8 h)
  | some (die, x) =>
    if who = .abandon ∧ x.persistent then .error (.trap 8 h)
    else
      match reserve s core t with
      | .error e => .error e
      | .ok _ =>
        if ¬x.sealed then .error (.park (.retry (.seal die x.base)))
        else if x.persistent then (if who = .drop then .error (.trap 8 h) else .ok (s, t, none))
        else if x.count = 0 then .error (.trap 8 h)
        else if n = 0 then .ok (s, t, none)
        else
          let k := Nat.min n x.count.toNat
          match logOp s core t (.countDown die x.base x.gen k) with
          | .error e => .error e
          | .ok (s1, t1) =>
            let left := x.count - BitVec.ofNat 12 k
            let zero := decide (left = 0)
            let s2 := setTile s1 die { x with count := left, freePending := zero && t.inRegion, zeroBy := t.uid }
            .ok (s2, t1, if zero && !t.inRegion then some (die, x.base, x.gen) else none)

/-- The free that follows a count of zero (R186). -/
def freeNext (s : State) : Option (Nat × Nat × BitVec 12) → State
  | some (die, base, gen) => freeNamed s die base gen
  | none => s

def execTdrop (a : BitVec 5) : State → Host.Outcome State Fault Refusal :=
  run (.tdrop a) fun s t => withSources s t [a] [] fun s t =>
    ofSpace s t (t.gVal a) <|
    match consumeTile s s.cur.1 t (t.gVal a) 1 .drop with
    | .error e => .error e
    | .ok (s1, t1, frees) => .ok (.next (freeNext s1 frees) t1)

def execTabandon (a b : BitVec 5) : State → Host.Outcome State Fault Refusal :=
  run (.tabandon a b) fun s t => withSources s t [a, b] [] fun s t =>
    let n := t.gVal b
    check (decide (n.toNat ≤ 4095)) (.trap 3 n) <|
    ofSpace s t (t.gVal a) <|
    match consumeTile s s.cur.1 t (t.gVal a) n.toNat .abandon with
    | .error e => .error e
    | .ok (s1, t1, frees) => .ok (.next (freeNext s1 frees) t1)

/-- TGET's destination (R436): the offset in the own local memory, with room for the whole tile. -/
def tgetDest (s : State) (va : Word) (size : Nat) : Option Nat :=
  match targetOf s.cur.1 s.pod va with
  | some (.localMem _ off true) => if off % 64 = 0 ∧ off + size ≤ 0x8_0000 then some off else none
  | _ => none

/-- The destination's lines of a TGET, logged in a region (R274). -/
def logDest (s : State) (t : Thread) (p : Part) : Except Stop (State × Thread) :=
  if t.inRegion then logStore s s.cur.1 t [p] else .ok (s, t)

def execTget (a b : BitVec 5) : State → Host.Outcome State Fault Refusal :=
  run (.tget a b) fun s t => withSources s t [a, b] [] fun s t =>
    let core := s.cur.1
    let h := t.gVal a
    let va := t.gVal b
    let size := ((currentTile s h).map fun x => tileSize x.2.cls).getD 0
    match tgetDest s va size with
    | none => .error (.trap 3 va)
    | some off =>
      ofSpace s t h <|
      let dest : Part := ⟨va, Place.lm core off, size, [], 0⟩
      -- the lines are logged at issue, before the wait for the seal
      match logDest s t dest with
      | .error e => .error e
      | .ok (s1, t1) =>
        match consumeTile s1 core t1 h 1 .read with
        | .error (.park p) => .ok (.parked s1 t1 p)
        | .error e => .error e
        | .ok (s2, t2, frees) =>
          let src := ((currentTile s h).map fun x => Place.tile x.1 x.2.base).getD 0
          .ok (.parked s2 t2 (.access ⟨.tget dest frees, [⟨tileAddress h, src, size, [], 0⟩], none⟩))

/-! ### TINFO (R190) -/

/-- The status word of a current tile. -/
def tileStatus (x : Tile) : Word :=
  x.gen ++ 0#4 ++ BitVec.ofNat 16 x.job ++ 0#10 ++ 1#1 ++ BitVec.ofBool x.freePending ++ BitVec.ofBool x.persistent ++
    BitVec.ofBool x.sealed ++ BitVec.ofNat 4 x.part ++ BitVec.ofNat 2 x.cls ++ x.count

def execTinfo (d a : BitVec 5) : State → Host.Outcome State Fault Refusal :=
  run (.tinfo d a) fun s t => withSources s t [a] [] fun s t =>
    retG s t d (match currentTile s (t.gVal a) with
      | some (_, x) => tileStatus x
      | none => 0)

end Sys2Proof.Machine
end

