-- ==== Sys2Proof/Machine/Matrix.lean ====
section
/-!
DEFINITION. The matrix unit's instructions (R392 to R410) and selection states (R411 to R413).
-/
namespace Sys2Proof.Machine

/-! ### Checks (R397) -/

/-- Steps 3 and 4 of R397: an assigned accumulator, not poisoned where it is read (R138, R282). -/
def withAcc (i : Instr) (t : Thread) (ad : BitVec 3) (reads : Bool) (f : Acc → Except Stop Eff) : Except Stop Eff :=
  match t.accAt ad with
  | none => .error (illegal i)
  | some a => if reads && a.poisoned then .error (.trap 14 (ad.zeroExtend 64)) else f a

/-- The waits of R396: the thread's queued products that write the accumulator complete first. -/
def quiet (s : State) (t : Thread) (ad : BitVec 3) (f : Except Stop Eff) : Except Stop Eff :=
  if (s.core s.cur.1).busyAcc t.uid ad then .error (.park (.retry (.products (.acc ad)))) else f

/-- An A operand (R393): its place, the place its 128 KiB unit begins at, its attribute, its address. -/
structure AOperand where
  va : Word
  loc : Nat
  unit : Nat
  attr : BitVec 9
  deriving DecidableEq, Repr

/-- Formats that some pair of R211 has. -/
def pairable (attr : BitVec 9) : Bool :=
  let f := attrFmt attr
  (decide (3 ≤ f) && decide (f ≤ 8)) || decide (f = 14)

/-- Admission of the 12 KiB block of a tile store, granule by granule (R187). -/
def blockParts (va : Word) (loc n : Nat) : List Part :=
  if Place.tier loc = .tileStore then
    (List.range ((n + 4095) / 4096)).map fun i =>
      ⟨va + BitVec.ofNat 64 (4096 * i), loc + 4096 * i, Nat.min 4096 (n - 4096 * i), [], i⟩
  else [⟨va, loc, n, [], 0⟩]

/-- Whether a block of `n` bytes at an offset stays within its 128 KiB unit, and out of its scale area. -/
def inUnit (attr : BitVec 9) (off n : Nat) : Bool :=
  decide (off % 0x2_0000 + n ≤ (if attrGeom attr = 0 then 0x2_0000 else 0x1_E000))

/-- The A block stays out of the scale area of its unit (R166, step 6 of R397). -/
def AOperand.clear (a : AOperand) (attr : BitVec 9) : Bool := inUnit attr (a.loc - a.unit) 12288

/-- Step 5 of R397 for A at a plain address: own local memory, or the own die's tile store where `tiles`; aligned, then inside
its page or store. -/
def plainA (s : State) (t : Thread) (va : Word) (tiles : Bool) : Except Stop AOperand :=
  let core := s.cur.1
  match targetOf core s.pod va with
  | some (.localMem c off true) =>
    let attr := lmAttr s c off
    if off % 0x1000 ≠ 0 then .error (.trap 2 va)
    else if off % 0x2_0000 + 12288 ≤ 0x2_0000 then .ok ⟨va, Place.lm c off, Place.lm c (off / 0x2_0000 * 0x2_0000), attr⟩
    else .error (.trap 3 va)
  | some (.tileStore d off _) =>
    if !tiles || decide (d ≠ State.dieOf core) then .error (.trap 3 va)
    else if off % 0x1000 ≠ 0 then .error (.trap 2 va)
    else if 0x400_0000 < off + 12288 then .error (.trap 3 va)
    else
      match admitParts s core t true false (blockParts va (Place.tile d off) 12288) with
      | .error e => .error e
      | .ok _ => .ok ⟨va, Place.tile d off, Place.tile d off, (s.core core).tsfmt⟩
  | _ => .error (.trap 3 va)

/-- Step 5 of R397 for a tile named by a handle (R393): on the own die, of a size that holds the block, of a job that
admits the thread (R187). A stale handle is left to step 7. -/
def handleA (s : State) (t : Thread) (h : Word) : Except Stop AOperand :=
  let core := s.cur.1
  let va := tileAddress h
  match targetOf core s.pod va with
  | some (.tileStore d off _) =>
    if d ≠ State.dieOf core then .error (.trap 3 va)
    else
      let a : AOperand := ⟨va, Place.tile d off, Place.tile d off, (s.core core).tsfmt⟩
      match currentTile s h with
      | some (_, x) => if x.cls = 0 || !tileAdmits s t x then .error (.trap 3 va) else .ok a
      | none => .ok a
  | _ => .error (.trap 3 va)

/-- R394: an offset of B columns for an attribute. -/
def bOffsetOk (attr : BitVec 9) (b : Word) : Bool :=
  decide (b.toNat % 128 = 0) && decide (b.toNat + 384 ≤ (if attrGeom attr = 0 then 0x2_0000 else 0x1_E000))

/-! ### Products -/

/-- The product enters the queue, and its instruction completes; while the queue is full it waits with the operands it has
read (R396). -/
def enqueue (s : State) (t : Thread) (p : Product) : Except Stop Eff :=
  if (s.core s.cur.1).products.length < 8 then .ok (.next (queueProduct s s.cur.1 p) t)
  else .ok (.parked s t (.enqueue p none s.pushSeq))

/-- Step 7 of R397 and the effect of MMA and MDIST (R399) on operands that have been checked: with `c` the tile is consumed,
and stays so where the product's operands turn out poisoned (R260). -/
def productOf (s : State) (t : Thread) (ad : BitVec 3) (ga gb : Word) (dist c : Bool) (a : AOperand) (x : Operands) :
    Except Stop Eff :=
  let core := s.cur.1
  match (if c then consumeTile s core t ga 1 .read else .ok (s, t, none)) with
  | .error e => .error e
  | .ok (s1, t1, frees) =>
    released s t <|
    let s2 := s1.drainOf t.uid
    if poisonA s2 x.attrA a.loc a.unit then .ok (.stop (freeNext s2 frees) t1 (.error a.va))
    else if poisonB s2 core x.attrB gb.toNat then .ok (.stop (freeNext s2 frees) t1 (.error 0))
    else
      enqueue s2 (t1.markDirty ad.toNat)
        (captureProduct s2 core t1 ad dist x.attrA x.attrB a.loc a.unit gb.toNat x.books frees)

/-- MMA and MDIST from step 5 of R397 on (R399). -/
def productFrom (s : State) (t : Thread) (ad : BitVec 3) (ga gb : Word) (dist c : Bool) : Except Stop Eff :=
  match (if c then handleA s t ga else plainA s t ga true) with
  | .error e => .error e
  | .ok a =>
    let x := operandsAt s t a.attr
    check (bOffsetOk x.attrB gb) (.trap 3 gb) <|
    check ((productPair x.attrA x.attrB).isSome && a.clear x.attrA) (.trap 5 a.va) <|
    keepIssue s t (.operands x.attrA x.attrB x.books) (productOf s t ad ga gb dist c a x)

def execMma (d : BitVec 3) (a b : BitVec 5) (c : BitVec 1) : State → Host.Outcome State Fault Refusal :=
  run (.mma d a b c) fun s t => withSources s t [a, b] [] fun s t =>
    withAcc (.mma d a b c) t d true fun _ => productFrom s t d (t.gVal a) (t.gVal b) false (decide (c = 1))

def execMdist (d : BitVec 3) (a b : BitVec 5) : State → Host.Outcome State Fault Refusal :=
  run (.mdist d a b) fun s t => withSources s t [a, b] [] fun s t =>
    withAcc (.mdist d a b) t d true fun _ => productFrom s t d (t.gVal a) (t.gVal b) true false

/-- The product of an MMRT enters the queue, or waits for an entry; the thread then waits for the product (R402 step 2). -/
def enqueueRotation (s : State) (t : Thread) (p : Product) (h : Handoff) : Except Stop Eff :=
  if (s.core s.cur.1).products.length < 8 then .ok (.parked (queueProduct s s.cur.1 p) t (.product h p.ad))
  else .ok (.parked s t (.enqueue p (some h) s.pushSeq))

/-- MMRT at the end of the wait of R402 step 1: the pair judged, the product made; in a region the rotation is
deferred (R403). -/
def rotateFrom (s : State) (t : Thread) (ad : BitVec 3) (a : AOperand) (b : Nat) (cluster : Bool)
    (attr : BitVec 9) (books : List (List (BitVec 16))) : Except Stop Eff :=
  let core := s.cur.1
  let attrB := (s.core core).bsfmt
  let h : Handoff := ⟨cluster, a.loc % 0x8_0000, b, attr⟩
  check (productPair attr attrB).isSome (.trap 5 a.va) <|
  released s t <|
  -- the thread's earlier stores to the operands are performed before they are read (R227)
  let s := s.drainOf t.uid
  if poisonA s attr a.loc a.unit then .error (.error a.va)
  else if poisonB s core attrB b then .error (.error 0)
  else
    match logOp s core t (.publish (.rotate h)) with
    | .error e => .error e
    | .ok (s1, t1) =>
      let p := captureProduct s1 core t1 ad false attr attrB a.loc a.unit b books none
      enqueueRotation s1 { t1.markDirty ad.toNat with atIssue := none } p h

/-- MMRT (R401, R402). -/
def execMmrt (d : BitVec 3) (a b : BitVec 5) (g : BitVec 2) : State → Host.Outcome State Fault Refusal :=
  run (.mmrt d a b g) fun s t => withSources s t [a, b] [] fun s t =>
    withAcc (.mmrt d a b g) t d true fun _ =>
      let core := s.cur.1
      match plainA s t (t.gVal a) false with
      | .error e => .error e
      | .ok x =>
        let held := operandsAt s t x.attr
        let gb := t.gVal b
        let off := x.loc % 0x8_0000
        check (bOffsetOk (s.core core).bsfmt gb) (.trap 3 gb) <|
        check (pairable held.attrA && x.clear held.attrA) (.trap 5 x.va) <|
        keepIssue s t (.operands held.attrA held.attrB held.books) <|
        if aFull s core off && bReady s core gb.toNat && !rotationPending t (decide (g = 1)) off gb.toNat then
          rotateFrom s t d x gb.toNat (decide (g = 1)) held.attrA held.books
        else .error (.park (.retry (.operands (decide (g = 1)) off gb.toNat)))

/-! ### Transfers (R406 to R408) -/

/-- The rows of an accumulator transfer, checked row by row (R406, R407): steps 3 to 6 and 8 of R339. -/
def rowParts (s : State) (t : Thread) (write : Bool) (base pitch : Word) (len : Nat) (data : Nat → List Byte) :
    List Nat → List Part → Except Stop (List Part)
  | [], acc => .ok acc
  | i :: rest, acc =>
    match resolve s s.cur.1 t (!write) write false len 1 [(i, base + BitVec.ofNat 64 i * pitch)] with
    | .error e => .error e
    | .ok spots =>
      let parts := spots.map fun x => { x.part with data := data i }
      match admitParts s s.cur.1 t (!write) write parts with
      | .error e => .error e
      | .ok _ => rowParts s t write base pitch len data rest (acc ++ parts)

/-- The waits of R396 of an MST: its rows are checked at issue, before them. -/
def quietRows (s : State) (t : Thread) (ad : BitVec 3) (base pitch : Word) (len : Nat) (f : Except Stop Eff) :
    Except Stop Eff :=
  if (s.core s.cur.1).busyAcc t.uid ad then
    match rowParts s t true base pitch len (fun _ => []) (List.range 32) [] with
    | .error e => .error e
    | .ok _ => .error (.park (.retry (.products (.acc ad))))
  else f

/-- An element of MST (R406): its bits and its flags. R209 says that a conversion to a format that is not narrower is exact, R203,
R220 and R406 that `.sat` clamps an infinity; DESIGN CHOICE (log entry 68): an infinite f32 element stored to f32 with `.sat` is
clamped, with SAT and NX. -/
def mstElement (kindInt : Bool) (fmt : Nat) (sat : Bool) (mode : Mode) (x : BitVec 32) : Nat × FlagSet :=
  if kindInt then narrowInt fmt sat x.toInt
  else
    let v := decodeFloat (floatFmt 2) x.toNat
    if sat then roundSat fmt mode v else roundTo fmt mode v

/-- The targets that KIND allows (R406). -/
def mstTarget (kindInt : Bool) (fmt : Nat) : Bool :=
  if kindInt then decide (7 ≤ fmt) && decide (fmt ≤ 12) else decide (2 ≤ fmt) && decide (fmt ≤ 6)

def execMst (d : BitVec 3) (a b : BitVec 5) (f : BitVec 4) (r : BitVec 3) (x : BitVec 1) :
    State → Host.Outcome State Fault Refusal :=
  run (.mst d a b f r x) fun s t => withSources s t [a, b] [] fun s t =>
    withAcc (.mst d a b f r x) t d true fun acc =>
      let base := t.gVal a
      let pitch := t.gVal b
      let size := fmtWidth f.toNat / 8
      check (targetOf s.cur.1 s.pod base).isSome (.trap 3 base) <|
      check (decide (base.toNat % (32 * size) = 0) && decide (pitch.toNat % (32 * size) = 0) &&
        decide (32 * size ≤ pitch.toNat) && decide (pitch.toNat < 2 ^ 32)) (.trap 2 base) <|
      quietRows s t d base pitch (32 * size) <|
      check (mstTarget acc.kindInt f.toNat) (.trap 3 (d.zeroExtend 64)) <|
      let cells : List (Nat × FlagSet) := acc.elems.map (mstElement acc.kindInt f.toNat (decide (x = 1)) (t.mode r))
      let row (i : Nat) : List Byte := ((cells.drop (32 * i)).take 32).flatMap fun c => toBytes size c.1
      match rowParts s t true base pitch (32 * size) row (List.range 32) [] with
      | .error e => .error e
      | .ok parts => access s t ⟨.mst d (flagsOf cells), parts, none⟩

def execMld (d : BitVec 3) (a b : BitVec 5) (f : BitVec 4) : State → Host.Outcome State Fault Refusal :=
  run (.mld d a b f) fun s t => withSources s t [a, b] [] fun s t =>
    withAcc (.mld d a b f) t d false fun _ =>
      let base := t.gVal a
      let pitch := t.gVal b
      check (targetOf s.cur.1 s.pod base).isSome (.trap 3 base) <|
      check (decide (base.toNat % 128 = 0) && decide (pitch.toNat % 128 = 0) && decide (128 ≤ pitch.toNat) &&
        decide (pitch.toNat ≤ 2 ^ 32 - 128)) (.trap 2 base) <|
      match rowParts s t false base pitch 128 (fun _ => []) (List.range 32) [] with
      | .error e => .error e
      | .ok parts =>
        quiet s t d (access s t ⟨.mld d (decide (f ≠ 2)), parts, none⟩)

/-- MZERO (R407, R282). -/
def zeroed (a : Acc) : Acc :=
  { a with elems := List.replicate 1024 0, poisoned := false, flags := if a.poisoned then 0 else a.flags }

def execMzero (d : BitVec 3) : State → Host.Outcome State Fault Refusal :=
  run (.mzero d) fun s t => withAcc (.mzero d) t d false fun acc =>
    quiet s t d <| .ok (.next s ((t.setAcc d.toNat (zeroed acc)).markDirty d.toNat))

/-- MFLG's word (R408): the flags, KIND in bit 6. -/
def accWord (a : Acc) : Word := a.flags.zeroExtend 64 ||| (if a.kindInt then 64#64 else 0#64)

def execMflg (d : BitVec 3) (g : BitVec 5) (c : BitVec 1) : State → Host.Outcome State Fault Refusal :=
  run (.mflg d g c) fun s t => withAcc (.mflg d g c) t d true fun acc =>
    quiet s t d <|
    -- with the flags cleared, the result is all that is left to do (R143)
    if c = 1 then retDone s (t.setAcc d.toNat { acc with flags := 0 }) g (accWord acc) else retG s t g (accWord acc)

/-! ### MCBK and MLDB (R409, R410) -/

/-- MCBK (R409): it waits for the queued products that name its register (R200). What a sibling's decoding access takes that is
issued while it waits is not said; DESIGN CHOICE (log entry 24): the entries as they stand then, the old ones. -/
def execMcbk (n : BitVec 3) (a : BitVec 5) : State → Host.Outcome State Fault Refusal :=
  run (.mcbk n a) fun s t =>
    if t.inRegion then .error (illegal (.mcbk n a))
    else
      withSources s t [a] [] fun s t =>
        match resolve s s.cur.1 t true false false 32 32 [(0, t.gVal a)] with
        | .error e => .error e
        | .ok spots =>
          let parts := spots.map (·.part)
          match admitParts s s.cur.1 t true false parts with
          | .error e => .error e
          | .ok _ =>
            check (!(s.core s.cur.1).usesBook n) (.park (.retry (.products (.book n)))) <|
            access s t ⟨.mcbk n, parts, none⟩

/-- MLDB's attribute and unit for a located source (R410): TSFMT in a tile store. -/
def mldbAttr (s : State) (x : Spot) : BitVec 9 := x.attr.getD (s.core s.cur.1).tsfmt

/-- Whether the 12 KiB from a located source on lie in the element area of one page (R410). -/
def inOnePage (s : State) (t : Thread) (x : Spot) (attr : BitVec 9) : Bool :=
  match Place.tier x.part.loc with
  | .tileStore => decide (Place.tileOff x.part.loc + 12288 ≤ 0x400_0000)
  | .localMem => inUnit attr (x.part.loc % 0x8_0000) 12288
  | _ =>
    if attrGeom attr ≠ 0 then inUnit attr (x.part.loc % 0x2_0000) 12288
    else
      (cachedTrans s s.cur.1 t.asid x.part.va false).any fun tr =>
        tr.covers t.asid (x.part.va + 12287)

/-- MLDB from its translation on, with the attribute of its issue (R166). -/
def mldbFrom (s : State) (t : Thread) (b : Word) (x : Spot) : Except Stop Eff :=
  let attr := (operandsAt s t (mldbAttr s x)).attrA
  check (decide (Place.tier x.part.loc ≠ .cxl)) (.trap 3 x.part.va) <|
  check (bOffsetOk attr b) (.trap 2 b) <|
  check (inOnePage s t x attr) (.trap 5 x.part.va) <|
  match admitParts s s.cur.1 t true false (blockParts x.part.va x.part.loc 12288) with
  | .error e => .error e
  | .ok _ =>
    let unit := x.part.loc / 0x2_0000 * 0x2_0000
    keepIssue s t (.operands attr 0 []) <|
    check ((s.core s.cur.1).products.isEmpty) (.park (.retry (.products .all))) <|
    released s t <|
    access s t ⟨.mldb attr b.toNat (scaleSpan attr unit (x.part.loc - unit) 32), [x.part], none⟩

def execMldb (a b : BitVec 5) : State → Host.Outcome State Fault Refusal :=
  run (.mldb a b) fun s t =>
    if t.inRegion then .error (illegal (.mldb a b))
    else
      withSources s t [a, b] [] fun s t =>
        let gb := t.gVal b
        match resolve s s.cur.1 t true false false 12288 0x1000 [(0, t.gVal a)] with
        | .error e => .error e
        | .ok (x :: _) => check (decide (gb.toNat % 128 = 0)) (.trap 2 gb) (mldbFrom s t gb x)
        | .ok [] => .ok (.next s t)

/-! ### MTOPK (R411 to R413) -/

/-- Fields of a selection state's header (R411). -/
def topK (h : List Byte) : Nat := ofBytes (h.take 2)
def topCap (h : List Byte) : Nat := ofBytes ((h.drop 2).take 2)
def topN (h : List Byte) : Nat := ofBytes ((h.drop 4).take 2)
def topSst (h : List Byte) : Nat := (h.getD 6 0).toNat
def topLst (h : List Byte) : Nat := (h.getD 7 0).toNat
def topScale (h : List Byte) : Nat := ofBytes ((h.drop 8).take 4)

/-- Distance between states (R411). -/
def topStride (cap : Nat) : Nat := (128 + 8 * cap + 63) / 64 * 64

/-- R411's limits on a header, for the common CAP. -/
def topFormed (cap : Nat) (h : List Byte) : Bool :=
  decide (1 ≤ cap) && decide (cap ≤ 4095) && decide (topCap h = cap) && decide (1 ≤ topK h) && decide (topK h ≤ cap) &&
    decide (topN h ≤ topK h) && decide (topSst h ≤ 4) && decide (topLst h ≤ 4) &&
    decide (ofBytes ((h.drop 20).take 4) = 0) && decide (ofBytes ((h.drop 104).take 24) = 0)

/-- An element or entry: its 32-bit pattern and its index. -/
abbrev Pick := Nat × Nat

/-- Order of values by KIND, −0 = +0 (R412). -/
def topOrder (kindInt : Bool) (x : Pick) : Int :=
  if kindInt then signedLane 32 x.1
  else if 2 ^ 31 ≤ x.1 then -((x.1 - 2 ^ 31 : Nat) : Int) else x.1

def topValue (kindInt : Bool) (x : Pick) : Exact :=
  if kindInt then .ofInteger (signedLane 32 x.1) else decodeFloat (floatFmt 2) x.1

/-- The term of an element (R412) with its rounding flags. -/
def topTerm (kindInt exp2 : Bool) (scale : Nat) (x : Pick) : Exact × FlagSet :=
  let v := topValue kindInt x
  if exp2 then
    let r := exp2Lane 2 .rne ((decodeFloat (floatFmt 2) scale).mul v)
    (decodeFloat (floatFmt 2) r.1, r.2)
  else (v, 0)

/-- The largest candidates, one after another; which of equal ones comes first is open (R9). -/
def takeLargest (kindInt : Bool) : Nat → State → List Pick → List Pick → State × List Pick × List Pick
  | 0, s, cands, kept => (s, kept, cands)
  | n + 1, s, cands, kept =>
    match cands with
    | [] => (s, kept, [])
    | x :: rest =>
      let top := rest.foldl (fun m y => max m (topOrder kindInt y)) (topOrder kindInt x)
      let best := (List.range cands.length).filter fun i => (cands[i]?).any fun y => decide (topOrder kindInt y = top)
      let c := s.choose best.length
      let i := best.getD c.1 0
      takeLargest kindInt n c.2 (cands.eraseIdx i) (kept ++ [cands.getD i x])

/-- A sum of a state as it is kept (R411): the slot, and whether it has entered overflow. -/
structure TopSum where
  slot : BankSlot
  excess : Bool
  deriving DecidableEq, Repr

/-- A sum from its 320 bits and its state code; it keeps no signs of zeros (log entry 61). -/
def topSumOf (code : Nat) (bytes : List Byte) : TopSum :=
  ⟨⟨(BitVec.ofNat 320 (ofBytes bytes)).signExtend 384, decide (code = 3), decide (code = 1), decide (code = 2), false, false⟩,
    decide (code = 4)⟩

def TopSum.addAll (x : TopSum) (terms : List Exact) : TopSum := { x with slot := terms.foldl BankSlot.add x.slot }

/-- The state code of a sum (R411, R216, R412). -/
def TopSum.code (x : TopSum) : Nat :=
  if x.slot.nan || (x.slot.pinf && x.slot.ninf) then 3
  else if x.slot.pinf then 1
  else if x.slot.ninf then 2
  else if x.excess || (x.slot.value).isNone then 4
  else 0

/-- SELF and LEFTF (R411): as BRGET reads a slot into f32 with RNE. -/
def TopSum.read (x : TopSum) : Nat × FlagSet :=
  if x.code = 4 then ((floatFmt 2).nanBits, NV) else x.slot.read 2 .rne

/-- The bytes of a merged state, with its flags (R412): header fields from byte 4 on, and the kept entries. -/
def topBytes (h : List Byte) (kept : List Pick) (sel left : TopSum) : List Byte :=
  h.take 4 ++ toBytes 2 kept.length ++ [BitVec.ofNat 8 sel.code, BitVec.ofNat 8 left.code] ++
    (h.drop 8).take 4 ++ toBytes 4 sel.read.1 ++ toBytes 4 left.read.1 ++ toBytes 4 0 ++
    toBytes 40 sel.slot.sum.toNat ++ toBytes 40 left.slot.sum.toNat ++ toBytes 24 0 ++
    kept.flatMap fun x => toBytes 4 x.1 ++ toBytes 4 x.2

/-- One row merged into its state (R412): the state's new bytes and the flags. -/
def mergeRow (s : State) (kindInt exp2 : Bool) (h : List Byte) (row : List (BitVec 32)) (index : Nat) :
    State × List Byte × FlagSet :=
  let entries : List Pick := (List.range (topN h)).map fun e =>
    (ofBytes ((h.drop (128 + 8 * e)).take 4), ofBytes ((h.drop (132 + 8 * e)).take 4))
  let elems : List Pick := row.mapIdx fun j x => (x.toNat, (index + j) % 2 ^ 32)
  let isNan (x : Pick) : Bool := decide (topValue kindInt x = .nan)
  let r := takeLargest kindInt (topK h) s (entries ++ elems.filter fun x => !isNan x) []
  let term := topTerm kindInt exp2 (topScale h)
  let selTerms := r.2.1.map term
  let leftTerms := (r.2.2 ++ elems.filter isNan).map term
  let sel := (TopSum.mk BankSlot.reset false).addAll (selTerms.map (·.1))
  let left := (topSumOf (topLst h) ((h.drop 64).take 40)).addAll (leftTerms.map (·.1))
  let flags := (selTerms ++ leftTerms).foldl (fun f x => f ||| x.2) (sel.read.2 ||| left.read.2)
  (r.1, topBytes h r.2.1 sel left, flags)

/-- All rows, in order. -/
def mergeRows (s : State) (t : Thread) (a : Acc) (exp2 : Bool) (base stride cap index : Nat) :
    List Nat → List (Nat × List Byte) → FlagSet → State × List (Nat × List Byte) × FlagSet
  | [], acc, f => (s, acc, f)
  | r :: rest, acc, f =>
    let h := ownView s t (base + r * stride) (128 + 8 * cap)
    let m := mergeRow s a.kindInt exp2 h ((a.elems.drop (32 * r)).take 32) index
    mergeRows m.1 t a exp2 base stride cap index rest (acc ++ [(base + r * stride, m.2.1)]) (f ||| m.2.2)

/-- The first state that lies outside the own local memory, or whose header is poisoned (R255, R341) or breaks R411. -/
def badState (s : State) (t : Thread) (loc cap : Nat) : Option Nat :=
  (List.range 32).find? fun r =>
    let off := loc % 0x8_0000 + r * topStride cap
    decide (0x8_0000 < off + 128 + 8 * cap) || s.poisonIn (loc + r * topStride cap) 128 ||
      !topFormed cap (ownView s t (loc + r * topStride cap) 128)

/-- How MTOPK stops at state `r`: poison in a header that lies within the local memory is consumed before the header is
judged (R255). -/
def stateStop (s : State) (va : Word) (loc cap r : Nat) : Stop :=
  let at' := va + BitVec.ofNat 64 (r * topStride cap)
  if loc % 0x8_0000 + r * topStride cap + 128 ≤ 0x8_0000 && s.poisonIn (loc + r * topStride cap) 128 then .error at'
  else .trap 3 at'

/-- The merge with its writes logged in a region (R274), unless its flags will trap. -/
def topkFrom (s : State) (t : Thread) (a : Acc) (va : Word) (loc cap index : Nat) (exp2 : Bool) : Except Stop Eff :=
  let stride := topStride cap
  match (List.range 32).find? fun r => s.poisonIn (loc + r * stride) (128 + 8 * cap) with
  | some r => .error (.error (va + BitVec.ofNat 64 (r * stride)))
  | none =>
    let m := mergeRows s t a exp2 loc stride cap index (List.range 32) [] 0
    let parts : List Part := m.2.1.map fun w => ⟨va + BitVec.ofNat 64 (w.1 - loc), w.1, w.2.length, w.2, 0⟩
    match (if t.inRegion && decide (m.2.2 &&& t.enables = 0) then logStore m.1 s.cur.1 t parts else .ok (m.1, t)) with
    | .error e => .error e
    | .ok (s1, t1) => .ok (.parked s1 t1 (.select m.2.1 m.2.2))

def execMtopk (d : BitVec 3) (a b : BitVec 5) (e : BitVec 1) : State → Host.Outcome State Fault Refusal :=
  run (.mtopk d a b e) fun s t => withSources s t [a, b] [] fun s t =>
    withAcc (.mtopk d a b e) t d true fun acc =>
      let va := t.gVal a
      match targetOf s.cur.1 s.pod va with
      | some (.localMem c off true) =>
        let loc := Place.lm c off
        let cap := topCap (ownView s t loc 4)
        check (decide (off % 64 = 0)) (.trap 3 va) <|
        match badState s t loc cap with
        | some r => .error (stateStop s va loc cap r)
        | none =>
          quiet s t d (topkFrom s t acc va loc cap ((t.gVal b).toNat % 2 ^ 32) (decide (e = 1)))
      | _ => .error (.trap 3 va)

/-! ### What ends these instructions later -/

/-- The states of an MTOPK are written, or its trap is taken (R413); a handler's writes take effect in what its thread's
open regions hold of the place (R252). -/
def execSelectionMergeComplete (core slot : Nat) (s : State) : Host.Outcome State Fault Refusal :=
  let k := core * 16 + slot
  match s.threadIn core slot with
  | some t =>
    match t.park with
    | some (.select writes flags) =>
      match t.raise flags with
      | .error e => .next (stopIn s k { t with park := none } e)
      | .ok t1 =>
        let s1 := writes.foldl (fun s w => s.store w.1 w.2) s
        let parts : List Part := writes.map fun w => ⟨0, w.1, w.2.length, w.2, 0⟩
        .next ((s1.putSlot k (afterAccess s1 t1 parts true false).advance).wake k)
    | _ => .next s
  | none => .next s

end Sys2Proof.Machine
end

