-- ==== Sys2Proof/Machine/Message.lean ====
section
/-!
DEFINITION. Messages, ports and empty registers (R437 to R441).
-/
namespace Sys2Proof.Machine

/-- R438: the target word of a SEND, in its register form when `toReg`. -/
def sendTargetOk (s : State) (toReg : Bool) (w : Word) : Bool :=
  decide (bitsOf w.toNat 63 26 = 0) && decide (bitsOf w.toNat 15 14 = 0) &&
    (if toReg then decide (sendReg w ≠ 0 ∨ sendKindV w = true) && (!sendKindV w || decide ((sendReg w).toNat < 16))
     else decide (bitsOf w.toNat 25 16 = 0)) &&
    (if sendOwn w then decide (sendMod w = 0) else s.inPod (sendMod w))

/-- The first attempt at delivery (R144, R145): what precedes the SEND is performed first (R245). A message to another core is
delivered after the issues of its cycle (R140), and travels to another node in a packet (R24). -/
def sendNow (s : State) (t : Thread) (m : Message) : Except Stop Eff :=
  released s t <|
  let s1 := s.drainOf t.uid
  if sendsHome s s.cur.1 m.target then
    match deliverMessage s1 m with
    | some s2 => .ok (.next s2 (syncRegs s2 t))
    | none => .ok (.parked s1 t (.send m 1 (s1.now + 32) (decide (retryEntries s1 s.cur.1 < 8))))
  else .ok (.parked s1 t (.send m 0 s1.now true))

/-- SEND (R438): deferred in a region (R247), delivered otherwise. -/
def sendShape (i : Instr) (toReg : Bool) (a b : BitVec 5) : State → Host.Outcome State Fault Refusal :=
  run i fun s t => withSources s t [a] [b.toNat] fun s t =>
    let w := t.gVal a
    let m : Message := ⟨toReg, w, (t.vVal b.toNat).extractLsb' 0 256⟩
    check (sendTargetOk s toReg w) (.trap 3 w) <|
    if t.inRegion then
      match logOp s s.cur.1 t (.publish (.send m)) with
      | .error e => .error e
      | .ok st => .ok (.next st.1 st.2)
    else sendNow s t m

def execSend (a b : BitVec 5) : State → Host.Outcome State Fault Refusal := sendShape (.send a b) false a b
def execSendR (a b : BitVec 5) : State → Host.Outcome State Fault Refusal := sendShape (.sendR a b) true a b

/-- WAITM (R439). -/
def execWaitm : State → Host.Outcome State Fault Refusal :=
  run .waitm fun s t =>
    if (s.core s.cur.1).mailbox = [] then .error (.park (.retry .mailbox)) else .ok (.next s t)

/-- The oldest message removed (R439), logged in a region (R275). -/
def takeMail (s : State) (t : Thread) (m : BitVec 256) (rest : List (BitVec 256)) : Except Stop (State × Thread) :=
  match logOp s s.cur.1 t (.recvm m) with
  | .error e => .error e
  | .ok st => .ok (mailRoom (st.1.modCore s.cur.1 fun c => { c with mailbox := rest }) s.cur.1, st.2)

/-- RECVM (R439): the count held before, and the oldest message if there is one. -/
def execRecvm (d a : BitVec 5) : State → Host.Outcome State Fault Refusal :=
  run (.recvm d a) fun s t =>
    match reserveAll s s.cur.1 t (1 + t.poutRecords a), (s.core s.cur.1).mailbox with
    | .error e, _ => .error e
    | .ok _, [] => retG s t a 0
    | .ok _, m :: rest =>
      match takeMail s t m rest with
      | .error e => .error e
      | .ok (s1, t1) => retDone s1 (t1.setV d.toNat (m.zeroExtend 512)) a (BitVec.ofNat 64 (rest.length + 1))

/-- The fields of a port word (R440, R447). -/
def portOf (w : Word) : Port := ⟨w.getLsbD 11, w.extractLsb' 8 3, w.extractLsb' 5 3, w.extractLsb' 3 2⟩

/-- R440: the word can be taken on that core. -/
def portOk (core : Nat) (w : Word) : Bool :=
  decide (bitsOf w.toNat 63 12 = 0) && (neighbour core (portOf w).up.toNat).isSome &&
    (neighbour core (portOf w).dn.toNat).isSome

def execPortcfg (a : BitVec 5) : State → Host.Outcome State Fault Refusal :=
  run (.portcfg a) fun s t => withSources s t [a] [] fun s t =>
    check (portOk s.cur.1 (t.gVal a)) (.trap 3 (t.gVal a)) (.ok (.next s { t with port := portOf (t.gVal a) }))

/-- REMPTY (R441). -/
def execRempty (d : BitVec 5) : State → Host.Outcome State Fault Refusal :=
  run (.rempty d) fun s t =>
    if d = 0 ∨ (t.port.en = true ∧ (d = 28 ∨ d = 29)) then .ok (.next s t)
    else .ok (.next s { t with gFull := t.gFull &&& ~~~(1#32 <<< d.toNat) })

def execRemptyV (d : BitVec 5) : State → Host.Outcome State Fault Refusal :=
  run (.remptyV d) fun s t => .ok (.next s { t with vFull := t.vFull &&& ~~~(1#16 <<< d.toNat) })

end Sys2Proof.Machine
end

