-- ==== Sys2Proof/Machine/Proxy.lean ====
section
/-!
DEFINITION. Pushes between modules (R94, R95, R127) and the flush of a job (R122).
-/
namespace Sys2Proof.Machine

/-! ### Forwarding -/

/-- The key of a target module and job among an I/O die's lost items. -/
def lostKey (m j : Nat) : Nat := m * 0x1_0000 + j

/-- The items of a shadow queue, oldest first. -/
def shadowQueue (x : Io) (m w : Nat) : List (Item × Nat) :=
  x.shadows.filterMap fun e => if e.1 = m ∧ e.2.1 = w then some (e.2.2.1, e.2.2.2) else none

/-- A queue's fabric write can be delivered, or has not been for 1 ms after it was due (R28, R95). -/
def sendable (s : State) (i m w : Nat) : Bool :=
  pathTo s (8 + i) (16 + m) || match shadowQueue (s.io i) m w with
    | [] => false
    | x :: _ => decide (x.2 + 512 + oneMs ≤ s.now)

/-- A shadow queue sent as one fabric write; undeliverable, its items are lost and counted (R95). -/
def forwardQueue (s : State) (i m w : Nat) : State :=
  let x := s.io i
  let items := (shadowQueue x m w).map (·.1)
  let y := { x with shadows := x.shadows.filter fun e => decide ¬(e.1 = m ∧ e.2.1 = w) }
  if items = [] ∨ ¬sendable s i m w then s
  else if pathTo s (8 + i) (16 + m) then { s.setIo i y with shadowOut := s.shadowOut ++ [(m, w, items)] }
  else
    let bump (l : NatMap Nat) (it : Item) : NatMap Nat := NatMap.set l (lostKey m it.job) (NatMap.get l (lostKey m it.job) 0 + 1)
    s.setIo i { y with lost := items.foldl bump y.lost }

/-- A queue is due at 64 items, or 512 cycles after the entry of its oldest (R94). -/
def queueDue (s : State) (i m w : Nat) : Bool :=
  match shadowQueue (s.io i) m w with
  | [] => false
  | x :: rest => (decide (63 ≤ rest.length) || decide (x.2 + 512 ≤ s.now)) && sendable s i m w

def execProxyForward (io mod wl : Nat) (s : State) : Host.Outcome State Fault Refusal :=
  .next (if queueDue s io mod wl then forwardQueue s io mod wl else s)

/-! ### The flush of a job on another module (R122) -/

/-- Every queue for a module is forwarded at once. -/
def forwardAll (s : State) (m : Nat) : State :=
  [0, 1].foldl (fun s i =>
    (((s.io i).shadows.filter fun e => decide (e.1 = m)).map fun e => e.2.1).eraseDups.foldl (fun s w => forwardQueue s i m w) s) s

/-- Slots whose thread has parked on a push of the job to the module. -/
def parkedPushes (s : State) (m j : Nat) : List (Nat × Thread × Push) :=
  s.residents.filterMap fun e => match e.2.park with
    | some (.push m' p _ _) => if m' = m ∧ p.item.job = j then some (e.1, e.2, p) else none
    | _ => none

/-- A deferred push of the job to the module. -/
def defersPush (t : Thread) (m j : Nat) : Bool :=
  t.undo.any fun r => match r.2 with
    | .publish (.push m' p) => decide (m' = m) && decide (p.item.job = j)
    | _ => false

/-- A push of the job to the module is in flight: issued and not yet forwarded or lost, or deferred. -/
def inFlight (s : State) (m j : Nat) : Bool :=
  !(parkedPushes s m j).isEmpty ||
    ([0, 1].any fun i => (s.io i).shadows.any fun e => decide (e.1 = m) && decide (e.2.2.1.job = j)) || (s.everyThread.any fun e => defersPush e.2 m j) ||
    s.rings.any fun e => e.2.pushing.any fun x => decide (x.1 = m) && decide (x.2.1.item.job = j)

/-- A parked push whose packet has come to the I/O die is tried again. -/
def retryArrived (m : Nat) (s : State) (e : Nat × Thread × Push) : State :=
  if e.2.1.park.any (Park.arrived s (e.1 / 16) e.2.1) then retryPush s e.1 e.2.1 m e.2.2 else s

/-- Shadows forwarded and parked pushes tried again, in turn. -/
def drainPushes (m j : Nat) : Nat → State → State
  | 0, s => forwardAll s m
  | n + 1, s =>
    drainPushes m j n ((parkedPushes (forwardAll s m) m j).foldl (retryArrived m) (forwardAll s m))

/-- The items that the I/O dies have lost of a job of a module. -/
def lostItems (s : State) (m j : Nat) : Nat :=
  NatMap.get (s.io 0).lost (lostKey m j) 0 + NatMap.get (s.io 1).lost (lostKey m j) 0

/-- The answer to a flush request, with the lost items told. -/
def answerFlush (s : State) (m j : Nat) : State :=
  let clear (s : State) (i : Nat) : State := s.modIo i fun x => { x with lost := NatMap.drop x.lost (lostKey m j) }
  { [0, 1].foldl clear s with
    flushOut := s.flushOut ++ [(m, j, lostItems s m j)]
    flushAsked := s.flushAsked.filter fun e => decide (e ≠ (m, j)) }

/-- A flush request of module `mod` for its job, answered once nothing of the job is in flight; until then it stands. -/
def execJobFlushRequest (mod job : Nat) (s : State) : Host.Outcome State Fault Refusal :=
  .next (if s.inPod mod ∧ mod ≠ s.modNum then
    let s1 := drainPushes mod job ((parkedPushes s mod job).length + 1) s
    if inFlight s1 mod job then
      { s1 with flushAsked := if s1.flushAsked.contains (mod, job) then s1.flushAsked else s1.flushAsked ++ [(mod, job)] }
    else answerFlush s1 mod job
  else s)

/-! ### The flush of a job of this module (R122) -/

/-- Another module's answer: lost items are charged, and with the last answer the job retires. -/
def execJobFlushReply (mod job lost : Nat) (s : State) : Host.Outcome State Fault Refusal :=
  .next (if (s.job job).flushing.contains mod then
    let s1 := if lost = 0 then s else charge s job lost .tainted
    let rest := (s1.job job).flushing.erase mod
    let s2 := s1.modJob job fun x => { x with flushing := rest }
    -- retirement has stopped where the count has risen (R122)
    if rest = [] ∧ (s2.job job).count = 0 then retireJob s2 job else s2
  else s)

/-! ### Delivery (R94, R127) -/

/-- A proxied item that the module takes: the job is live with POD, the worklist takes pushes of its class (R75). -/
def takesProxied (s : State) (w : Nat) (item : Item) : Bool :=
  jobLive s item.job && (s.job item.job).pod && decide (item.cls < 4) && (s.wl w).en

/-- A proxied item arrives. -/
def deliverProxied (s : State) (i w : Nat) (item : Item) : State :=
  match takesProxied s w item, countUp s item.job with
  | true, some s1 => devicePush s1 ⟨w, item, .ioDie i, true, false⟩
  | _, _ => notify s 3 item.job (itemHead item) (.ioDie i)

def execProxyDelivery (io wl : Nat) (item : BitVec 256) (s : State) : Host.Outcome State Fault Refusal :=
  .next (if io < 2 ∧ wl < 64 then deliverProxied s io wl (itemOf item) else s)

end Sys2Proof.Machine
end

