-- ==== Sys2Proof/Machine/PumpUnit.lean ====
section
/-!
DEFINITION. The events of the pumps (R69, R70, R73).
-/
namespace Sys2Proof.Machine

/-- The supervisor's outbound move (R69), by the pump behind whose ports the slot lies (R469); the request names the core whose
mailbox takes its completion. -/
def execOutboundMove (io frame slot : Nat) (request : PageRequest) (s : State) : Host.Outcome State Fault Refusal :=
  .next (if (ioOf s slot).all fun i => decide (i = io) then
    moveOut (serveFirst s [(Place.hbm s.modNum frame, 0x2_0000)]) io frame slot request.attr request.core else s)

/-- A page lands (R70); `crcBad` has the sectors whose transfer from the device fails its check twice (R71). -/
def execInboundMoveComplete (io move : Nat) (crcBad : BitVec 32) (s : State) : Host.Outcome State Fault Refusal :=
  .next (landMove s io move crcBad)

/-- Moves that wait take the frames that a new tail gives (R72, R73). -/
def execFrameRingRefill (io : Nat) (s : State) : Host.Outcome State Fault Refusal :=
  .next (feedMoves io ((s.io io).moves.length + 1) s)

end Sys2Proof.Machine
end

