-- ==== Sys2Proof/Machine/Rake.lean ====
section
/-!
DEFINITION. The rakes (R103 to R116): popping launch items, checking them and their templates, placing gangs with their
code images, and starting their threads.
-/
namespace Sys2Proof.Machine

/-! ### Reading in a job's space (R109, R111, R159) -/

/-- What a read by the rake comes to: the place, a page that is away and now requested, or a cause of refusal. -/
inductive Reached where
  | found (s : State) (p : Nat)
  | away (s : State)
  | bad (s : State)
  deriving DecidableEq, Repr

/-- The place of an address in a job's space, for a read of `n` bytes within one page, with the walk and the transfers of the
read (R58, R61). Poison refuses it, and an address of the self alias, which is no core's for a rake (log entry 21). -/
def jobPlace (s : State) (j : Job) (va : Word) (n : Nat) : Reached :=
  match jobSpot s j va n false with
  | .place p =>
    let s1 := countTransfers (jobMark s j va false) p n
    if reachable s p ∧ ¬s.poisonRead p n then .found s1 p else .bad (s1.spendBad p n)
  | .away page entry old => .away (startMove s j.asid page entry old)
  | .bad => .bad (walkMark s j.asid va ⟨true, false, j.sv⟩ false)

/-- What a longer read comes to. -/
inductive Image where
  | bytes (s : State) (b : List Byte)
  | away (s : State)
  | bad (s : State)
  deriving DecidableEq, Repr

/-- `n` bytes of a job's space, page by page. -/
def readPages (j : Job) : Nat → State → Word → Nat → List Byte → Image
  | 0, s, _, _, _ => .bad s
  | fuel + 1, s, va, n, acc =>
    if n = 0 then .bytes s acc
    else
      let k := Nat.min n (0x2_0000 - va.toNat % 0x2_0000)
      match jobPlace s j va k with
      | .bad s1 => .bad s1
      | .away s1 => .away s1
      | .found s1 p => readPages j fuel s1 (va + BitVec.ofNat 64 k) (n - k) (acc ++ s1.bytes p k)

/-! ### Templates (R105, R106) -/

structure Template where
  entry : Nat
  image : Word
  len : Nat
  loadOff : Nat
  size : Nat
  pair : Bool
  span : Bool
  acc : Nat
  radMin : Nat
  res : Nat
  deriving DecidableEq, Repr

/-- The fields of 64 bytes. -/
def templateOf (b : List Byte) : Template :=
  let f (i n : Nat) : Nat := ofBytes ((b.drop i).take n)
  ⟨f 0 8, BitVec.ofNat 64 (f 8 8), f 16 4, f 20 4, f 24 2, decide (f 26 1 % 2 = 1), decide (f 26 1 / 2 % 2 = 1), f 27 1, f 28 1, f 29 1⟩

/-- Every field within its limits, every reserved byte zero (R105). -/
def templateFormed (b : List Byte) : Bool :=
  let t := templateOf b
  decide (t.entry ≤ 0x7_FFFC) && decide (t.entry % 4 = 0) && decide (t.image.toNat % 64 = 0) &&
    (decide (t.len ≠ 0) || decide (t.image = 0)) && decide (t.len % 64 = 0) && decide (t.len ≤ 262144) &&
    decide (t.loadOff % 64 = 0) && decide (t.loadOff + t.len ≤ 0x8_0000) && decide (1 ≤ t.size) && decide (t.size ≤ 16384) &&
    decide (ofBytes ((b.drop 26).take 1) < 4) && decide (t.acc ≤ 8) && decide (t.radMin ≤ 3) && decide (t.res ≤ 3) &&
    (b.drop 30).all fun x => decide (x = 0)

/-- Slots that a thread needs, and the need of the gang in slots and accumulators (R106). -/
def Template.per (t : Template) : Nat := if t.pair then 2 else 1
def Template.slotNeed (t : Template) : Nat := t.size * t.per
def Template.accNeed (t : Template) : Nat := t.size * t.acc * t.per

/-! ### Regions and walks (R104, R110, R113) -/

/-- The distance of two mesh positions. -/
def meshDistance (a b : Nat × Nat) : Nat := (a.1 - b.1) + (b.1 - a.1) + ((a.2 - b.2) + (b.2 - a.2))

/-- The positions of the radius region around a hint (R104). -/
def regionCores (x y rad : Nat) : List (Nat × Nat) :=
  let box (x0 y0 w h : Nat) : List (Nat × Nat) :=
    (List.range h).flatMap fun j => (List.range w).map fun i => (x0 + i, y0 + j)
  match rad with
  | 0 => [(x, y)]
  | 1 => box (x / 2 * 2) (y / 2 * 2) 2 2
  | 2 => box (x / 4 * 4) (y / 4 * 4) 4 4
  | _ => box 0 0 16 8

/-- Walk order: nearest first, ties as the region lists them, by lower Y and then lower X. -/
def walkOrder (x y rad : Nat) : List (Nat × Nat) :=
  let cells := regionCores x y rad
  (List.range 24).flatMap fun d => cells.filter fun c => decide (meshDistance c (x, y) = d)

/-- The cores of a region on a die, in walk order, as the model numbers them. -/
def walkCores (s : State) (die x y rad : Nat) : List Nat :=
  (walkOrder x y rad).map fun c => s.modNum * 1024 + die * 128 + c.2 * 16 + c.1

/-- A slot reservation, and the dies that it names (R113). -/
def reservation (s : State) (n : Nat) : Bool × List Nat :=
  let r := NatMap.get s.slotres n (false, 0)
  (r.1, (List.range 8).filter fun d => r.2.getLsbD d)

/-- A die takes no gang, but a spanning one that names the reservation `own` (R113). -/
def dieBlocked (s : State) (die : Nat) (own : Option Nat) : Bool :=
  (List.range 4).any fun n =>
    decide (own ≠ some n) && (reservation s n).1 && (reservation s n).2.contains die

/-- The cores that a gang may be placed on, in walk order. -/
def placementWalk (s : State) (t : Template) (item : Item) : List Nat :=
  let h := item.hint
  let die := hintDie h
  let own : Option Nat := if t.span then some t.res else none
  let dies := if t.span then die :: (ringAfter die).filter fun d => (reservation s t.res).2.contains d else [die]
  (dies.filter fun d => !dieBlocked s d own).flatMap fun d =>
    walkCores s d (hintX h) (hintY h) (Nat.max (hintRad h) t.radMin)

/-! ### What a core can hold (R106, R111) -/

/-- The idle slots of a core (R130). -/
def idleSlots (s : State) (core : Nat) : List Nat :=
  ((List.range 16).map fun i => core * 16 + i).filter fun k => decide (NatMap.get s.slots k .empty = .empty)

/-- Accumulators that a slot takes. -/
def slotAccs (s : State) (k : Nat) : Nat :=
  match NatMap.get s.slots k .empty with
  | .empty => 0
  | .busy t => t.acc.length
  | .trailing lead => match NatMap.get s.slots lead .empty with
    | .busy t => t.acc.length
    | _ => 0
  | .held g | .retiring g => match s.gang? g with
    | some x => x.accs
    | none => 0

def freeAccs (s : State) (core : Nat) : Nat :=
  32 - ((List.range 16).map fun i => slotAccs s (core * 16 + i)).foldl (· + ·) 0

/-- Threads of a template that a core can hold. -/
def coreHolds (s : State) (t : Template) (core : Nat) : Nat :=
  let n := (idleSlots s core).length / t.per
  if t.acc = 0 then n else Nat.min n (freeAccs s core / (t.acc * t.per))

/-- A gang has a thread that is resident, or starts. -/
def gangPresent (s : State) (g : Nat) (x : Gang) : Bool :=
  !x.starting.isEmpty || s.residents.any fun e => decide (e.2.gang.toNat = g)

/-- The images on a core that are in use: of gangs placed there with a resident thread, or whose copy is under way. -/
def imagesInUse (s : State) (core : Nat) : List (Word × Nat × Nat) :=
  (s.gangs.filterMap fun e =>
    if e.2.len ≠ 0 ∧ e.2.cores.contains core ∧ gangPresent s e.1 e.2 then some (e.2.image, e.2.len, e.2.loadOff)
    else none).eraseDups

def CodeTag.is (c : CodeTag) (t : Template) : Bool :=
  decide (c.image = t.image) && decide (c.len = t.len) && decide (c.loadOff = t.loadOff)

/-- Whether a stretch of local memory meets a template's image. -/
def imageOverlaps (t : Template) (off len : Nat) : Bool := decide (off < t.loadOff + t.len) && decide (t.loadOff < off + len)

/-- R111: whether a core is admitted, and whether its streamer has to copy the image. -/
def admitCore (s : State) (t : Template) (core : Nat) : Option Bool :=
  let used := imagesInUse s core
  if t.len = 0 then some false
  else if (s.core core).tags.any fun c => c.is t then some false
  else if used.any fun u => imageOverlaps t u.2.2 u.2.1 then none
  else if 4 ≤ used.length then none
  else some true

/-! ### Placement (R110) -/

/-- A share of a gang: the core, how many threads, whether the image is copied. -/
abbrev Share := Nat × Nat × Bool

/-- Threads given out over a walk. -/
def spreadGang (s : State) (t : Template) : List Nat → Nat → List Share → Option (List Share)
  | _, 0, acc => some acc
  | [], _, _ => none
  | c :: rest, n, acc =>
    let k := Nat.min n (coreHolds s t c)
    match k, admitCore s t c with
    | 0, _ => spreadGang s t rest n acc
    | _, none => spreadGang s t rest n acc
    | _, some load => spreadGang s t rest (n - k) (acc ++ [(c, k, load)])

/-- The shares of a gang: on the first core that holds it whole, or over the walk. -/
def planGang (s : State) (t : Template) (walk : List Nat) : Option (List Share) :=
  if t.slotNeed ≤ 16 then
    (walk.find? fun c => decide (t.size ≤ coreHolds s t c) && (admitCore s t c).isSome).map fun c =>
      [(c, t.size, (admitCore s t c).getD false)]
  else spreadGang s t walk t.size []

/-- The narrowest scope that contains every core (R115). -/
def placementScope (cores : List Nat) : BitVec 4 :=
  let one (f : Nat → Nat) : Bool := (cores.map f).eraseDups.length ≤ 1
  if one id then 1 else if one State.quadOf then 2 else if one State.clusterOf then 3 else if one State.dieOf then 4 else 5

/-- The slots of a share, those of a pair together. -/
def shareSlots (s : State) (t : Template) (x : Share) : List (List Nat) :=
  let idle := idleSlots s x.1
  (List.range x.2.1).map fun i => (idle.drop (i * t.per)).take t.per

/-- The number of a new gang: one of those that no live gang has. -/
def newGangNumber (s : State) : Option Nat × State :=
  let used := s.gangs.length
  if 16384 ≤ used then (none, s)
  else
    let c := s.choose (16384 - used)
    (some (s.gangs.foldl (fun n e => if e.1 ≤ n then n + 1 else n) c.1), c.2)

/-- A thread of a gang in its initial state (R114). -/
def firstThread (uid gang index : Nat) (t : Template) (item : Item) (j : Job) : Thread :=
  let g0 := List.replicate 32 (0 : Word)
  let g1 := ((g0.set 1 (BitVec.ofNat 64 (item.payloadBytes 16 8))).set 2 (BitVec.ofNat 64 (item.payloadBytes 24 8)))
  { Thread.start uid with
    g := (g1.set 3 (BitVec.ofNat 64 index)).set 4 (BitVec.ofNat 64 t.size)
    acc := List.replicate t.acc ⟨List.replicate 1024 0, 0, false, false⟩
    pc := BitVec.ofNat 19 t.entry
    sv := j.sv, pair := t.pair, asid := j.asid
    job := BitVec.ofNat 16 item.job, gang := BitVec.ofNat 14 gang, index := BitVec.ofNat 14 index }

/-- A thread takes its slots and its core wakes (R152). -/
def startThread (s : State) (x : Nat × Thread) : State :=
  let k := x.1
  let s1 := s.rouse (k / 16)
  let t : Thread := { x.2 with readyAt := Nat.max s.now (s1.core (k / 16)).awakeAt, residentFrom := s.now }
  let s2 := (s1.putSlot k t).modCore (k / 16) fun c => { c with leftAcc := NatMap.drop c.leftAcc (k % 16) }
  -- the other slot of a pair was held with the first, next after it among the idle ones
  if t.pair then
    match (s2.slots.find? fun e => decide (k < e.1) && decide (e.2 = .held t.gang.toNat)).map (·.1) with
    | some o => { s2 with slots := NatMap.set s2.slots o (.trailing k) }
    | none => s2
  else s2

/-- A reservation is used up (R113). -/
def disarm (s : State) (n : Nat) : State :=
  { s with slotres := NatMap.set s.slotres n (false, (NatMap.get s.slotres n (false, 0)).2) }

/-- The gang is placed: its threads start, and the device clears ARM of its reservation (R113). -/
def startGang (s : State) (g : Nat) (x : Gang) : State :=
  x.starting.foldl startThread
    ((x.reserved.elim s (disarm s)).setGang g { x with starting := [], loads := [], reserved := none })

/-- Tags that a new image overlaps go, then the least recently used free one where there would be more than four (R111). -/
def makeRoomForTag (s : State) (t : Template) (core : Nat) : State :=
  let c := s.core core
  let kept := c.tags.filter fun x => !imageOverlaps t x.loadOff x.len
  let used := imagesInUse s core
  let loading := (s.gangs.filter fun e => e.2.loads.contains core).length
  let free := kept.filter fun x => !used.contains (x.image, x.len, x.loadOff)
  let oldest := free.foldl (fun (b : Option CodeTag) x => match b with
    | none => some x
    | some y => if x.used < y.used then some x else some y) none
  let tags := if 4 ≤ kept.length + loading then kept.filter fun x => decide (some x ≠ oldest) else kept
  s.setCore core { c with tags := tags }

/-- A core's tag for a gang that is placed with it is the one used last. -/
def touchTag (s : State) (t : Template) (core : Nat) : State :=
  let touch (x : CodeTag) : CodeTag := if x.is t then { x with used := s.now } else x
  s.modCore core fun c => { c with tags := c.tags.map touch }

/-- Slots and accumulators are reserved for the gang in one step; it starts at once where no core has to copy its image. -/
def placeGang (s : State) (t : Template) (w : Nat) (item : Item) (popper : Nat) (shares : List Share) : Option State :=
  let n := newGangNumber s
  n.1.map fun g =>
    let s0 := shares.foldl (fun s x => if x.2.2 then makeRoomForTag s t x.1 else touchTag s t x.1) n.2
    let slots := shares.flatMap (shareSlots s t)
    let j := s.job item.job
    let starting := slots.mapIdx fun i l => (l.headD 0, firstThread (s.nextUid + i) g i t item j)
    let cores := shares.map (·.1)
    let x : Gang := {
      job := item.job, size := t.size, live := List.range t.size, exited := false, arrived := [], scope := placementScope cores
      slots := slots.map fun l => l.headD 0
      starting := starting, image := t.image, len := t.len, loadOff := t.loadOff, item := item, wl := w, accs := t.acc
      cores := cores, loads := (shares.filter fun x => x.2.2).map (·.1), rakes := (hintDie item.hint, popper)
      reserved := if t.span then some t.res else none }
    let s1 := { s0.setGang g x with
      slots := slots.flatten.foldl (fun m k => NatMap.set m k (.held g)) s0.slots
      nextUid := s.nextUid + t.size }
    if x.loads = [] then startGang s1 g x else s1

/-! ### Refusal and push-back (R109, R112) -/

/-- A launch refusal (R109). -/
def refuseLaunch (s : State) (die : Nat) (item : Item) : State :=
  notify (charge (countDown s item.job 1) item.job 1 .tainted) 1 item.job (itemHead item) (.die die)

/-- The key under which a rake refrains from a worklist, with the die whose slots it waits for. -/
def backoffKey (w die : Nat) : Nat := w * 8 + die

/-- The item goes back, and the rakes that popped and tried to place it refrain from its worklist. -/
def pushBack (s : State) (die popper w : Nat) (item : Item) : State :=
  let rest (s : State) (d : Nat) : State :=
    s.modDie (s.modNum * 8 + d) fun x => { x with backoff := NatMap.set x.backoff (backoffKey w die) (s.now + 256) }
  returnItem (rest (rest s die) popper) w item (.die die) false

/-- Whether a rake refrains from a worklist (R112). -/
def refrains (s : State) (d : Die) (w : Nat) : Bool := d.backoff.any fun e => decide (e.1 / 8 = w) && decide (s.now < e.2)

/-! ### The checks (R109) -/

/-- The region or the dies cannot hold the gang at all. -/
def cannotHold (s : State) (t : Template) (item : Item) : Bool :=
  let rad := Nat.max (hintRad item.hint) t.radMin
  let cores :=
    if t.span then 128 * (reservation s t.res).2.length
    else match rad with
      | 0 => 1
      | 1 => 4
      | 2 => 16
      | _ => 128
  (t.span && decide (rad ≠ 3)) || decide (16 * cores < t.slotNeed) || decide (32 * cores < t.accNeed) ||
    (decide (t.slotNeed ≤ 16) && decide (32 < t.accNeed))

/-- The reservation check. -/
def unreserved (s : State) (t : Template) (item : Item) : Bool :=
  t.span && !((reservation s t.res).1 && (reservation s t.res).2.contains (hintDie item.hint))

/-- The last rows of R109, and R110. -/
def placeWith (s : State) (die popper w : Nat) (item : Item) (b : List Byte) : State :=
  let t := templateOf b
  if !templateFormed b || cannotHold s t item || unreserved s t item then refuseLaunch s die item
  else
    match planGang s t (placementWalk s t item) with
    | none => pushBack s die popper w item
    | some shares => (placeGang s t w item popper shares).getD (pushBack s die popper w item)

/-- The rake reads an item's template when it pops the item (R105); the first checks of R109 precede the reading. -/
def readTemplate (s : State) (x : Entry) : TemplateRead × State :=
  let item := x.item
  let j := s.job item.job
  let templ := item.payloadBytes 8 2
  if x.poison || decide (item.cls = 0) || decide (item.payloadBytes 10 6 ≠ 0) || decide (j.ntempl ≤ templ) then (.none, s)
  else
    match jobPlace s j (j.table + BitVec.ofNat 64 (64 * templ)) 64 with
    | .bad s1 => (.bad, s1)
    | .away s1 => (.away, s1)
    | .found s1 p => (.found (s1.bytes p 64), s1)

/-- The rake of a die places an item that the rake of `popper` has popped (R108), by what the reading of its template came
to. -/
def placeItem (s : State) (die popper w : Nat) (item : Item) : TemplateRead → State
  | .none | .bad => refuseLaunch s die item
  | .away => pushBack s die popper w item
  | .found b => placeWith s die popper w item b

/-! ### The events -/

/-- The worklist that a rake serves next (R107): after the one served last, enabled, with an item, none that it refrains
from. -/
def nextWorklist (s : State) (d : Die) : Option Nat :=
  ((List.range 64).map fun i => (d.rakeLast + 1 + i) % 64).find? fun w =>
    d.rakecfg.getLsbD w && (s.wl w).en && !(s.wl w).window.isEmpty && !refrains s d w

/-- A rake pops an item and places it, or passes it to the rake of its hinted die (R107, R108). -/
def rakeStep (s : State) (die : Nat) : State :=
  let key := s.modNum * 8 + die
  match nextWorklist s (s.die key) with
  | none => s
  | some w =>
    let p := popAt (s.modDie key fun d => { d with rakeLast := w }) w (8 * die)
    match p.1 with
    | none => p.2
    | some (x, _) =>
      let target := hintDie x.item.hint
      let r := readTemplate p.2 x
      if target = die then placeItem r.2 die die w x.item r.1
      else r.2.modDie (s.modNum * 8 + target) fun d => { d with rakeIn := d.rakeIn ++ [(die, w, x, r.1)] }

def execRakePop (die : Nat) (s : State) : Host.Outcome State Fault Refusal := .next (if die < 8 then rakeStep s die else s)

/-- An item passed over the bridges is placed (R108). -/
def execRakeHandoff (die : Nat) (s : State) : Host.Outcome State Fault Refusal :=
  let key := s.modNum * 8 + die
  .next (if die < 8 then
    match (s.die key).rakeIn with
    | [] => s
    | (popper, w, x, r) :: rest => placeItem (s.modDie key fun d => { d with rakeIn := rest }) die popper w x.item r
  else s)

/-- 256 cycles after a push-back a rake refrains no longer (R112). -/
def execRakeBackoffExpiry (die wl : Nat) (s : State) : Host.Outcome State Fault Refusal :=
  .next (if die < 8 then
    s.modDie (s.modNum * 8 + die) fun d => { d with
      backoff := d.backoff.filter fun e => !(decide (e.1 / 8 = wl) && decide (e.2 ≤ s.now)) }
  else s)

/-- A gang that is not placed after all: its slots and its number are free again (R111); SLOTRES is as software left it. -/
def releaseGang (s : State) (g : Nat) (x : Gang) : State :=
  let slots := s.slots.filter fun e => decide (e.2 ≠ .held g)
  (x.slots.map fun k => State.dieOf (k / 16)).eraseDups.foldl freedOn { s with gangs := NatMap.drop s.gangs g, slots := slots }

/-- The image arrives in the local memory of the cores that copy it, and the gang starts (R111). -/
def finishLoads (s : State) (g : Nat) (x : Gang) (b : List Byte) : State :=
  let load (s : State) (core : Nat) : State :=
    let p := Place.lm core x.loadOff
    let s1 := (s.write p b).fillWords p b.length
    (serveRange s1 p b.length).modCore core fun c => { c with tags := c.tags ++ [⟨x.image, x.len, x.loadOff, s.now⟩] }
  startGang (x.loads.foldl load s) g x

/-- The copies of a gang's image end (R111): a fault or poison refuses the launch, a page that is away sends the item back. -/
def execImageLoadComplete (gang : Nat) (s : State) : Host.Outcome State Fault Refusal :=
  .next (match s.gang? gang with
    | none => s
    | some x =>
      if x.loads = [] then s
      else
        match readPages (s.job x.job) 4 s x.image x.len [] with
        | .bytes s1 b => finishLoads s1 gang x b
        | .away s1 => pushBack (releaseGang s1 gang x) x.rakes.1 x.rakes.2 x.wl x.item
        | .bad s1 => refuseLaunch (releaseGang s1 gang x) x.rakes.1 x.item)

end Sys2Proof.Machine
end

