-- ==== Sys2Proof/Machine/Region.lean ====
section
/-!
DEFINITION. The instructions of recovery regions (R442, R443, R252): RBEGIN, RPRES, RPRES.a, REND and RFAIL.
-/
namespace Sys2Proof.Machine

/-! ### Opening -/

/-- The registers that RBEGIN saves (R270). -/
def snapshotOf (t : Thread) : Snapshot :=
  { g := t.g, gFull := t.gFull, v := t.v, vFull := t.vFull, m1 := t.m1, m2 := t.m2, m3 := t.m3, rnd := t.rnd
    port := t.port }

/-- The first row of R271: a level whose mark is the fill offset, its snapshot written there. -/
def openLevel (s : State) (t : Thread) (target : BitVec 19) (limit : BitVec 4) : State × Thread :=
  (openArea s s.cur.1 t 1408 none,
    { t with
      levels := ⟨target, limit, 0, t.fill, snapshotOf t, []⟩ :: t.levels
      fill := t.fill + 1408 })

def execRbegin (l : BitVec 4) (i : BitVec 16) : State → Host.Outcome State Fault Refusal :=
  run (.rbegin l i) fun s t =>
    let target := targetB t.pc i
    -- the snapshot reads every register (R260, log entry 26)
    if t.badG ≠ 0 ∨ t.badV ≠ 0 then .error (.error 0)
    else if 0x8_0000 ≤ target.toNat then .error (.trap 3 target)
    else if t.levels.length = 8 then .error (illegal (.rbegin l i))
    else if t.rgnSize = 0 ∨ ¬undoFits s s.cur.1 t 1408 then .error (undoOverflow t)
    else
      let st := openLevel s t (target.extractLsb' 0 19) l
      .ok (.next st.1 st.2)

/-! ### Preserving -/

/-- A range whose first or last byte lies in the issuing core's own local memory (R272): ranges are shorter than it. -/
def reachesOwn (s : State) (va : Word) (len : Nat) : Bool :=
  [va, va + BitVec.ofNat 64 (len - 1)].any fun a =>
    match targetOf s.cur.1 s.pod a with
    | some (.localMem _ _ own) => own
    | _ => false

/-- RPRES (R272): a range at the current level. -/
def execRpres (b : BitVec 5) (n : BitVec 10) : State → Host.Outcome State Fault Refusal :=
  run (.rpres b n) fun s t =>
    if t.levels = [] then .error (illegal (.rpres b n))
    else
      withSources s t [b] [] fun s t =>
        let base := t.gVal b
        let len := 64 * (n.toNat + 1)
        if base.toNat % 64 ≠ 0 then .error (.trap 2 base)
        else if reachesOwn s base len then .error (.trap 3 base)
        else if 16 ≤ t.ranges.length then .error (undoOverflow t)
        else .ok (.next s { t with ranges := t.ranges ++ [⟨base, len, t.levels.length⟩] })

/-- Whether the innermost level holds a record of the accumulator (R273). -/
def heldAcc (t : Thread) (l : Level) (n : Nat) : Bool :=
  t.undo.any fun r => decide (l.mark ≤ r.1) && match r.2 with
    | .accum m _ => decide (m = n)
    | _ => false

/-- RPRES.a (R273). -/
def execRpresA (d : BitVec 3) : State → Host.Outcome State Fault Refusal :=
  run (.rpresA d) fun s t =>
    match t.levels, t.accAt d with
    | l :: _, some acc =>
      if (s.core s.cur.1).busyAcc t.uid d then .error (.park (.retry (.products (.acc d))))
      else if heldAcc t l d.toNat then .ok (.parked s t (.ending none))
      else
        match logRecord s s.cur.1 t 4160 (.accum d.toNat acc) with
        | .error e => .error e
        | .ok st => .ok (.parked st.1 st.2 (.ending none))
    | _, _ => .error (illegal (.rpresA d))

/-! ### Closing -/

/-- REND at LEVEL 1 (R277). -/
def closeEff (s : State) (t : Thread) : Except Stop Eff :=
  match closeOutermost s s.cur.1 t with
  | .done s1 t1 => .ok (.next s1 t1)
  | .waits s1 t1 p => .ok (.parked s1 t1 p)
  | .stop s1 t1 e => .ok (.stop s1 t1 e)

/-- REND (R277): the thread's products complete first. -/
def execRend : State → Host.Outcome State Fault Refusal :=
  run .rend fun s t =>
    if t.levels ≠ [] ∧ ((s.core s.cur.1).products.any fun p => decide (p.owner = t.uid)) then
      .error (.park (.retry (.products .own)))
    else
      match t.levels with
      | [] => .error (illegal .rend)
      | [_] => check (!t.atLastWord) fallsOff (closeEff s t)
      | l :: m :: rest => .ok (.next s (closeInner t l m rest))

/-- RFAIL (R278): a rollback that charges no error (R280); in a handler it leaves the handler first (R252). -/
def execRfail : State → Host.Outcome State Fault Refusal :=
  run .rfail fun s t =>
    let k := s.cur.1 * 16 + s.cur.2
    let left : Thread := if t.hnd then { t with sv := t.psv, hnd := false } else t
    if t.levels = [] then .error (illegal .rfail)
    else if t.committed then .ok (.gone (killSlot s k left false))
    else .ok (.gone (rollback s k left false))

end Sys2Proof.Machine
end

