-- ==== Sys2Proof/Machine/Sync.lean ====
section
/-!
DEFINITION. Acquire, release and synchronising accesses (R235, R346, R347), FENCE, SYNCI and WAITA (R348 to R351),
atomics (R352 to R355) and bank reduction slots (R356 to R359).
-/
namespace Sys2Proof.Machine

/-! ### LDSYNC and STSYNC -/

def ldsyncShape (i : Instr) (b : BitVec 5) (o : BitVec 8) (fullBits : Bool) (op : MemOp) (c : BitVec 4) :
    State → Host.Outcome State Fault Refusal :=
  run i fun s t => withSources s t [b] [] fun s t =>
    accessAt s t (t.gVal b + offMs t.himm o) 8 8 fullBits op [] (some c)

def stsyncShape (i : Instr) (r b : BitVec 5) (o : BitVec 8) (fullBits : Bool) (op : MemOp) (c : BitVec 4) :
    State → Host.Outcome State Fault Refusal :=
  run i fun s t => withSources s t [b, r] [] fun s t =>
    accessAt s t (t.gVal b + offMs t.himm o) 8 8 fullBits op (toBytes 8 (t.gVal r).toNat) (some c)

def execLda (d b : BitVec 5) (c : BitVec 4) (o : BitVec 8) : State → Host.Outcome State Fault Refusal :=
  ldsyncShape (.lda d b c o) b o false (.load d false) c
def execLdc (d b : BitVec 5) (c : BitVec 4) (o : BitVec 8) : State → Host.Outcome State Fault Refusal :=
  ldsyncShape (.ldc d b c o) b o true (.ldc d) c
def execLdo (d b : BitVec 5) (c : BitVec 4) (o : BitVec 8) : State → Host.Outcome State Fault Refusal :=
  ldsyncShape (.ldo d b c o) b o true (.ldo d) c
def execStl (r b : BitVec 5) (c : BitVec 4) (o : BitVec 8) : State → Host.Outcome State Fault Refusal :=
  stsyncShape (.stl r b c o) r b o false .store c
def execStp (r b : BitVec 5) (c : BitVec 4) (o : BitVec 8) : State → Host.Outcome State Fault Refusal :=
  stsyncShape (.stp r b c o) r b o true .stp c
def execStf (r b : BitVec 5) (c : BitVec 4) (o : BitVec 8) : State → Host.Outcome State Fault Refusal :=
  stsyncShape (.stf r b c o) r b o true .stf c
def execEmpty (b : BitVec 5) (o : BitVec 8) : State → Host.Outcome State Fault Refusal :=
  run (.empty b o) fun s t => withSources s t [b] [] fun s t =>
    accessAt s t (t.gVal b + offMs t.himm o) 8 8 true .empty [] none

/-! ### FENCE, SYNCI, WAITA -/

/-- R349: release and acquire; wider than .co it parks until the earlier accesses have been performed. -/
def execFence (c : BitVec 4) : State → Host.Outcome State Fault Refusal :=
  run (.fence c) fun s t => access s t ⟨.fence, [], some c⟩

def execSynci : State → Host.Outcome State Fault Refusal :=
  run .synci fun s t => .ok (.next s { t with fetchBuf := none })

def execWaita (d a b : BitVec 5) (c : BitVec 4) : State → Host.Outcome State Fault Refusal :=
  run (.waita d a b c) fun s t => withSources s t [a, b] [] fun s t =>
    accessAt s t (t.gVal a) 8 8 false (.waita d (t.gVal b)) [] (some c)

/-! ### Atomics -/

/-- Bytes of an atomic by its size field (R352). -/
def atomBytes (z : BitVec 2) : Nat := if z = 2 then 4 else 8

/-- An integer atomic; with a destination it is illegal inside a region (R275, R342). -/
def atomShape (i : Instr) (code : Nat) (d a b : BitVec 5) (c : BitVec 4) (z : BitVec 2) :
    State → Host.Outcome State Fault Refusal :=
  run i fun s t =>
    let g := t.expectedReg
    let cas := code = 9
    if t.inRegion ∧ d ≠ 0 then .error (illegal i)
    else
      withSources s t (if cas then [a, b, g] else [a, b]) [] fun s t =>
        accessAt s t (t.gVal a) (atomBytes z) (atomBytes z) false
          (.atomic code d (t.gVal b) (if cas then t.gVal g else 0)) [] (some c)

def execAadd (d a b : BitVec 5) (c : BitVec 4) (z : BitVec 2) : State → Host.Outcome State Fault Refusal :=
  atomShape (.aadd d a b c z) 0 d a b c z
def execAand (d a b : BitVec 5) (c : BitVec 4) (z : BitVec 2) : State → Host.Outcome State Fault Refusal :=
  atomShape (.aand d a b c z) 1 d a b c z
def execAor (d a b : BitVec 5) (c : BitVec 4) (z : BitVec 2) : State → Host.Outcome State Fault Refusal :=
  atomShape (.aor d a b c z) 2 d a b c z
def execAxor (d a b : BitVec 5) (c : BitVec 4) (z : BitVec 2) : State → Host.Outcome State Fault Refusal :=
  atomShape (.axor d a b c z) 3 d a b c z
def execAmin (d a b : BitVec 5) (c : BitVec 4) (z : BitVec 2) : State → Host.Outcome State Fault Refusal :=
  atomShape (.amin d a b c z) 4 d a b c z
def execAmax (d a b : BitVec 5) (c : BitVec 4) (z : BitVec 2) : State → Host.Outcome State Fault Refusal :=
  atomShape (.amax d a b c z) 5 d a b c z
def execAminz (d a b : BitVec 5) (c : BitVec 4) (z : BitVec 2) : State → Host.Outcome State Fault Refusal :=
  atomShape (.aminz d a b c z) 6 d a b c z
def execAmaxz (d a b : BitVec 5) (c : BitVec 4) (z : BitVec 2) : State → Host.Outcome State Fault Refusal :=
  atomShape (.amaxz d a b c z) 7 d a b c z
def execAswap (d a b : BitVec 5) (c : BitVec 4) (z : BitVec 2) : State → Host.Outcome State Fault Refusal :=
  atomShape (.aswap d a b c z) 8 d a b c z
def execAcas (d a b : BitVec 5) (c : BitVec 4) (z : BitVec 2) : State → Host.Outcome State Fault Refusal :=
  atomShape (.acas d a b c z) 9 d a b c z

/-- The code of a mode field with 7 read as RND (R205). -/
def modeCode (t : Thread) : BitVec 3 :=
  let f := (t.hint 1).elim 7 hmodRm
  if f = 7 then t.rnd else f

/-- AFADDV (R355): a whole line, not in the CXL tier (R340). -/
def execAfaddv (a b : BitVec 5) (c : BitVec 4) (z : BitVec 2) : State → Host.Outcome State Fault Refusal :=
  run (.afaddv a b c z) fun s t => withSources s t [a] [b.toNat] fun s t =>
    accessAt s t (t.gVal a) 64 64 true
      (.afaddv (decide (z = 3)) (t.vVal b.toNat) (modeCode t) t.enables) [] (some c)

/-! ### Bank reduction slots -/

/-- A slot's name checked (R356, R339): canonical and in a row of R156, a multiple of 8, a slot, admitted as an access
below TPOOL.LOW (R176). -/
def bankPart (s : State) (t : Thread) (va : Word) : Except Stop Part :=
  match targetOf s.cur.1 s.pod va with
  | none => .error (.trap 3 va)
  | some x =>
    if va.toNat % 8 ≠ 0 then .error (.trap 2 va)
    else
      match x with
      | .tileStore d off _ =>
        if 0x4000 ≤ off ∨ ¬((s.die d).tpOpen || t.sv) then .error (.trap 3 va)
        else .ok ⟨va, Place.tile d off, 8, [], 0⟩
      -- a name is checked also where nothing answers
      | .absent m =>
        match fixedRow m ((va.toNat - 0x1000_0000_0000) % 0x200_0000_0000) s.cur.1 true with
        | some (.tileStore _ off _) =>
          if 0x4000 ≤ off then .error (.trap 3 va) else .ok ⟨va, Place.nowhere, 8, [], 0⟩
        | _ => .error (.trap 3 va)
      | _ => .error (.trap 3 va)

/-- BRSET and BRADD: refused in a region (R342); BRGET reads. -/
def bankShape (i : Instr) (gs : List (BitVec 5)) (a : BitVec 5) (writes : Bool) (op : Thread → MemOp) :
    State → Host.Outcome State Fault Refusal :=
  run i fun s t => withSources s t gs [] fun s t =>
    match bankPart s t (t.gVal a) with
    | .error e => .error e
    | .ok p =>
      if writes && t.inRegion then .error (.trap 10 (t.gVal a)) else .ok (.parked s t (.access ⟨op t, [p], none⟩))

def execBrset (a b : BitVec 5) (f : BitVec 4) : State → Host.Outcome State Fault Refusal :=
  bankShape (.brset a b f) [a, b] a true fun t => .bankSet f (t.gVal b)
def execBradd (a b : BitVec 5) (f : BitVec 4) : State → Host.Outcome State Fault Refusal :=
  bankShape (.bradd a b f) [a, b] a true fun t => .bankAdd f (t.gVal b)
def execBrget (d a : BitVec 5) (f : BitVec 4) : State → Host.Outcome State Fault Refusal :=
  bankShape (.brget d a f) [a] a false fun _ => .bankGet d f

end Sys2Proof.Machine
end

