-- ==== Sys2Proof/Machine/Vector.lean ====
section
/-!
DEFINITION. Vector integer and floating point, transfers, reductions, conversions and masks (R366 to R391).
-/
namespace Sys2Proof.Machine

/-! ### Lanes -/

/-- The lanes of a result: the active ones by `f`, the others from `old` without flags (R367, R368). -/
def laneResults (w : Nat) (m : Word) (old : VWord) (f : Nat → Nat × FlagSet) : List (Nat × FlagSet) :=
  (List.range (512 / w)).map fun i => if active m i then f i else (lane old w i, 0)

/-- Completion with lane results (R368). -/
def retLanes (s : State) (t : Thread) (d : BitVec 4) (w : Nat) (m : BitVec 2) (f : Nat → Nat × FlagSet) :
    Except Stop Eff :=
  let r := laneResults w (t.mVal m) (t.vVal d.toNat) f
  retFlagsV s t d.toNat (ofLanes w (r.map (·.1))) (flagsOf r)

/-- Sources of a masked vector instruction (R366). -/
def vSources (m : BitVec 2) (d : BitVec 4) (vs : List (BitVec 4)) : List Nat :=
  vs.map (·.toNat) ++ vdSource m d.toNat

/-- A lane-wise instruction of two v sources. -/
def vShape2 (i : Instr) (d a b : BitVec 4) (m : BitVec 2) (w : Nat) (f : Thread → Nat → Nat → Nat × FlagSet) :
    State → Host.Outcome State Fault Refusal :=
  run i fun s t => withSources s t [] (vSources m d [a, b]) fun s t =>
    retLanes s t d w m fun n => f t (lane (t.vVal a.toNat) w n) (lane (t.vVal b.toNat) w n)

/-- A lane-wise instruction of one v source. -/
def vShape1 (i : Instr) (d a : BitVec 4) (m : BitVec 2) (w : Nat) (f : Thread → Nat → Nat × FlagSet) :
    State → Host.Outcome State Fault Refusal :=
  run i fun s t => withSources s t [] (vSources m d [a]) fun s t =>
    retLanes s t d w m fun n => f t (lane (t.vVal a.toNat) w n)

/-! ### VINT (R375, R376) -/

/-- An integer lane result, modulo 2^w, without flags. -/
def vint (i : Instr) (d a b : BitVec 4) (m w : BitVec 2) (f : Nat → Nat → Nat → Int) :
    State → Host.Outcome State Fault Refusal :=
  vShape2 i d a b m (laneBits w) fun _ x y => ((f (laneBits w) x y % (2 ^ laneBits w : Nat)).toNat, 0)

/-- A saturating sum: clamped with SAT under HMOD SAT, modulo 2^w otherwise (R376). -/
def clampLane (w : Nat) (sat : Bool) (r : Int) : Nat × FlagSet :=
  let top : Int := (2 ^ (w - 1) : Nat)
  let wrap (x : Int) : Nat := (x % (2 ^ w : Nat)).toNat
  if sat then
    if r < -top then (wrap (-top), SAT) else if top - 1 < r then (wrap (top - 1), SAT) else (wrap r, 0)
  else (wrap r, 0)

def vsum (i : Instr) (d a b : BitVec 4) (m w : BitVec 2) (f : Int → Int → Int) :
    State → Host.Outcome State Fault Refusal :=
  vShape2 i d a b m (laneBits w) fun t x y =>
    clampLane (laneBits w) t.hmodSatOn (f (signedLane (laneBits w) x) (signedLane (laneBits w) y))

def execVadd (d a b : BitVec 4) (m w : BitVec 2) : State → Host.Outcome State Fault Refusal :=
  vsum (.vadd d a b m w) d a b m w fun x y => x + y
def execVsub (d a b : BitVec 4) (m w : BitVec 2) : State → Host.Outcome State Fault Refusal :=
  vsum (.vsub d a b m w) d a b m w fun x y => x - y
def execVmul (d a b : BitVec 4) (m w : BitVec 2) : State → Host.Outcome State Fault Refusal :=
  vint (.vmul d a b m w) d a b m w fun _ x y => (x * y : Nat)
def execVmulh (d a b : BitVec 4) (m w : BitVec 2) : State → Host.Outcome State Fault Refusal :=
  vint (.vmulh d a b m w) d a b m w fun n x y => signedLane n x * signedLane n y / (2 ^ n : Nat)
def execVmin (d a b : BitVec 4) (m w : BitVec 2) : State → Host.Outcome State Fault Refusal :=
  vint (.vmin d a b m w) d a b m w fun n x y => min (signedLane n x) (signedLane n y)
def execVmax (d a b : BitVec 4) (m w : BitVec 2) : State → Host.Outcome State Fault Refusal :=
  vint (.vmax d a b m w) d a b m w fun n x y => max (signedLane n x) (signedLane n y)
def execVand (d a b : BitVec 4) (m w : BitVec 2) : State → Host.Outcome State Fault Refusal :=
  vint (.vand d a b m w) d a b m w fun _ x y => (x &&& y : Nat)
def execVor (d a b : BitVec 4) (m w : BitVec 2) : State → Host.Outcome State Fault Refusal :=
  vint (.vor d a b m w) d a b m w fun _ x y => (x ||| y : Nat)
def execVxor (d a b : BitVec 4) (m w : BitVec 2) : State → Host.Outcome State Fault Refusal :=
  vint (.vxor d a b m w) d a b m w fun _ x y => (x ^^^ y : Nat)
def execVshl (d a b : BitVec 4) (m w : BitVec 2) : State → Host.Outcome State Fault Refusal :=
  vint (.vshl d a b m w) d a b m w fun n x y => (x * 2 ^ (y % n) : Nat)
def execVshr (d a b : BitVec 4) (m w : BitVec 2) : State → Host.Outcome State Fault Refusal :=
  vint (.vshr d a b m w) d a b m w fun n x y => (x / 2 ^ (y % n) : Nat)
def execVsra (d a b : BitVec 4) (m w : BitVec 2) : State → Host.Outcome State Fault Refusal :=
  vint (.vsra d a b m w) d a b m w fun n x y => signedLane n x / (2 ^ (y % n) : Nat)
def execVabs (d a : BitVec 4) (m w : BitVec 2) : State → Host.Outcome State Fault Refusal :=
  vShape1 (.vabs d a m w) d a m (laneBits w) fun _ x =>
    ((signedLane (laneBits w) x).natAbs % 2 ^ laneBits w, 0)

/-- A mask with the results of the active lanes, zero elsewhere (R377). -/
def maskOf (n : Nat) (m : Word) (f : Nat → Bool) : Word :=
  BitVec.ofNat 64 ((List.range n).foldl (fun acc i => acc + if active m i && f i then 2 ^ i else 0) 0)

/-- Conditions of VCMP (R377). -/
def vcmpHolds (c : BitVec 3) (w x y : Nat) : Bool :=
  match c.toNat with
  | 0 => decide (x = y)
  | 1 => decide (x ≠ y)
  | 2 => decide (signedLane w x < signedLane w y)
  | 3 => decide (signedLane w x ≤ signedLane w y)
  | 4 => decide (x < y)
  | _ => decide (x ≤ y)

def execVcmp (d a b : BitVec 4) (m w : BitVec 2) (c : BitVec 3) : State → Host.Outcome State Fault Refusal :=
  run (.vcmp d a b m w c) fun s t => withSources s t [] [a.toNat, b.toNat] fun s t =>
    let n := laneBits w
    .ok (.next s (t.setM (d.extractLsb' 0 2)
      (maskOf (512 / n) (t.mVal m) fun i => vcmpHolds c n (lane (t.vVal a.toNat) n i) (lane (t.vVal b.toNat) n i))))

/-! ### VFLT and VFMA (R378 to R382) -/

/-- Width of a lane of a float format field. -/
def fltBits (f : BitVec 2) : Nat := fmtWidth (laneFmt f)

def fltVal (f : BitVec 2) (x : Nat) : Exact := decodeFloat (floatFmt (laneFmt f)) x

/-- Codes that round by HMOD RM or RND. -/
def vflt (i : Instr) (d a b : BitVec 4) (m f : BitVec 2) (op : Exact → Exact → Exact) :
    State → Host.Outcome State Fault Refusal :=
  vShape2 i d a b m (fltBits f) fun t x y => roundTo (laneFmt f) t.hmodMode (op (fltVal f x) (fltVal f y))

def execVfadd (d a b : BitVec 4) (m f : BitVec 2) : State → Host.Outcome State Fault Refusal :=
  vflt (.vfadd d a b m f) d a b m f fun x y => x.add y
def execVfsub (d a b : BitVec 4) (m f : BitVec 2) : State → Host.Outcome State Fault Refusal :=
  vflt (.vfsub d a b m f) d a b m f fun x y => x.add y.neg
def execVfmul (d a b : BitVec 4) (m f : BitVec 2) : State → Host.Outcome State Fault Refusal :=
  vflt (.vfmul d a b m f) d a b m f fun x y => x.mul y

/-- VFDIV: the thread parks until the result is written (R369). -/
def execVfdiv (d a b : BitVec 4) (m f : BitVec 2) : State → Host.Outcome State Fault Refusal :=
  run (.vfdiv d a b m f) fun s t => withSources s t [] (vSources m d [a, b]) fun s t =>
    let w := fltBits f
    let r := laneResults w (t.mVal m) (t.vVal d.toNat) fun n =>
      let q := fpDiv (fltVal f (lane (t.vVal a.toNat) w n)) (fltVal f (lane (t.vVal b.toNat) w n))
      let x := roundTo (laneFmt f) t.hmodMode q.1
      (x.1, x.2 ||| q.2)
    .ok (.parked s t (.vdivide (d.zeroExtend 5) (ofLanes w (r.map (·.1))) (flagsOf r)))

def execVfmin (d a b : BitVec 4) (m f : BitVec 2) : State → Host.Outcome State Fault Refusal :=
  vShape2 (.vfmin d a b m f) d a b m (fltBits f) fun _ x y => fpMinMax (laneFmt f) false x y
def execVfmax (d a b : BitVec 4) (m f : BitVec 2) : State → Host.Outcome State Fault Refusal :=
  vShape2 (.vfmax d a b m f) d a b m (fltBits f) fun _ x y => fpMinMax (laneFmt f) true x y
def execVfexp2 (d a : BitVec 4) (m f : BitVec 2) : State → Host.Outcome State Fault Refusal :=
  vShape1 (.vfexp2 d a m f) d a m (fltBits f) fun t x => exp2Lane (laneFmt f) t.hmodMode (fltVal f x)
def execVfrcp (d a : BitVec 4) (m f : BitVec 2) : State → Host.Outcome State Fault Refusal :=
  vShape1 (.vfrcp d a m f) d a m (fltBits f) fun _ x => rcpLane (laneFmt f) (fltVal f x)
def execVfrsq (d a : BitVec 4) (m f : BitVec 2) : State → Host.Outcome State Fault Refusal :=
  vShape1 (.vfrsq d a m f) d a m (fltBits f) fun _ x => rsqLane (laneFmt f) (fltVal f x)

/-- Conditions of VFCMP (R381). -/
def vfcond (c : BitVec 2) : FpCond :=
  match c.toNat with
  | 0 => .eq
  | 1 => .lt
  | 2 => .le
  | _ => .un

def execVfcmp (d a b : BitVec 4) (m f c : BitVec 2) : State → Host.Outcome State Fault Refusal :=
  run (.vfcmp d a b m f c) fun s t => withSources s t [] [a.toNat, b.toNat] fun s t =>
    let w := fltBits f
    let r (i : Nat) : Bool × FlagSet :=
      fpCompare (laneFmt f) (vfcond c) (lane (t.vVal a.toNat) w i) (lane (t.vVal b.toNat) w i)
    let flags := (List.range (512 / w)).foldl (fun x i => if active (t.mVal m) i then x ||| (r i).2 else x) 0
    match t.raise flags with
    | .error e => .error e
    | .ok t1 => .ok (.next s (t1.setM (d.extractLsb' 0 2) (maskOf (512 / w) (t.mVal m) fun i => (r i).1)))

/-- VFMA (R382). -/
def execVfma (d a b c : BitVec 4) (m f : BitVec 2) : State → Host.Outcome State Fault Refusal :=
  run (.vfma d a b c m f) fun s t => withSources s t [] (vSources m d [a, b, c]) fun s t =>
    let w := fltBits f
    retLanes s t d w m fun n =>
      roundTo (laneFmt f) t.hmodMode (((fltVal f (lane (t.vVal a.toNat) w n)).mul
        (fltVal f (lane (t.vVal b.toNat) w n))).add (fltVal f (lane (t.vVal c.toNat) w n)))

/-! ### VXFR (R383 to R387) -/

def low4 (r : BitVec 5) : BitVec 4 := r.extractLsb' 0 4

/-- VSEL writes every lane (R384). -/
def execVsel (d a b : BitVec 5) (w m : BitVec 2) : State → Host.Outcome State Fault Refusal :=
  run (.vsel d a b w m) fun s t => withSources s t [] [a.toNat, b.toNat] fun s t =>
    let n := laneBits w
    .ok (.next s (t.setV d.toNat (ofLanes n ((List.range (512 / n)).map fun i =>
      lane (if active (t.mVal m) i then t.vVal a.toNat else t.vVal b.toNat) n i))))

def execVperm (d a b : BitVec 5) (w m : BitVec 2) : State → Host.Outcome State Fault Refusal :=
  run (.vperm d a b w m) fun s t => withSources s t [] (vSources m (low4 d) [low4 a, low4 b]) fun s t =>
    let n := laneBits w
    retLanes s t (low4 d) n m fun i =>
      (lane (t.vVal a.toNat) n (lane (t.vVal b.toNat) n i % (512 / n)), 0)

def execVbcst (d a : BitVec 5) (w m : BitVec 2) : State → Host.Outcome State Fault Refusal :=
  run (.vbcst d a w m) fun s t => withSources s t [a] (vSources m (low4 d) []) fun s t =>
    let n := laneBits w
    retLanes s t (low4 d) n m fun _ => ((t.gVal a).toNat % 2 ^ n, 0)

/-- VINS reads vd (R366) and changes one lane. -/
def execVins (d a b : BitVec 5) (w : BitVec 2) : State → Host.Outcome State Fault Refusal :=
  run (.vins d a b w) fun s t => withSources s t [a, b] [d.toNat] fun s t =>
    let n := laneBits w
    let k := (t.gVal b).toNat % (512 / n)
    .ok (.next s (t.setV d.toNat (ofLanes n ((List.range (512 / n)).map fun i =>
      if i = k then (t.gVal a).toNat % 2 ^ n else lane (t.vVal d.toNat) n i))))

def execVext (d a b : BitVec 5) (w : BitVec 2) : State → Host.Outcome State Fault Refusal :=
  run (.vext d a b w) fun s t => withSources s t [b] [a.toNat] fun s t =>
    let n := laneBits w
    retG s t d (BitVec.ofNat 64 (lane (t.vVal a.toNat) n ((t.gVal b).toNat % (512 / n))))

/-- The active lanes of a register. -/
def activeLanes (w : Nat) (m : Word) (v : VWord) : List Nat :=
  ((List.range (512 / w)).filter (active m)).map (lane v w)

/-- VREDI (R386), modulo 2^64. -/
def reduceInt (o : BitVec 3) (w : Nat) (lanes : List Nat) : Int :=
  let signed := lanes.map (signedLane w)
  match o.toNat with
  | 0 => signed.foldl (· + ·) 0
  | 1 => signed.foldl min ((2 ^ (w - 1) : Nat) - 1)
  | 2 => signed.foldl max (-(2 ^ (w - 1) : Nat))
  | 3 => (lanes.foldl Nat.min (2 ^ w - 1) : Nat)
  | 4 => (lanes.foldl Nat.max 0 : Nat)
  | 5 => (lanes.foldl (· &&& ·) (2 ^ w - 1) : Nat)
  | 6 => (lanes.foldl (· ||| ·) 0 : Nat)
  | _ => (lanes.foldl (· ^^^ ·) 0 : Nat)

def execVredi (d a : BitVec 5) (o : BitVec 3) (w m : BitVec 2) : State → Host.Outcome State Fault Refusal :=
  run (.vredi d a o w m) fun s t => withSources s t [] [a.toNat] fun s t =>
    retG s t d (BitVec.ofInt 64 (reduceInt o (laneBits w) (activeLanes (laneBits w) (t.mVal m) (t.vVal a.toNat))))

def execVredf (d a : BitVec 5) (r : BitVec 3) (f m : BitVec 2) : State → Host.Outcome State Fault Refusal :=
  run (.vredf d a r f m) fun s t => withSources s t [] [a.toNat] fun s t =>
    let terms := (activeLanes (fltBits f) (t.mVal m) (t.vVal a.toNat)).map (fltVal f)
    let x := roundTo (laneFmt f) (t.mode r) (Exact.sum terms)
    retFlagsG s t d (BitVec.ofNat 64 x.1) x.2

/-! ### VCVT (R388 to R390) -/

def execVcvt (d a : BitVec 5) (sf tf : BitVec 4) (x : BitVec 1) (m : BitVec 2) (r : BitVec 3) :
    State → Host.Outcome State Fault Refusal :=
  run (.vcvt d a sf tf x m r) fun s t => withSources s t [] (vSources m (low4 d) [low4 a]) fun s t =>
    let ws := fmtWidth sf.toNat
    let wt := fmtWidth tf.toNat
    let book := ((s.core s.cur.1).codebooks).getD r.toNat []
    let lanes := (List.range (512 / Nat.max ws wt)).map fun i =>
      if active (t.mVal m) i then convert sf.toNat tf.toNat (decide (x = 1)) (t.mode r) (lane (t.vVal a.toNat) ws i) book
      else (lane (t.vVal d.toNat) wt i, 0)
    retFlagsV s t d.toNat (ofLanes wt (lanes.map (·.1))) (flagsOf lanes)

/-! ### MASK (R391) -/

def mreg (r : BitVec 5) : BitVec 2 := r.extractLsb' 0 2

def execMand (d a b : BitVec 5) : State → Host.Outcome State Fault Refusal :=
  run (.mand d a b) fun s t => .ok (.next s (t.setM (mreg d) (t.mVal (mreg a) &&& t.mVal (mreg b))))
def execMor (d a b : BitVec 5) : State → Host.Outcome State Fault Refusal :=
  run (.mor d a b) fun s t => .ok (.next s (t.setM (mreg d) (t.mVal (mreg a) ||| t.mVal (mreg b))))
def execMnot (d a : BitVec 5) : State → Host.Outcome State Fault Refusal :=
  run (.mnot d a) fun s t => .ok (.next s (t.setM (mreg d) (~~~t.mVal (mreg a))))
def execMpopc (d a : BitVec 5) : State → Host.Outcome State Fault Refusal :=
  run (.mpopc d a) fun s t => retG s t d (BitVec.ofNat 64 (onesCount (t.mVal (mreg a))))

end Sys2Proof.Machine
end

