-- ==== Sys2Proof/Machine/Dispatch.lean ====
section
/-!
DEFINITION. The dispatch of instructions and events: one arm for each constructor of Instr.
-/
namespace Sys2Proof.Machine

def exec (i : Instr) (s : State) : Host.Outcome State Fault Refusal :=
  match i with
  | .rstctlReset who value => Sys2Proof.Machine.execRstctlReset who value s
  | .thermalThrottle die skip => Sys2Proof.Machine.execThermalThrottle die skip s
  | .flitReceive link seq bad packet => Sys2Proof.Machine.execFlitReceive link seq bad packet s
  | .flitAcknowledge link seq => Sys2Proof.Machine.execFlitAcknowledge link seq s
  | .flitReplay link flits => Sys2Proof.Machine.execFlitReplay link flits s
  | .linkRetrain link trained lanes => Sys2Proof.Machine.execLinkRetrain link trained lanes s
  | .requestTimeout core slot => Sys2Proof.Machine.execRequestTimeout core slot s
  | .controlWindowWrite who off bytes => Sys2Proof.Machine.execControlWindowWrite who off bytes s
  | .hostApertureAccess addr len store => Sys2Proof.Machine.execHostApertureAccess addr len store s
  | .sluiceWrite off bytes => Sys2Proof.Machine.execSluiceWrite off bytes s
  | .intakeQueueDrain wl => Sys2Proof.Machine.execIntakeQueueDrain wl s
  | .hbmTransferRead addr attempts ecc job => Sys2Proof.Machine.execHbmTransferRead addr attempts ecc job s
  | .transferCountWrap stack channel => Sys2Proof.Machine.execTransferCountWrap stack channel s
  | .laneRemap stack channel => Sys2Proof.Machine.execLaneRemap stack channel s
  | .cxlDeviceTimeout core slot => Sys2Proof.Machine.execCxlDeviceTimeout core slot s
  | .outboundMove io frame slot request => Sys2Proof.Machine.execOutboundMove io frame slot request s
  | .inboundMoveComplete io move crcBad => Sys2Proof.Machine.execInboundMoveComplete io move crcBad s
  | .frameRingRefill io => Sys2Proof.Machine.execFrameRingRefill io s
  | .waitaReread core slot => Sys2Proof.Machine.execWaitaReread core slot s
  | .parkedPushRetry core slot => Sys2Proof.Machine.execParkedPushRetry core slot s
  | .pushTimeout core slot => Sys2Proof.Machine.execPushTimeout core slot s
  | .proxyForward io mod wl => Sys2Proof.Machine.execProxyForward io mod wl s
  | .proxyDelivery io wl item => Sys2Proof.Machine.execProxyDelivery io wl item s
  | .wlcfgWrite wl value => Sys2Proof.Machine.execWlcfgWrite wl value s
  | .wlspillWrite wl value => Sys2Proof.Machine.execWlspillWrite wl value s
  | .clmapWrite die value => Sys2Proof.Machine.execClmapWrite die value s
  | .slotresWrite n value => Sys2Proof.Machine.execSlotresWrite n value s
  | .systemRegisterWrite core slot reg index value => Sys2Proof.Machine.execSystemRegisterWrite core slot reg index value s
  | .rakePop die => Sys2Proof.Machine.execRakePop die s
  | .rakeHandoff die => Sys2Proof.Machine.execRakeHandoff die s
  | .rakeBackoffExpiry die wl => Sys2Proof.Machine.execRakeBackoffExpiry die wl s
  | .imageLoadComplete gang => Sys2Proof.Machine.execImageLoadComplete gang s
  | .jobFlushRequest mod job => Sys2Proof.Machine.execJobFlushRequest mod job s
  | .jobFlushReply mod job lost => Sys2Proof.Machine.execJobFlushReply mod job lost s
  | .remoteAccess core slot => Sys2Proof.Machine.execRemoteAccess core slot s
  | .accessCompletion core slot => Sys2Proof.Machine.execAccessCompletion core slot s
  | .walkComplete core slot => Sys2Proof.Machine.execWalkComplete core slot s
  | .sendRetryAttempt core slot => Sys2Proof.Machine.execSendRetryAttempt core slot s
  | .copyComplete n => Sys2Proof.Machine.execCopyComplete n s
  | .coreSleep core => Sys2Proof.Machine.execCoreSleep core s
  | .harrowScrub loc finding => Sys2Proof.Machine.execHarrowScrub loc finding s
  | .matrixProductComplete core residueFails => Sys2Proof.Machine.execMatrixProductComplete core residueFails s
  | .rotationDelivery core => Sys2Proof.Machine.execRotationDelivery core s
  | .add d a b => Sys2Proof.Machine.execAdd d a b s
  | .sub d a b => Sys2Proof.Machine.execSub d a b s
  | .and d a b => Sys2Proof.Machine.execAnd d a b s
  | .or d a b => Sys2Proof.Machine.execOr d a b s
  | .xor d a b => Sys2Proof.Machine.execXor d a b s
  | .andn d a b => Sys2Proof.Machine.execAndn d a b s
  | .orn d a b => Sys2Proof.Machine.execOrn d a b s
  | .shl d a b => Sys2Proof.Machine.execShl d a b s
  | .shr d a b => Sys2Proof.Machine.execShr d a b s
  | .sra d a b => Sys2Proof.Machine.execSra d a b s
  | .rol d a b => Sys2Proof.Machine.execRol d a b s
  | .slt d a b => Sys2Proof.Machine.execSlt d a b s
  | .sltu d a b => Sys2Proof.Machine.execSltu d a b s
  | .seq d a b => Sys2Proof.Machine.execSeq d a b s
  | .min d a b => Sys2Proof.Machine.execMin d a b s
  | .max d a b => Sys2Proof.Machine.execMax d a b s
  | .minz d a b => Sys2Proof.Machine.execMinz d a b s
  | .maxz d a b => Sys2Proof.Machine.execMaxz d a b s
  | .clz d a => Sys2Proof.Machine.execClz d a s
  | .ctz d a => Sys2Proof.Machine.execCtz d a s
  | .popc d a => Sys2Proof.Machine.execPopc d a s
  | .sext d a w => Sys2Proof.Machine.execSext d a w s
  | .zext d a w => Sys2Proof.Machine.execZext d a w s
  | .mul d a b => Sys2Proof.Machine.execMul d a b s
  | .div d a b => Sys2Proof.Machine.execDiv d a b s
  | .divz d a b => Sys2Proof.Machine.execDivz d a b s
  | .rem d a b => Sys2Proof.Machine.execRem d a b s
  | .remz d a b => Sys2Proof.Machine.execRemz d a b s
  | .mulh d a b => Sys2Proof.Machine.execMulh d a b s
  | .mulhz d a b => Sys2Proof.Machine.execMulhz d a b s
  | .mulhsz d a b => Sys2Proof.Machine.execMulhsz d a b s
  | .addi d a imm => Sys2Proof.Machine.execAddi d a imm s
  | .slti d a imm => Sys2Proof.Machine.execSlti d a imm s
  | .sltiu d a imm => Sys2Proof.Machine.execSltiu d a imm s
  | .andi d a imm => Sys2Proof.Machine.execAndi d a imm s
  | .ori d a imm => Sys2Proof.Machine.execOri d a imm s
  | .xori d a imm => Sys2Proof.Machine.execXori d a imm s
  | .shli d a n => Sys2Proof.Machine.execShli d a n s
  | .shri d a n => Sys2Proof.Machine.execShri d a n s
  | .srai d a n => Sys2Proof.Machine.execSrai d a n s
  | .roli d a n => Sys2Proof.Machine.execRoli d a n s
  | .ldhi d imm => Sys2Proof.Machine.execLdhi d imm s
  | .addpc d imm => Sys2Proof.Machine.execAddpc d imm s
  | .beq a b o => Sys2Proof.Machine.execBeq a b o s
  | .bne a b o => Sys2Proof.Machine.execBne a b o s
  | .blt a b o => Sys2Proof.Machine.execBlt a b o s
  | .bge a b o => Sys2Proof.Machine.execBge a b o s
  | .bltu a b o => Sys2Proof.Machine.execBltu a b o s
  | .bgeu a b o => Sys2Proof.Machine.execBgeu a b o s
  | .j o => Sys2Proof.Machine.execJ o s
  | .jal o => Sys2Proof.Machine.execJal o s
  | .jr a => Sys2Proof.Machine.execJr a s
  | .jalr d a => Sys2Proof.Machine.execJalr d a s
  | .ldb d b o => Sys2Proof.Machine.execLdb d b o s
  | .ldh d b o => Sys2Proof.Machine.execLdh d b o s
  | .ldw d b o => Sys2Proof.Machine.execLdw d b o s
  | .ldd d b o => Sys2Proof.Machine.execLdd d b o s
  | .ldbz d b o => Sys2Proof.Machine.execLdbz d b o s
  | .ldhz d b o => Sys2Proof.Machine.execLdhz d b o s
  | .ldwz d b o => Sys2Proof.Machine.execLdwz d b o s
  | .stb src b o => Sys2Proof.Machine.execStb src b o s
  | .sth src b o => Sys2Proof.Machine.execSth src b o s
  | .stw src b o => Sys2Proof.Machine.execStw src b o s
  | .std src b o => Sys2Proof.Machine.execStd src b o s
  | .lda d b c o => Sys2Proof.Machine.execLda d b c o s
  | .ldc d b c o => Sys2Proof.Machine.execLdc d b c o s
  | .ldo d b c o => Sys2Proof.Machine.execLdo d b c o s
  | .stl src b c o => Sys2Proof.Machine.execStl src b c o s
  | .stp src b c o => Sys2Proof.Machine.execStp src b c o s
  | .stf src b c o => Sys2Proof.Machine.execStf src b c o s
  | .empty b o => Sys2Proof.Machine.execEmpty b o s
  | .aadd d a b c z => Sys2Proof.Machine.execAadd d a b c z s
  | .aand d a b c z => Sys2Proof.Machine.execAand d a b c z s
  | .aor d a b c z => Sys2Proof.Machine.execAor d a b c z s
  | .axor d a b c z => Sys2Proof.Machine.execAxor d a b c z s
  | .amin d a b c z => Sys2Proof.Machine.execAmin d a b c z s
  | .amax d a b c z => Sys2Proof.Machine.execAmax d a b c z s
  | .aminz d a b c z => Sys2Proof.Machine.execAminz d a b c z s
  | .amaxz d a b c z => Sys2Proof.Machine.execAmaxz d a b c z s
  | .aswap d a b c z => Sys2Proof.Machine.execAswap d a b c z s
  | .acas d a b c z => Sys2Proof.Machine.execAcas d a b c z s
  | .afaddv a b c z => Sys2Proof.Machine.execAfaddv a b c z s
  | .brset a b f => Sys2Proof.Machine.execBrset a b f s
  | .bradd a b f => Sys2Proof.Machine.execBradd a b f s
  | .brget d a f => Sys2Proof.Machine.execBrget d a f s
  | .fence c => Sys2Proof.Machine.execFence c s
  | .waita d a b c => Sys2Proof.Machine.execWaita d a b c s
  | .fadd d a b r p => Sys2Proof.Machine.execFadd d a b r p s
  | .fsub d a b r p => Sys2Proof.Machine.execFsub d a b r p s
  | .fmul d a b r p => Sys2Proof.Machine.execFmul d a b r p s
  | .fdiv d a b r p => Sys2Proof.Machine.execFdiv d a b r p s
  | .fsqrt d a r p => Sys2Proof.Machine.execFsqrt d a r p s
  | .fmin d a b p => Sys2Proof.Machine.execFmin d a b p s
  | .fmax d a b p => Sys2Proof.Machine.execFmax d a b p s
  | .feq d a b p => Sys2Proof.Machine.execFeq d a b p s
  | .flt d a b p => Sys2Proof.Machine.execFlt d a b p s
  | .fle d a b p => Sys2Proof.Machine.execFle d a b p s
  | .fclass d a p => Sys2Proof.Machine.execFclass d a p s
  | .fsgn d a b p => Sys2Proof.Machine.execFsgn d a b p s
  | .fcvt d a r p => Sys2Proof.Machine.execFcvt d a r p s
  | .fcvti d a r p => Sys2Proof.Machine.execFcvti d a r p s
  | .icvtf d a r p => Sys2Proof.Machine.execIcvtf d a r p s
  | .fma d a b c r p => Sys2Proof.Machine.execFma d a b c r p s
  | .fms d a b c r p => Sys2Proof.Machine.execFms d a b c r p s
  | .fnma d a b c r p => Sys2Proof.Machine.execFnma d a b c r p s
  | .vld d b m o => Sys2Proof.Machine.execVld d b m o s
  | .vst src b m o => Sys2Proof.Machine.execVst src b m o s
  | .vlds d a b w m => Sys2Proof.Machine.execVlds d a b w m s
  | .vsts d a b w m => Sys2Proof.Machine.execVsts d a b w m s
  | .vgath d a b w m => Sys2Proof.Machine.execVgath d a b w m s
  | .vscat d a b w m => Sys2Proof.Machine.execVscat d a b w m s
  | .vadd d a b m w => Sys2Proof.Machine.execVadd d a b m w s
  | .vsub d a b m w => Sys2Proof.Machine.execVsub d a b m w s
  | .vmul d a b m w => Sys2Proof.Machine.execVmul d a b m w s
  | .vmulh d a b m w => Sys2Proof.Machine.execVmulh d a b m w s
  | .vmin d a b m w => Sys2Proof.Machine.execVmin d a b m w s
  | .vmax d a b m w => Sys2Proof.Machine.execVmax d a b m w s
  | .vand d a b m w => Sys2Proof.Machine.execVand d a b m w s
  | .vor d a b m w => Sys2Proof.Machine.execVor d a b m w s
  | .vxor d a b m w => Sys2Proof.Machine.execVxor d a b m w s
  | .vshl d a b m w => Sys2Proof.Machine.execVshl d a b m w s
  | .vshr d a b m w => Sys2Proof.Machine.execVshr d a b m w s
  | .vsra d a b m w => Sys2Proof.Machine.execVsra d a b m w s
  | .vabs d a m w => Sys2Proof.Machine.execVabs d a m w s
  | .vcmp d a b m w c => Sys2Proof.Machine.execVcmp d a b m w c s
  | .vfadd d a b m f => Sys2Proof.Machine.execVfadd d a b m f s
  | .vfsub d a b m f => Sys2Proof.Machine.execVfsub d a b m f s
  | .vfmul d a b m f => Sys2Proof.Machine.execVfmul d a b m f s
  | .vfdiv d a b m f => Sys2Proof.Machine.execVfdiv d a b m f s
  | .vfmin d a b m f => Sys2Proof.Machine.execVfmin d a b m f s
  | .vfmax d a b m f => Sys2Proof.Machine.execVfmax d a b m f s
  | .vfexp2 d a m f => Sys2Proof.Machine.execVfexp2 d a m f s
  | .vfrcp d a m f => Sys2Proof.Machine.execVfrcp d a m f s
  | .vfrsq d a m f => Sys2Proof.Machine.execVfrsq d a m f s
  | .vfcmp d a b m f c => Sys2Proof.Machine.execVfcmp d a b m f c s
  | .vfma d a b c m f => Sys2Proof.Machine.execVfma d a b c m f s
  | .vsel d a b w m => Sys2Proof.Machine.execVsel d a b w m s
  | .vperm d a b w m => Sys2Proof.Machine.execVperm d a b w m s
  | .vbcst d a w m => Sys2Proof.Machine.execVbcst d a w m s
  | .vins d a b w => Sys2Proof.Machine.execVins d a b w s
  | .vext d a b w => Sys2Proof.Machine.execVext d a b w s
  | .vredi d a o w m => Sys2Proof.Machine.execVredi d a o w m s
  | .vredf d a r f m => Sys2Proof.Machine.execVredf d a r f m s
  | .vcvt d a src t x m r => Sys2Proof.Machine.execVcvt d a src t x m r s
  | .mand d a b => Sys2Proof.Machine.execMand d a b s
  | .mor d a b => Sys2Proof.Machine.execMor d a b s
  | .mnot d a => Sys2Proof.Machine.execMnot d a s
  | .mpopc d a => Sys2Proof.Machine.execMpopc d a s
  | .mma d a b c => Sys2Proof.Machine.execMma d a b c s
  | .mmrt d a b g => Sys2Proof.Machine.execMmrt d a b g s
  | .mdist d a b => Sys2Proof.Machine.execMdist d a b s
  | .mcbk n a => Sys2Proof.Machine.execMcbk n a s
  | .mldb a b => Sys2Proof.Machine.execMldb a b s
  | .mst d a b f r x => Sys2Proof.Machine.execMst d a b f r x s
  | .mld d a b f => Sys2Proof.Machine.execMld d a b f s
  | .mzero d => Sys2Proof.Machine.execMzero d s
  | .mflg d g c => Sys2Proof.Machine.execMflg d g c s
  | .mtopk d a b e => Sys2Proof.Machine.execMtopk d a b e s
  | .cpy d a b src c => Sys2Proof.Machine.execCpy d a b src c s
  | .cpyr d a b src c => Sys2Proof.Machine.execCpyr d a b src c s
  | .pump d a b src x c => Sys2Proof.Machine.execPump d a b src x c s
  | .talloc d a => Sys2Proof.Machine.execTalloc d a s
  | .tseal a src => Sys2Proof.Machine.execTseal a src s
  | .tget a b => Sys2Proof.Machine.execTget a b s
  | .tdrop a => Sys2Proof.Machine.execTdrop a s
  | .tabandon a b => Sys2Proof.Machine.execTabandon a b s
  | .tfree a => Sys2Proof.Machine.execTfree a s
  | .tinfo d a => Sys2Proof.Machine.execTinfo d a s
  | .wpush d a b => Sys2Proof.Machine.execWpush d a b s
  | .wpop d a => Sys2Proof.Machine.execWpop d a s
  | .wtry d a => Sys2Proof.Machine.execWtry d a s
  | .wstat d a => Sys2Proof.Machine.execWstat d a s
  | .launch d a b => Sys2Proof.Machine.execLaunch d a b s
  | .jopen d a => Sys2Proof.Machine.execJopen d a s
  | .jwait d a => Sys2Proof.Machine.execJwait d a s
  | .jsucc d a b => Sys2Proof.Machine.execJsucc d a b s
  | .jsuccRel d => Sys2Proof.Machine.execJsuccRel d s
  | .jsuccDis d => Sys2Proof.Machine.execJsuccDis d s
  | .send a b => Sys2Proof.Machine.execSend a b s
  | .sendR a b => Sys2Proof.Machine.execSendR a b s
  | .recvm d a => Sys2Proof.Machine.execRecvm d a s
  | .portcfg a => Sys2Proof.Machine.execPortcfg a s
  | .rempty d => Sys2Proof.Machine.execRempty d s
  | .remptyV d => Sys2Proof.Machine.execRemptyV d s
  | .rbegin l imm => Sys2Proof.Machine.execRbegin l imm s
  | .rpres b n => Sys2Proof.Machine.execRpres b n s
  | .rpresA d => Sys2Proof.Machine.execRpresA d s
  | .sysr d x n => Sys2Proof.Machine.execSysr d x n s
  | .sysw a x n => Sys2Proof.Machine.execSysw a x n s
  | .setrnd m => Sys2Proof.Machine.execSetrnd m s
  | .trap imm => Sys2Proof.Machine.execTrap imm s
  | .sleep n => Sys2Proof.Machine.execSleep n s
  | .tcswap a b k => Sys2Proof.Machine.execTcswap a b k s
  | .tlbinv a b src f => Sys2Proof.Machine.execTlbinv a b src f s
  | .brk imm => Sys2Proof.Machine.execBrk imm s
  | .himm d => Sys2Proof.Machine.execHimm d s
  | .hmod d => Sys2Proof.Machine.execHmod d s
  | .hmod2 d => Sys2Proof.Machine.execHmod2 d s
  | .illegalInstructionWord w => Sys2Proof.Machine.execIllegalInstructionWord w s
  | .divideResultWritten core slot => Sys2Proof.Machine.execDivideResultWritten core slot s
  | .selectionMergeComplete core slot => Sys2Proof.Machine.execSelectionMergeComplete core slot s
  | .hostWriteBackInvalidate addr bytes => Sys2Proof.Machine.execHostWriteBackInvalidate addr bytes s
  | .powerGood => Sys2Proof.Machine.execPowerGood s
  | .mhlTrainRetry => Sys2Proof.Machine.execMhlTrainRetry s
  | .thermalShutdown => Sys2Proof.Machine.execThermalShutdown s
  | .currentExcess => Sys2Proof.Machine.execCurrentExcess s
  | .powerLimitExpiry => Sys2Proof.Machine.execPowerLimitExpiry s
  | .fatalError => Sys2Proof.Machine.execFatalError s
  | .attestation => Sys2Proof.Machine.execAttestation s
  | .raiseFusedMinimum => Sys2Proof.Machine.execRaiseFusedMinimum s
  | .snapshotTrigger => Sys2Proof.Machine.execSnapshotTrigger s
  | .armDebug => Sys2Proof.Machine.execArmDebug s
  | .resumeHaltedThread => Sys2Proof.Machine.execResumeHaltedThread s
  | .armErrorInjection => Sys2Proof.Machine.execArmErrorInjection s
  | .stageImageChunk => Sys2Proof.Machine.execStageImageChunk s
  | .commitStagedImage => Sys2Proof.Machine.execCommitStagedImage s
  | .unknownRequest => Sys2Proof.Machine.execUnknownRequest s
  | .synci => Sys2Proof.Machine.execSynci s
  | .gbar => Sys2Proof.Machine.execGbar s
  | .gexit => Sys2Proof.Machine.execGexit s
  | .waitm => Sys2Proof.Machine.execWaitm s
  | .rend => Sys2Proof.Machine.execRend s
  | .rfail => Sys2Proof.Machine.execRfail s
  | .eret => Sys2Proof.Machine.execEret s
  | .yield => Sys2Proof.Machine.execYield s

end Sys2Proof.Machine
end

