-- ==== Sys2Proof/Machine/IntakeRing.lean ====
section
/-!
DEFINITION. The command rings (R44 to R47): descriptors in the control window, and the intake thread of each enabled ring,
one round of its program's loop at a time. What the spec leaves to the intake program (its core, how long a parked push
waits) is in log entry 66.
-/
namespace Sys2Proof.Machine

/-- A ring's descriptor (R44). -/
def ringDescriptor (n : Nat) : Nat := Place.control (0x4_0000 + 32 * n)

/-- The ring's base in address space 0, aligned to 4 KiB. -/
def ringBaseOf (s : State) (n : Nat) : Word := BitVec.ofNat 64 (ofBytes (s.bytes (ringDescriptor n) 8) / 4096 * 4096)

/-- The number of entries of an enabled ring; none while it is disabled or its descriptor is to be ignored. -/
def ringEntries (s : State) (n : Nat) : Option Nat :=
  let log := (s.mem.byte (ringDescriptor n + 8)).toNat
  if (s.mem.byte (ringDescriptor n + 9)).getLsbD 0 && decide (1 ≤ log) && decide (log ≤ 16) then some (2 ^ log) else none

def State.ring (s : State) (n : Nat) : RingThread := NatMap.get s.rings n ⟨0, 0, none, false⟩

def State.setRing (s : State) (n : Nat) (r : RingThread) : State := { s with rings := NatMap.set s.rings n r }

/-- The descriptor's count of discarded entries rises. -/
def countDiscard (s : State) (n k : Nat) : State :=
  let at' := ringDescriptor n + 12
  s.write at' (toBytes 4 (ofBytes (s.bytes at' 4) + k))

/-- The thread's access to its ring faults: it waits until the descriptor is rewritten (R159). -/
def ringFault (s : State) (n : Nat) : State := s.setRing n { s.ring n with faulted := true }

/-- The head moves, and its word is written by an STL of 8 bytes (R47, R346); a write that faults stops the thread, which keeps the
new head. -/
def moveHead (s : State) (n : Nat) (head : BitVec 32) : State :=
  let s1 := s.setRing n { s.ring n with head := head, pushing := none }
  (deviceWrite s1 0 (ringBaseOf s n + 64) (toBytes 8 head.toNat)).getD (ringFault s1 n)

/-- An entry of a ring (R45). -/
structure RingEntry where
  seq : BitVec 32
  target : BitVec 16
  reserved : Bool
  item : Item
  deriving DecidableEq, Repr

def ringEntry (bytes : List Byte) : RingEntry where
  seq := BitVec.ofNat 32 (ofBytes (bytes.take 4))
  target := BitVec.ofNat 16 (ofBytes ((bytes.drop 4).take 2))
  reserved := decide (ofBytes ((bytes.drop 4).take 2) / 2 ^ 9 ≠ 0) ||
    decide (ofBytes ((bytes.drop 6).take 2) ≠ 0) || decide (ofBytes ((bytes.drop 40).take 24) ≠ 0)
  item := itemOf (BitVec.ofNat 256 (ofBytes ((bytes.drop 8).take 32)))

/-- What an entry's push comes to at issue (R47, R75, R422, R119): refused, or the state with the push to be made. -/
def ringPush (s : State) (e : RingEntry) : Option (State × Nat × Push) :=
  let m := (e.target.extractLsb' 6 3).toNat
  let w := (e.target.extractLsb' 0 6).toNat
  let p : Push := ⟨w, e.item, .thread (s.modNum * 1024), decide (m = s.modNum), false⟩
  if e.reserved ∨ 4 ≤ e.item.cls then none
  else if m ≠ s.modNum then (if s.inPod m then some (s, m, p) else none)
  else if ¬jobLive s e.item.job ∨ ¬(s.wl w).en then none
  else (countUp s e.item.job).map fun s1 => (s1, m, p)

/-- A push of the intake thread: made, and the head moved on, or parked. -/
def ringMake (s : State) (n m : Nat) (p : Push) : State :=
  let r := s.ring n
  let x := makePush s (s.modNum * 1024) m p
  match x.1 with
  | some s1 => moveHead s1 n (r.head + 1)
  | none => x.2.setRing n { r with pushing := some (m, p, s.now) }

/-- The cycle at which a parked push of the intake thread fails: by R91, as those of other threads, or by R28 while no path
leads to its target. -/
def ringDeadline (s : State) (m : Nat) (p : Push) (since : Nat) : Option Nat :=
  let core := s.modNum * 1024
  let linkedNow := linked s core (pushNode s core m p)
  match pushDeadline s m p since, linkedNow with
  | some due, false => some (Nat.min due (since + oneMs))
  | none, false => some (since + oneMs)
  | due, true => due

/-- A parked push that has failed: it is not made and its count is withdrawn (R91, R28); the program's handler counts the entry
as discarded and goes on after it, as R47 says of a push that is not accepted (DEDUCED, log entry 66). -/
def ringGiveUp (s : State) (n : Nat) (p : Push) : State :=
  let s1 := if p.counted then countDown s p.item.job 1 else s
  moveHead (countDiscard s1 n 1) n ((s.ring n).head + 1)

/-- The entry at the head is consumed (R47); none while it is not valid. -/
def ringConsume (s : State) (n entries : Nat) : Option State :=
  let r := s.ring n
  let base := ringBaseOf s n
  let at' := base + 128 + BitVec.ofNat 64 (64 * (r.head.toNat % entries))
  match blockWalk s 0 (base + 64) true, ringRead s at' 64 with
  | some _, some (bytes, s1) =>
    let e := ringEntry bytes
    if e.seq ≠ r.head then none
    else
      match ringPush s1 e with
      | some (s2, m, p) => some (ringMake s2 n m p)
      | none => some (moveHead (countDiscard s1 n 1) n (r.head + 1))
  | _, _ => some (ringFault (spentRead s 0 at' 64) n)

/-- The tail word is read; none while it is the one last seen, all entries before it consumed. -/
def ringTail (s : State) (n entries : Nat) : Option State :=
  let r := s.ring n
  match ringRead s (ringBaseOf s n) 4 with
  | none => some (ringFault (spentRead s 0 (ringBaseOf s n) 4) n)
  | some (bytes, s1) =>
    let tail : BitVec 32 := BitVec.ofNat 32 (ofBytes bytes)
    if tail = r.seen then none
    else
      let s2 := s1.setRing n { r with seen := tail }
      -- an overrun: the batch is dropped
      if entries < (tail - r.head).toNat then some (moveHead (countDiscard s2 n (tail - r.head).toNat) n tail)
      else some s2

/-- One round of the intake thread of ring `n`; none while it waits (R47). What becomes of a parked push while its ring is
disabled, or its size is none that R47 allows, is not said; DESIGN CHOICE (log entry 66): it neither tries again nor times out
until the ring is enabled again. -/
def ringStep (s : State) (n : Nat) : Option State :=
  let r := s.ring n
  if ¬s.ready ∨ s.stopped ∨ r.faulted ∨ 16 ≤ n then none
  else
    match ringEntries s n with
    | none => none
    | some entries =>
      match r.pushing with
      | some (m, p, since) =>
        match (makePush s (s.modNum * 1024) m p).1 with
        | some s1 => some (moveHead s1 n (r.head + 1))
        | none => if (ringDeadline s m p since).any fun due => decide (due ≤ s.now) then some (ringGiveUp s n p) else none
      | none => if r.head = r.seen then ringTail s n entries else ringConsume s n entries

end Sys2Proof.Machine
end

