-- ==== Sys2Proof/Machine/Turns.lean ====
section
/-!
DEFINITION. Whose turn it is: which thread a core issues (R131, R117, R450), when (R131, R136), the fetch of its next
word (R149), and which event of the device takes place when the agenda names none.
-/
namespace Sys2Proof.Machine

/-! ### Issue -/

/-- The issue-skip factor of a thread's gang (R117): the largest that a die of one of its threads, or the power
controller (R15), asks for. -/
def skipFactor (s : State) (t : Thread) : Nat :=
  match s.gang? t.gang.toNat with
  | none => s.powerSkip.toNat
  | some g =>
    let resident (k : Nat) : Bool := match NatMap.get s.slots k .empty with
      | .busy _ => true
      | _ => false
    (g.slots.filter resident).foldl (fun m k => Nat.max m (s.die (State.dieOf (k / 16))).skip.toNat) s.powerSkip.toNat

/-- The slots of a core in the order of issue: from the one after the slot that issued last (R131). -/
def issueOrder (last : Nat) : List Nat := (List.range 16).map fun i => (last + 1 + i) % 16

/-- The earliest cycle in which a core can issue, if a thread of it can: after the events of this cycle (R140, R148). -/
def coreTime (s : State) (c : Nat) : Option Nat :=
  let times := (List.range 16).filterMap (slotFrom s c)
  match times with
  | [] => none
  | x :: rest => some (Nat.max s.now (Nat.max s.issueFrom (Nat.max (s.core c).freeAt (rest.foldl Nat.min x))))

/-- A turn that a ready thread forgoes under throttling (R117): the first `skipFactor` of every 8. -/
def forgoes (s : State) (t : Thread) (trailing : Bool) : Bool :=
  decide ((if trailing then t.trail.phase else t.skipPhase) % 8 < skipFactor s t)

/-- The turn forgone. -/
def Thread.forgo (t : Thread) (trailing : Bool) : Thread :=
  if trailing then { t with trail := { t.trail with phase := t.trail.phase + 1 } } else { t with skipPhase := t.skipPhase + 1 }

/-- The cores that hold a resident thread. -/
def busyCores (s : State) : List Nat := ((s.residents.map fun (e : Nat × Thread) => e.1 / 16)).eraseDups

/-- A core that can issue in this cycle. -/
def issues (s : State) (c : Nat) : Bool := (coreTime s c).any fun x => decide (x = s.now)

/-- The first core that can issue in this cycle. -/
def issuable (s : State) : Option Nat := (busyCores s).find? (issues s)

/-- A sibling has issued: threads that yielded to it wait for it no longer (R450). -/
def noteIssue (s : State) (c n : Nat) : State :=
  { s with slots := s.slots.map fun e =>
      if e.1 / 16 = c then
        match e.2 with
        | .busy t => (e.1, .busy { t with yieldTo := t.yieldTo.filter fun x => decide (x ≠ n) })
        | x => (e.1, x)
      else e }

/-- The thread of slot `n` of core `c` issues in cycle `at`. -/
def beginIssue (s : State) (c n at' : Nat) (t : Thread) : State :=
  let t1 : Thread := { t with
    lastIssue := some at', readyAt := at' + 8, issued := t.issued + 1, skipPhase := t.skipPhase + 1
    yieldTo := [], yieldEnd := 0, again := false }
  let s1 := (noteIssue s c n).setSlot c n (.busy t1)
  { s1 with
    cur := (c, n), now := at'
    seen := s1.seen.filter fun x => decide (x.1 ≠ t.uid)
    badTransfers := s1.badTransfers.filter fun x => decide (x.1 ≠ t.uid)
    carried := s1.carried.filter fun x => decide (x.uid ≠ t.uid) }.modCore c fun x => { x with lastSlot := n, freeAt := at' + 1 }

/-- The slot that core `c` issues in cycle `at`, and the threads that forgo the turn before it (R131, R117). -/
def pickSlot (s : State) (c at' : Nat) : List Nat → State → Option (Nat × Thread) × State
  | [], acc => (none, acc)
  | n :: rest, acc =>
    match slotThread acc c n with
    | none => pickSlot s c at' rest acc
    | some (t, trailing) =>
      if (slotFrom acc c n).elim false (fun x => decide (x ≤ at')) then
        if forgoes s t trailing then
          pickSlot s c at' rest (acc.modSlot (leadSlot acc (c * 16 + n)) fun x => x.forgo trailing)
        else (some (n, t), acc)
      else pickSlot s c at' rest acc

/-! ### Fetch (R149) -/

/-- The thread with its fetch buffer over its PC: kept while it covers the PC, loaded otherwise. -/
def fillBuffer (s : State) (c : Nat) (t : Thread) : Thread :=
  let base := t.pc.toNat / 64 * 64
  match t.fetchBuf with
  | some (b, bytes) => if b = base then { t with fetchBuf := some (b, bytes) }
      else { t with fetchBuf := some (base, s.bytes (Place.lm c base) 64) }
  | none => { t with fetchBuf := some (base, s.bytes (Place.lm c base) 64) }

/-- Whether the buffer is loaded from a poisoned line (R260: an erroneous value about to enter issue). -/
def fetchPoisoned (s : State) (c : Nat) (t : Thread) : Bool :=
  let base := t.pc.toNat / 64 * 64
  !(t.fetchBuf.any fun b => decide (b.1 = base)) && s.poisonIn (Place.lm c base) 64

/-- The word at the PC in the fetch buffer; PC is a multiple of 4. -/
def fetchedWord (t : Thread) : BitVec 32 :=
  match t.fetchBuf with
  | some (b, bytes) => BitVec.ofNat 32 (ofBytes ((bytes.drop (t.pc.toNat - b)).take 4))
  | none => 0

/-- The instruction that a fetched word is issued as (R316). -/
def issuedInstr (w : BitVec 32) : Instr :=
  match decodeWord w with
  | .ok i => i
  | .error _ => .illegalInstructionWord w

/-! ### Accesses on their way -/

/-- The access on which a slot is parked, on its way to its home. -/
def sentFrom (s : State) (k : Nat) : Option (Thread × Req) :=
  match NatMap.get s.slots k .empty with
  | .busy t => match t.park with
    | some (.access r) | some (.remote r) => some (t, r)
    | _ => none
  | _ => none

/-- A unit of a load is read before the rest (R225). -/
def earlyTurn (s : State) (k n : Nat) : State :=
  (sentFrom s k).elim s fun x => if deliveredTo s (k / 16) x.1 x.2 then readEarly s x.1 x.2 n else s

/-- An access reaches its home (R238). -/
def arriveTurn (s : State) (k : Nat) : State :=
  (sentFrom s k).elim s fun x => if deliveredTo s (k / 16) x.1 x.2 then s.arrive x.1 x.2 else s

/-! ### Events of the device -/

/-- The next flit of a parked thread's packets on their way (R21, R27), if a link can take it. -/
def nextFlit (s : State) (core : Nat) (t : Thread) (p : Park) : Option Instr :=
  match (p.trips s core).find? fun x => decide (heldAt s core t x.1 ≠ x.1) with
  | none => none
  | some x => ((nextLink s (heldAt s core t x.1) x.1).filter fun n => decide (failingParts (s.link n) 0 ≤ 1)).map fun n =>
      .flitReceive n (s.link n).expect 0 .request

/-- What brings a request on its way further: its delivery, flit by flit, then its end. -/
def requestTurn (s : State) (core : Nat) (t : Thread) (r : Req) (p : Park) (arrived : Instr) : Option Instr :=
  if deliveredTo s core t r then (if s.behind t r || (r.releases && s.blocked t.uid) then none else some arrived)
  else nextFlit s core t p

/-- The same of a SEND, once the time of its next attempt has come. -/
def sendTurn (s : State) (core slot : Nat) (t : Thread) (p : Park) (due : Nat) : Option Instr :=
  if s.now < due ∨ s.blocked t.uid then none
  else if p.arrived s core t then some (.sendRetryAttempt core slot)
  else nextFlit s core t p

/-- The same of a push: once it is at its node it is made where there is room. -/
def pushTurn (s : State) (core slot : Nat) (t : Thread) (p : Park) (m : Nat) (x : Push) : Option Instr :=
  if p.arrived s core t then (if (placePush s core m x).1.isSome then some (.parkedPushRetry core slot) else none)
  else nextFlit s core t p

/-- A flit of the oldest packet of another module that is to cross a link, where one can take it (R22). -/
def passingTurns (s : State) : List Instr :=
  ((List.range 30).filter fun n => (passingOver s n).isSome && decide (failingParts (s.link n) 0 ≤ 1)).map fun n =>
    .flitReceive n (s.link n).expect 0 .passing

/-- What may come to the parked thread of slot `k` (R135). -/
def parkTurn (s : State) (k : Nat) (t : Thread) : Option Instr :=
  let core := k / 16
  let slot := k % 16
  match t.park with
  | some (.walk ..) => if walkServed s k then some (.walkComplete core slot) else none
  | some (.ending _) => some (.accessCompletion core slot)
  | some (.invalidate l) => if l.any (stillAwaited s) then none else some (.accessCompletion core slot)
  | some (.access r) => requestTurn s core t r (.access r) (.accessCompletion core slot)
  | some (.remote r) => requestTurn s core t r (.remote r) (.remoteAccess core slot)
  | some (.divide ..) | some (.vdivide ..) => some (.divideResultWritten core slot)
  | some (.select ..) => some (.selectionMergeComplete core slot)
  | some (.send m n due true) => sendTurn s core slot t (.send m n due true) due
  | some (.push m x since n) =>
    (pushTurn s core slot t (.push m x since n) m x).orElse fun _ =>
      if (pushDeadline s m x since).any fun due => decide (due ≤ s.now) then some (.pushTimeout core slot) else none
  | some (.home ⟨.waita _ e, p :: _, _⟩ _) =>
    if Place.tier p.loc = .cxl ∧ (wordOf (ownView s t p.loc 8) ≠ e ∨ s.poisonIn p.loc 8) then some (.waitaReread core slot) else none
  | _ => none

/-- A half of a core's rotation can be delivered, or a rotation waits for the buffer (R402). -/
def rotationDue (s : State) (core : Nat) : Bool :=
  match (s.core core).rotation with
  | none => false
  | some r =>
    (!r.aSent && aEmpty s (westOf r.cluster core) r.aOff) || (!r.bSent && bNoneReady s (northOf r.cluster core) r.bOff)

/-- What the engines of a core may do. -/
def coreTurns (s : State) (core : Nat) : List Instr :=
  (if (s.core core).products = [] then [] else [.matrixProductComplete core false]) ++
    (if rotationDue s core then [.rotationDelivery core] else []) ++
    (if (sleepDue s core).any fun due => decide (due ≤ s.now) then [.coreSleep core] else [])

/-- What the rake of a die may do (R107, R108, R112). -/
def rakeTurns (s : State) (die : Nat) : List Instr :=
  let d := s.die (s.modNum * 8 + die)
  (if d.rakeIn = [] then [] else [.rakeHandoff die]) ++
    (if (nextWorklist s d).isSome then [.rakePop die] else []) ++
    ((d.backoff.filter fun e => decide (e.2 ≤ s.now)).map fun e => .rakeBackoffExpiry die (e.1 / 8))

/-- The free-frame ring has something for a move that waits (R73): a frame, an overrun, or a tail that cannot be read. -/
def ringOffers (s : State) (i : Nat) : Bool :=
  let x := s.io i
  !x.spareFrames.isEmpty ||
    (x.ringEn && !x.ringStopped && decide (1 ≤ x.ringLogN.toNat) && decide (x.ringLogN.toNat ≤ 16) &&
      match ringRead s (ringAt x) 4 with
      | some b => decide (BitVec.ofNat 32 (ofBytes b.1) ≠ x.ringHead)
      | none => true)

/-- What the pump and the forwarding engine of an I/O die may do (R70, R73, R94). -/
def ioTurns (s : State) (i : Nat) : List Instr :=
  let x := s.io i
  ((List.range x.moves.length).filterMap fun n =>
      if x.moves[n]?.any fun m => m.frame.isSome then some (.inboundMoveComplete i n 0) else none) ++
    (if (x.moves.any fun m => m.frame.isNone) && ringOffers s i then [.frameRingRefill i] else []) ++
    (((x.shadows.map fun e => (e.1, e.2.1)).eraseDups.filter fun q => queueDue s i q.1 q.2).map fun q =>
      .proxyForward i q.1 q.2)

/-- The request that the management core has to serve (R53, R54). -/
def mailboxTurn (s : State) : Instr :=
  match reqType s with
  | 1 => .attestation
  | 2 => .raiseFusedMinimum
  | 3 => .snapshotTrigger
  | 4 => .armDebug
  | 5 => .resumeHaltedThread
  | 6 => .armErrorInjection
  | 7 => .stageImageChunk
  | 8 => .commitStagedImage
  | _ => .unknownRequest

/-- The cores of the module that the state says something about. -/
def knownCores (s : State) : List Nat := ((s.cores.map fun (e : Nat × Core) => e.1) ++ (s.residents.map fun (e : Nat × Thread) => e.1 / 16)).eraseDups

/-- Whether an intake queue's oldest item can be pushed (R40). -/
def intakeMoves (s : State) (w : Nat) : Bool :=
  match (s.sluice w).queue with
  | item :: _ => (s.wl w).en && (doPush s ⟨w, item, .ioDie 0, true, false⟩).1.isSome
  | [] => false

/-- What the device may do next of its own accord. -/
def candidates (s : State) : List Turn :=
  let events : List Instr :=
    (if s.status = 0 then [.powerGood] else []) ++
    (if (mhlRetryDue s).any fun due => decide (due ≤ s.now) then [.mhlTrainRetry] else []) ++
    (s.residents.filterMap fun e => parkTurn s e.1 e.2) ++ passingTurns s ++
    ((List.range s.copies.length).map fun n => .copyComplete n) ++
    (knownCores s).flatMap (coreTurns s) ++
    (s.gangs.filterMap fun e => if e.2.loads = [] then none else some (.imageLoadComplete e.1)) ++
    (List.range 8).flatMap (rakeTurns s) ++
    [0, 1].flatMap (ioTurns s) ++
    (s.sluices.filterMap fun e => if intakeMoves s e.1 then some (.intakeQueueDrain e.1) else none) ++
    ((s.flushAsked.filter fun e => !inFlight s e.1 e.2).map fun e => .jobFlushRequest e.1 e.2) ++
    (s.jobs.flatMap fun e => e.2.flushing.map fun m => .jobFlushReply m e.1 0) ++
    (if s.mbxGo then [mailboxTurn s] else [])
  events.map Turn.event ++ (if s.booting = 0 then [] else [.boot]) ++ (if s.stores = [] then [] else [.drain 0]) ++
    (((List.range 16).filter fun n => (ringStep s n).isSome).map Turn.intake)

/-- The next of them, taken in rotation (log entry 1). -/
def nextTurn (s : State) : Option Turn :=
  let l := candidates s
  l[s.turnNo % l.length]?

/-! ### Time -/

/-- The cycles after its issue within which an access that can be delivered is performed, and after its acceptance a plain
store: R238 says finite time (DESIGN CHOICE, log entry 1). A push travels within 512. -/
def accessBound : Nat := 0x8_0000

/-- What falls due at a parked thread, with its cycle. -/
def parkDue (s : State) (k : Nat) (t : Thread) : Option (Nat × Turn) :=
  let core := k / 16
  let slot := k % 16
  let from' := t.lastIssue.getD t.readyAt
  match t.park with
  -- a miss that a walker serves (R168, R238)
  | some (.walk ..) => (parkTurn s k t).map fun i => (from' + accessBound, .event i)
  -- R135: the result of a division within 40 cycles
  | some (.divide ..) | some (.vdivide ..) => some (from' + 40, .event (.divideResultWritten core slot))
  | some (.send m n due true) =>
    let p := Park.send m n due true
    if s.blocked t.uid then none
    else if p.arrived s core t then some (due, .event (.sendRetryAttempt core slot))
    else if p.cutOff s core t ≠ [] then some (due + oneMs, .event (.requestTimeout core slot))
    else (nextFlit s core t p).map fun i => (due + accessBound, .event i)
  | some (.push m x since n) =>
    let p := Park.push m x since n
    let timeout := (pushDeadline s m x since).map fun due => (due, Turn.event (.pushTimeout core slot))
    let way := if p.arrived s core t then
        -- R91: made as soon as an entry frees
        (if (placePush s core m x).1.isSome then some (s.now, Turn.event (.parkedPushRetry core slot)) else none)
      else if p.cutOff s core t ≠ [] then some (from' + oneMs, .event (.requestTimeout core slot))
      else (nextFlit s core t p).map fun i => (from' + 512, .event i)
    match way, timeout with
    | some a, some b => some (if a.1 ≤ b.1 then a else b)
    | some a, none => some a
    | none, b => b
  | some (.access r) | some (.remote r) =>
    match parkTurn s k t with
    | some i =>
      -- R67: a CXL device that is silent for 1 ms
      if deliveredTo s core t r && r.parts.any (fun p => decide (Place.tier p.loc = .cxl)) then
        some (from' + oneMs, .event (.cxlDeviceTimeout core slot))
      else some (from' + accessBound, .event i)
    | none =>
      if t.park.any fun p => decide (p.cutOff s core t ≠ []) then some (from' + oneMs, .event (.requestTimeout core slot))
      else none
  -- R241: the home re-reads the word at least every 1,024 cycles
  | some (.home ⟨.waita .., _, _⟩ _) =>
    (parkTurn s k t).map fun i => (from' + (s.now - from' + 1023) / 1024 * 1024, .event i)
  | _ => none

/-- What falls due at all, with its cycle: at parked threads, at stores on their way, at the rakes (R112), the shadows (R94)
and the cores (R152). -/
def dueTurns (s : State) : List (Nat × Turn) :=
  -- R140, R148: what acts on other cores in this cycle, before anything else
  (s.residents.filterMap fun e => if e.2.park = some (.retry .issues) then some (s.now, .resume e.1) else none) ++
  (s.residents.filterMap fun e => parkDue s e.1 e.2) ++
  ((List.range s.stores.length).filterMap fun n => (s.stores[n]?).bind fun x =>
    if x.behind s then none else some (x.since + accessBound, .drain n)) ++
  -- R28: a command that no path leads to
  ((List.range s.copies.length).filterMap fun n => (s.copies[n]?).bind fun c =>
    if c.cutOff s && copyFree s n c then some (c.since + oneMs, .event (.copyComplete n)) else none) ++
  ((List.range s.inbound.length).filterMap fun i => (s.inbound[i]?).bind fun x =>
    if x.order.isNone && !pathTo s x.node x.dest then some (x.since + oneMs, .stale i) else none) ++
  -- R91: a parked push of a command ring
  ((List.range 16).filterMap fun n => (s.ring n).pushing.bind fun x =>
    if (ringStep s n).isSome then some (s.now, .intake n)
    else if !s.ready || (s.ring n).faulted || (ringEntries s n).isNone then none
    else (ringDeadline s x.1 x.2.1 x.2.2).map fun due => (due, .intake n)) ++
  ((s.dies.filter fun e => decide (e.1 / 8 = s.modNum)).flatMap fun e => e.2.backoff.map fun b => (b.2, .event (.rakeBackoffExpiry (e.1 % 8) (b.1 / 8)))) ++
  (s.ios.flatMap fun e => e.2.shadows.map fun x =>
    (x.2.2.2 + 512 + (if pathTo s (8 + e.1) (16 + x.1) then 0 else oneMs), .event (.proxyForward e.1 x.1 x.2.1))) ++
  -- R48: MHL is trained again once every second
  (mhlRetryDue s).toList.map (fun due => (due, .event .mhlTrainRetry)) ++
  ((knownCores s).filterMap fun c => (sleepDue s c).map fun due => (due, .event (.coreSleep c))) ++
  -- R61: the lane counts are cleared after every 2^20 transfers
  ((s.channels.filter fun e => decide (2 ^ 20 ≤ e.2.transfers)).map fun e =>
    (0, .event (.transferCountWrap (e.1 / 32) (e.1 % 32))))

/-- What is due by now: it takes place before anything else that is no issue. -/
def overdue (s : State) : Option Turn := ((dueTurns s).find? fun x => decide (x.1 ≤ s.now)).map (·.2)

/-- The next cycle in which a core can issue or something falls due, if there is one. -/
def nextCycle (s : State) : Option Nat :=
  let issue := if s.stopped then [] else (busyCores s).filterMap (coreTime s)
  match (issue ++ (dueTurns s).map (·.1)).filter fun x => decide (s.now < x) with
  | [] => none
  | x :: rest => some (rest.foldl Nat.min x)

/-- Time passes, by `cycles` at most: to the next cycle in which a core can issue or something falls due (R10, R133). -/
def passTime (s : State) (cycles : Nat) : State :=
  { s with now := Nat.min (s.now + cycles) ((nextCycle s).getD (s.now + cycles)) }

/-- Where nothing can happen in this cycle, time passes to the next in which something can. -/
def idle (s : State) : State := { s with now := (nextCycle s).getD (s.now + 1) }

end Sys2Proof.Machine
end

