-- ==== Sys2Proof/Machine/Pair.lean ====
section
/-!
DEFINITION. The issue of one word, by a thread or by the two threads of a redundant pair (R262): the leading thread issues,
takes values and runs ahead; stores, publications and engine commands wait at the comparator until the trailing thread
has reached them; the trailing thread issues the same stream in turns of its own.
-/
namespace Sys2Proof.Machine

/-! ### Which instructions wait at the comparator, and which take a value (R262) -/

/-- A result for POUT leaves the core (R142); hints and jumps have no result there. -/
def toPout (t : Thread) : Instr → Bool
  | .himm .. | .hmod .. | .hmod2 .. | .j .. | .jal .. => false
  | i => t.port.en && decide (bits (encodeNat i) 25 21 = 29)

/-- A store, a publication (R247) or an engine command, with what ends or meets the rest of the gang (DESIGN CHOICE, log
entry 26). -/
def comparesAt (t : Thread) : Instr → Bool
  | .stb .. | .sth .. | .stw .. | .std .. | .stl .. | .stp .. | .stf .. | .empty .. | .vst .. | .vsts .. | .vscat .. => true
  | .aadd .. | .aand .. | .aor .. | .axor .. | .amin .. | .amax .. | .aminz .. | .amaxz .. | .aswap .. | .acas .. => true
  | .afaddv .. | .brset .. | .bradd .. | .wpush .. | .launch .. | .tseal .. | .send .. | .sendR .. => true
  | .mmrt .. | .mst .. | .mtopk .. | .mldb .. | .cpy .. | .cpyr .. | .pump .. | .tget .. | .rend | .gbar | .gexit => true
  | i => toPout t i

/-- An instruction whose result depends on state outside the pair: loads, atomics, pops, handles, messages, CYC and WAB. One
that meets the comparator is executed when both threads have reached it, and the trailing one takes its value then: it leaves
no entry of the queue behind it. -/
def takesValue : Instr → Bool
  | .ldb .. | .ldh .. | .ldw .. | .ldd .. | .ldbz .. | .ldhz .. | .ldwz .. | .lda .. | .ldc .. | .ldo .. => true
  | .waita .. | .brget .. | .vld .. | .vlds .. | .vgath .. | .mld .. | .mcbk .. => true
  | .wpop .. | .wtry .. | .wstat .. | .talloc .. | .tinfo .. | .recvm .. | .jopen .. | .jwait .. => true
  | .aadd .. | .aand .. | .aor .. | .axor .. | .amin .. | .amax .. | .aminz .. | .amaxz .. | .aswap .. | .acas .. => true
  | .sysr _ _ n => n = 7 || n = 14
  | _ => false

/-- The flit at the head of the thread's inbound queue has been taken between two states, or had been. -/
def tookFlit (s : State) (t : Thread) (s1 : State) : Bool :=
  let q := t.pinQueue
  t.port.en && (t.taken.isSome ||
    !(s.queue s.cur.1 q).isEmpty && !((s.queue s.cur.1 q).isPrefixOf (s1.queue s.cur.1 q)))

/-- An instruction that is to be executed again has not been issued to the trailing thread. -/
def Park.reissued : Park → Bool
  | .retry .settling => false
  | .retry _ | .walk .. | .swap .. | .access ⟨.fetch, _, _⟩ | .remote ⟨.fetch, _, _⟩ => true
  | _ => false

/-- What the trailing thread finds of the instruction last issued: nothing if it is executed again, else whether it takes a
value from the queue. -/
def noteTrail (s : State) (t : Thread) (i : Instr) (s1 : State) : State :=
  match s1.slotOf t.uid with
  | some (k, x) =>
    if x.trail.lag.length = t.trail.lag.length + 1 then
      let last : List (Bool × Nat) := if x.park.any Park.reissued then [] else [(takesValue i || tookFlit s t s1, 0)]
      s1.modSlot k fun y => { y with trail := { y.trail with lag := t.trail.lag ++ last } }
    else s1
  | none => s1

/-- The trailing thread has the instruction still to issue. -/
def Thread.runAhead (t : Thread) : Thread := { t with trail := { t.trail with lag := t.trail.lag ++ [(false, 0)] } }

/-! ### Issue -/

/-- What follows from an instruction or event, once it has been executed. -/
def settled : Host.Outcome State Fault Refusal → Host.Outcome State Fault Refusal
  | .next s => .next (settle s)
  | o => o

/-- A withdrawn instruction's result for POUT, all else of it done, goes to its queue or waits for room again (R143). -/
def issueOwed (s : State) (t : Thread) (w : Word) (next : BitVec 19) : State :=
  match writeG s s.cur.1 t 29 w with
  | .ok (s1, t1) => s1.putThread { (t1.flagged t.late).advance with pc := next, owed := none, late := 0 }
  | .error (.park (.pout c q v n _)) => parkIn s (s.cur.1 * 16 + s.cur.2) t (.pout c q v n next)
  | .error e => stopIn s (s.cur.1 * 16 + s.cur.2) t e

/-- The leading thread of a pair issues `i`: at the comparator it waits for the trailing one (R262). -/
def issueLeading (s : State) (t : Thread) (i : Instr) : Host.Outcome State Fault Refusal :=
  if comparesAt t i then .next (settle (parkIn s (s.cur.1 * 16 + s.cur.2) t .compare))
  else
    match exec i (s.putThread t.runAhead) with
    | .next s1 => .next (settle (noteTrail s t i s1))
    | o => o

/-- The thread with what its issue reads of its own core before the cycle's other effects (R148, R149): the fetch buffer over its
PC; a poisoned line there is an error that it is to consume (R260). -/
def prepared (s : State) (c : Nat) (t : Thread) : Thread :=
  if t.spoiled || fetchPoisoned s c t then { t with spoiled := true }
  else if t.owed.isSome then t
  else fillBuffer s c t

/-- What a prepared thread does in its turn: it consumes an error, gives the result that it owes, or issues the word at its PC;
a pair that has met at the comparator (`met`) executes it once. -/
def issueBody (s : State) (t : Thread) (met : Bool) : Host.Outcome State Fault Refusal :=
  if t.spoiled then .next (settle (consumeError s (s.cur.1 * 16 + s.cur.2) { t with spoiled := false } 0))
  else
    match t.owed with
    | some (w, next) => .next (settle (issueOwed s t w next))
    | none =>
      let i := issuedInstr (fetchedWord t)
      if t.pair && !(met && comparesAt t i) then issueLeading s t i else settled (exec i s)

/-! ### What acts on other cores (R140, R148) -/

/-- Whether a place lies in the local memory or the B store of another core than `c`. -/
def Place.elsewhere (c p : Nat) : Bool :=
  (decide (p < Place.unit) && decide (p / 0x8_0000 ≠ c)) ||
    (decide (4 * Place.unit ≤ p ∧ p < 5 * Place.unit) && decide ((p - 4 * Place.unit) / 0x40_0000 ≠ c))

/-- Whether two states agree in what the other cores than `c` issue from: their memory with its bits, their threads, their
registers and queues. -/
def agreeElsewhere (c : Nat) (s s1 : State) : Bool :=
  decide ((s.mem.cells.filter fun x => Place.elsewhere c x.1) = s1.mem.cells.filter fun x => Place.elsewhere c x.1) &&
  decide ((s.mem.spans.filter fun x => Place.elsewhere c x.base) = s1.mem.spans.filter fun x => Place.elsewhere c x.base) &&
  decide ((s.emptyWords.filter fun w => Place.elsewhere c (8 * w)) = s1.emptyWords.filter fun w => Place.elsewhere c (8 * w)) &&
  decide ((s.poisoned.filter fun u => Place.elsewhere c (64 * u)) = s1.poisoned.filter fun u => Place.elsewhere c (64 * u)) &&
  decide ((s.notReady.filter fun l => Place.elsewhere c (128 * l)) = s1.notReady.filter fun l => Place.elsewhere c (128 * l)) &&
  decide ((s.slots.filter fun e => decide (e.1 / 16 ≠ c)) = s1.slots.filter fun e => decide (e.1 / 16 ≠ c)) &&
  decide ((s.cores.filter fun e => decide (e.1 ≠ c)) = s1.cores.filter fun e => decide (e.1 ≠ c))

/-- What a turn of the thread `t` in slot `k` comes to: one that changes what other cores issue from takes effect after the issues
of its cycle (R140, R148, R318). -/
def afterOthers (s : State) (k : Nat) (t : Thread) : Host.Outcome State Fault Refusal → Host.Outcome State Fault Refusal
  | .next s1 => if agreeElsewhere (k / 16) s s1 then .next s1 else .next (parkIn s k t (.retry .issues))
  | o => o

/-- The thread whose turn it is issues the word at its PC. -/
def issueWord (s : State) : Host.Outcome State Fault Refusal :=
  match s.thread? with
  | none => .fault .noThread
  | some t =>
    let t1 := prepared s s.cur.1 t
    afterOthers s (s.cur.1 * 16 + s.cur.2) t1 (issueBody (s.putThread t1) t1 false)

/-- The trailing thread of the pair in slot `lead` takes its turn in cycle `at` (R131, R262): it issues what the leading one
has issued, or meets it at the comparator, where the two agree and the instruction is executed once. -/
def issueTrailing (s : State) (c n lead at' : Nat) (t : Thread) : Host.Outcome State Fault Refusal :=
  let t1 : Thread := { t with
    trail := ⟨t.trail.lag.drop 1, at' + 8, t.trail.issued + 1, t.trail.phase + 1⟩ }
  let s1 := { noteIssue s c n with cur := (c, lead % 16), now := at' }.modCore c fun x =>
    { x with lastSlot := n, freeAt := at' + 1 }
  match t.trail.lag with
  | [] =>
    let t2 := fillBuffer s1 c { t1 with park := none, lastIssue := some at' }
    afterOthers s1 lead t2 (settled (exec (issuedInstr (fetchedWord t2)) (s1.putSlot lead t2)))
  | _ => .next (settle (s1.putSlot lead t1))

/-- The thread in slot `k` goes on with an instruction that acts on other cores, after the issues of its cycle (R140, R148). -/
def resumeTurn (s : State) (k : Nat) : Host.Outcome State Fault Refusal :=
  match NatMap.get s.slots k .empty with
  | .busy t =>
    if t.park = some (.retry .issues) then
      let t1 : Thread := { t with park := none }
      issueBody ({ s with cur := (k / 16, k % 16) }.putSlot k t1) t1 true
    else .next s
  | _ => .next s

/-- The comparator finds the pair in slot `k` apart (R260, R262): a detected error, which both consume together. -/
def mismatchTurn (s : State) (k : Nat) : State :=
  match NatMap.get s.slots k .empty with
  | .busy t => if t.pair ∧ t.park = some .compare ∧ t.trail.lag = [] then settle (consumeError s k t 0) else s
  | _ => s

/-! ### Upsets (R260) -/

/-- A register of the thread in slot `k` is left with bad parity; g0 is none. Which register files have parity is not said; DESIGN
CHOICE (log entry 26): those of the g and v registers, not m1 to m3. -/
def upsetTurn (s : State) (k : Nat) (v : Bool) (r : Nat) : State :=
  s.modSlot k fun t =>
    if v then { t with badV := t.badV ||| (1#16 <<< (r % 16)) }
    else if r % 32 = 0 then t
    else { t with badG := t.badG ||| (1#32 <<< (r % 32)) }

/-- A single-bit error corrected on its way to the thread in slot `k` is charged to its job. -/
def repairedTurn (s : State) (k : Nat) : State :=
  match NatMap.get s.slots k .empty with
  | .busy t => charge s t.job.toNat 1 .corrected
  | _ => s

end Sys2Proof.Machine
end

