-- ==== Sys2Proof/Machine/Step.lean ====
section
/-!
DEFINITION. One step of the module: an event of the device or its surroundings, or the issue of one word by one
thread, with what follows from it; and the placing of a word where the next step fetches it.
-/
namespace Sys2Proof.Machine

/-- Core `c` issues in cycle `at`, if a thread takes the turn. -/
def issueOn (s : State) (c at' : Nat) : Host.Outcome State Fault Refusal :=
  let p := pickSlot s c at' (issueOrder (s.core c).lastSlot) s
  match p.1 with
  | none => .next ({ p.2 with now := at' }.modCore c fun x => { x with freeAt := at' + 1 })
  | some (n, t) =>
    match NatMap.get p.2.slots (c * 16 + n) .empty with
    | .trailing lead => issueTrailing p.2 c n lead at' t
    | _ => issueWord (beginIssue p.2 c n at' t)

/-- A turn that is no issue: after it no core issues in this cycle (R140, R148). -/
def takeTurn (s : State) : Turn → Host.Outcome State Fault Refusal
  | .event i => settled (exec i { s with issueFrom := s.now + 1 })
  | .drain n => .next (settle ({ s with issueFrom := s.now + 1 }.performPending n))
  | .early k n => .next (earlyTurn { s with issueFrom := s.now + 1 } k n)
  | .arrive k => .next (arriveTurn { s with issueFrom := s.now + 1 } k)
  | .wait n => .next (passTime s n)
  | .upset k v r => .next (upsetTurn { s with issueFrom := s.now + 1 } k v r)
  | .mismatch k => .next (mismatchTurn { s with issueFrom := s.now + 1 } k)
  | .repaired k => .next (repairedTurn { s with issueFrom := s.now + 1 } k)
  | .resume k => resumeTurn { s with issueFrom := s.now + 1 } k
  | .boot => .next (bootTurn { s with issueFrom := s.now + 1 })
  | .stale n => .next (dropStale { s with issueFrom := s.now + 1 } n)
  | .intake n => .next (((ringStep { s with issueFrom := s.now + 1 } n).map settle).getD s)
  -- a core that cannot issue in this cycle
  | .issue _ => .next s

/-- The turn of a cycle in which no core can issue: what is due, the agenda's next, or device and time by turns (log
entry 1). -/
def turnOf (s : State) : Host.Outcome State Fault Refusal :=
  match (if s.stopped then none else overdue s), s.agenda with
  | some x, _ => takeTurn s x
  | none, x :: rest => takeTurn { s with agenda := rest } x
  | none, [] =>
    match s.devTurn, nextTurn s with
    | true, some x => takeTurn { s with devTurn := false, turnNo := s.turnNo + 1 } x
    | _, _ => .next (idle { s with devTurn := true })

/-- Core `c` issues, in its turn of the agenda if that names it. -/
def issueTurn (s : State) (c : Nat) : Host.Outcome State Fault Refusal :=
  match s.agenda with
  | .issue c' :: rest => if issues s c' then issueOn { s with agenda := rest } c' s.now else issueOn s c s.now
  | _ => issueOn s c s.now

/-- One step: the cores that can issue in this cycle do so one after another (R131, R133), in the order that the agenda names;
then come the other turns. -/
def step (s : State) : Host.Outcome State Fault Refusal :=
  match (if s.stopped then none else issuable s) with
  | some c => issueTurn s c
  | none => turnOf s

/-- The thread that fetches a placed word: the one in slot 0 of core 0, ready, or a fresh one at offset 0. -/
def placedThread (s : State) : Thread :=
  match s.threadIn 0 0 with
  | some t => { t with
      park := none, halted := false, stopping := false, spoiled := false, fetchBuf := none, hints := [], readyAt := 0
      owed := none, yieldTo := [], skipPhase := 7, pair := false, trail := ⟨[], 0, 0, 0⟩, pc := t.pc &&& ~~~3#19 }
  | none => { Thread.start s.nextUid with skipPhase := 7 }

/-- `s` with the instruction of these bits stored where the next step fetches it (log entry 4): core 0 issues next,
from slot 0, whose thread finds the word at its PC in local memory. -/
def State.withFetchWord (s : State) (_nbits w : Nat) : State :=
  let t := placedThread s
  let s1 := (s.write (Place.lm 0 t.pc.toNat) (wordBytes (BitVec.ofNat 32 w))).setSlot 0 0 (.busy t)
  let base := t.pc.toNat / 64
  { s1.modCore 0 (fun c => { c with lastSlot := 15, freeAt := 0 }) with
    agenda := [.issue 0], stopped := false, issueFrom := 0
    poisoned := s1.poisoned.filter fun u => decide (u ≠ base) }

end Sys2Proof.Machine
end

