-- ==== Sys2Proof/Safety.lean ====
section
/-!
DEFINITION. What counts as a safe run, and the terms in which claims about instructions are made: an instruction that a
thread can issue, operands it can read, a result it writes.
-/
namespace Sys2Proof

/-- A step that answers a next state. -/
def StepOk (s : Machine.State) : Prop := ∃ s', Machine.step s = .next s'

/-- A run of `n` steps that none of its steps stops. -/
def SafeFor : Nat → Machine.State → Prop
  | 0, _ => True
  | n + 1, s => ∃ s', Machine.step s = .next s' ∧ SafeFor n s'

/-- No run from `s` ever stops. -/
def Safe (s : Machine.State) : Prop := ∀ n, SafeFor n s

namespace Machine

/-- Thread `t` is the one whose turn it is in `s`, and instruction `i` passes its encoding checks there: no field holds
a reserved value (R304, R315), and the pending hints apply to it (R309). -/
structure Issuable (i : Instr) (s : State) (t : Thread) : Prop where
  resident : s.thread? = some t
  formed : i.wf = true
  hinted : hintsOk i t.hints = true

/-- The same of an instruction that the next word follows: it is not the word at 0x7_FFFC (R149). -/
structure Issues (i : Instr) (s : State) (t : Thread) : Prop extends Issuable i s t where
  notLast : t.atLastWord = false

/-- The g and v registers that an instruction reads are full (R318), none reads with bad parity (R260), and none of the g
registers is PIN (R141): they are read without taking a flit. -/
structure Readable (t : Thread) (gs : List (BitVec 5)) (vs : List Nat) : Prop where
  g : ∀ r ∈ gs, t.gIsFull r = true
  v : ∀ r ∈ vs, t.vIsFull r = true
  noPin : t.port.en = true → (28 : BitVec 5) ∉ gs
  gGood : ∀ r ∈ gs, t.gBad r = false
  vGood : ∀ r ∈ vs, t.vBad r = false

/-- Register `d` is not POUT (R141): a result written there stays in the thread. -/
abbrev Thread.keeps (t : Thread) (d : BitVec 5) : Prop := ¬(t.port.en = true ∧ d = 29)

/-- Thread `t` with result `w` in register `d` (R138, R319): g0 discards it, PIN as a destination too (R142). -/
def Thread.wrote (t : Thread) (d : BitVec 5) (w : Word) : Thread :=
  if t.port.en = true ∧ d = 28 then t else t.fillG d w

/-- The instruction of thread `t` ends with result `w` in register `d`, and nothing else of the state changes. -/
def completesWith (s : State) (t : Thread) (d : BitVec 5) (w : Word) : Host.Outcome State Fault Refusal :=
  .next (s.putThread (t.wrote d w).advance)

/-- Thread `t` at `pc`, its instruction done. -/
def Thread.movedTo (t : Thread) (pc : BitVec 19) : Thread :=
  { t with pc := pc, hints := [], taken := none, counted := none, atIssue := none }

/-- The slot number of the thread whose turn it is. -/
abbrev State.curSlot (s : State) : Nat := s.cur.1 * 16 + s.cur.2

end Machine
end Sys2Proof
end

