-- ==== Sys2Proof/Certificates/Slice0/Obligations.lean ====
section
/-!
DEFINITION. The statements for the provers: what the numbered rules say that instructions, events and the machine do, in
the terms of Sys2Proof/Safety.lean. Claims holds the tables of results that several statements share.
-/
open Sys2Proof Sys2Proof.Machine

/-! ### Encoding and the step -/

/-- Every well-formed word of the opcode map decodes back from its own encoding, with every operand (R303 to R316). -/
def Obligations.DecodeInvertsEncode : Prop :=
  ∀ i : Instr, i.isWord = true → i.wf = true → decodeWord (encode i) = .ok i

/-- A word that decodes is the encoding of what it decodes to, which is well formed: no bit of a word is ignored, and
a word with a reserved value or an unassigned code decodes to nothing (R8, R315, R316). -/
def Obligations.DecodedWordIsItsEncoding : Prop :=
  ∀ (w : BitVec 32) (i : Instr), decodeWord w = .ok i → encode i = w ∧ i.wf = true ∧ i.isWord = true

/-- Words written out from the encoding tables of spec/14 (R303 to R311) decode to the instructions they stand for: one
for each of ADD, MULHSZ, ADDI, BEQ, J, LDD, STW, BRADD, FMS, VLD, VFMUL, MMA, CPY, WPOP, SEND.r, SYSR, TRAP and HIMM;
the word 0 decodes to none. -/
def Obligations.SampleWordsDecode : Prop :=
  decodeWord 0b000001_00011_00001_00010_00000000000 = .ok (.add 3 1 2) ∧
  decodeWord 0b000010_11111_00100_00101_00000000111 = .ok (.mulhsz 31 4 5) ∧
  decodeWord 0b000011_00101_00110_1111111111111111 = .ok (.addi 5 6 0xFFFF) ∧
  decodeWord 0b001100_00001_00010_1111111111111100 = .ok (.beq 1 2 0xFFFC) ∧
  decodeWord 0b010010_00000000000000000000000011 = .ok (.j 3) ∧
  decodeWord 0b010101_00001_00010_0011_000000000101 = .ok (.ldd 1 2 5) ∧
  decodeWord 0b010110_00001_00010_0010_111111111111 = .ok (.stw 1 2 0xFFF) ∧
  decodeWord 0b011010_00000_00010_00011_00000_0011_01 = .ok (.bradd 2 3 3) ∧
  decodeWord 0b011101_00001_00010_00011_00100_111_0_01 = .ok (.fms 1 2 3 4 7 0) ∧
  decodeWord 0b011110_01111_00010_0010_000000000001 = .ok (.vld 15 2 2 1) ∧
  decodeWord 0b100010_0001_0010_0011_0000_00_10_000010 = .ok (.vfmul 1 2 3 0 2) ∧
  decodeWord 0b100111_010_00001_00010_0000_1_00_000000 = .ok (.mma 2 1 2 1) ∧
  decodeWord 0b101001_00000_00010_00011_0101_0_01_0000 = .ok (.cpy 0 2 3 5 1) ∧
  decodeWord 0b101011_00001_00010_00000_0000000_0001 = .ok (.wpop 1 2) ∧
  decodeWord 0b101101_00000_00010_00011_000000_1_0000 = .ok (.sendR 2 3) ∧
  decodeWord 0b101111_00001_00000_00010_001110_00000 = .ok (.sysr 1 2 14) ∧
  decodeWord 0b101111_000000000000101_00000000011 = .ok (.trap 5) ∧
  decodeWord 0b111111_00_000000000000000000000001 = .ok (.himm 1) ∧
  decodeWord 0b000000_00000_00000_00000_00000000000 = .error .unassigned

/-- How a turn of the thread `v` in slot `k`, begun in `b`, ends as `r` where it comes to `o`: in the same step, unless what comes
of it changes what another core issues from; then the thread waits until the issues of the cycle are over. -/
def Sys2Proof.Claims.EndsTurn (b : State) (k : Nat) (v : Thread) (r o : Host.Outcome State Fault Refusal) : Prop :=
  (∀ s1, o = .next s1 → agreeElsewhere (k / 16) b (settle s1) = true → r = .next (settle s1)) ∧
  (∀ s1, o = .next s1 → agreeElsewhere (k / 16) b (settle s1) = false → r = .next (parkIn b k v (.retry .issues))) ∧
  ((∀ s1, o ≠ .next s1) → r = o)

/-- The instruction whose turn comes is the one decoded from the word at the PC: while a core can issue no other turn comes
first, whatever the agenda holds (R131, R133, R140): the core that the agenda names next issues if it can, and else the first
that can. The step picks the thread as R131 says, fetches its word from its buffer, loaded from local memory where it does not
cover the PC (R149), and executes the instruction that the word decodes to, or the illegal-instruction word that takes the trap
where it decodes to none (R316), in the state in which the thread has begun to issue; what follows from it is settled in the same
step. One that would change what another core issues from in its cycle waits until the issues of the cycle are over (R140, R148,
R318), and is then executed, before anything else (log entry 1). Of a redundant pair (R262) the leading thread waits at the
comparator with a store, a publication or an engine command, and runs ahead of the trailing one with any other instruction. The
word is the four bytes of its core's local memory at the PC, the lowest-addressed first (R5, R6, R149), where the buffer does not
cover the PC. -/
def Obligations.StepExecutesDecodedWord : Prop :=
  (∀ (s s0 : State) (c c0 n : Nat) (t : Thread) (acc : State), s.stopped = false → issuable s = some c0 →
    ((∃ rest, s.agenda = .issue c :: rest ∧ issues s c = true ∧ s0 = { s with agenda := rest }) ∨
      (c = c0 ∧ s0 = s ∧ ∀ c' rest, s.agenda = .issue c' :: rest → issues s c' = false)) →
    pickSlot s0 c s.now (issueOrder (s.core c).lastSlot) s0 = (some (n, t), acc) →
    acc.threadIn c n = some t → n < 16 → t.spoiled = false → t.owed = none → fetchPoisoned acc c t = false →
    ∃ (b : State) (u v : Thread), b = beginIssue acc c n s.now t ∧ b.cur = (c, n) ∧ b.thread? = some u ∧
      v = fillBuffer b c u ∧
      (u.pair = false →
        (∀ i, decodeWord (fetchedWord v) = .ok i →
          Claims.EndsTurn b (c * 16 + n) v (step s) (exec i (b.putThread v))) ∧
        ∀ e, decodeWord (fetchedWord v) = .error e →
          Claims.EndsTurn b (c * 16 + n) v (step s) (exec (.illegalInstructionWord (fetchedWord v)) (b.putThread v))) ∧
      (u.pair = true → ∀ i, decodeWord (fetchedWord v) = .ok i →
        (comparesAt v i = true →
          Claims.EndsTurn b (c * 16 + n) v (step s) (.next (parkIn (b.putThread v) (c * 16 + n) v .compare))) ∧
        ∀ s1, comparesAt v i = false → exec i ((b.putThread v).putThread v.runAhead) = .next s1 →
          Claims.EndsTurn b (c * 16 + n) v (step s) (.next (noteTrail (b.putThread v) v i s1)))) ∧
  (∀ (s : State) (k : Nat) (t : Thread), s.stopped = false → issuable s = none →
    s.residents.find? (fun e => decide (e.2.park = some (.retry .issues))) = some (k, t) →
    NatMap.get s.slots k .empty = .busy t → t.spoiled = false → t.owed = none → t.pair = false →
    step s = settled (exec (issuedInstr (fetchedWord t))
      ({ s with issueFrom := s.now + 1, cur := (k / 16, k % 16) }.putSlot k { t with park := none }))) ∧
  ∀ (s : State) (c : Nat) (t : Thread), t.pc.toNat % 4 = 0 → t.fetchBuf = none →
    fetchedWord (fillBuffer s c t) =
      s.mem.byte (Place.lm c t.pc.toNat + 3) ++ s.mem.byte (Place.lm c t.pc.toNat + 2) ++
        s.mem.byte (Place.lm c t.pc.toNat + 1) ++ s.mem.byte (Place.lm c t.pc.toNat)

/-! ### Integer arithmetic -/

namespace Sys2Proof.Claims

/-- The immediate that is extended with its sign, 16 bits, or 40 under HIMM (R305). -/
def signedImm (t : Thread) (i : BitVec 16) : Word :=
  match t.himm with
  | some h => (h ++ i).signExtend 64
  | none => i.signExtend 64

/-- The immediate that is extended with zeros (R305). -/
def zeroImm (t : Thread) (i : BitVec 16) : Word :=
  match t.himm with
  | some h => (h ++ i).zeroExtend 64
  | none => i.zeroExtend 64

/-- 1 or 0. -/
def truth (p : Prop) [Decidable p] : Word := if p then 1 else 0

/-- The shift amount: b[5:0]. -/
def amount (b : Word) : Nat := b.toNat % 64

/-- What R323, R324 and R326 to R329 give an instruction of one cycle: its destination, its sources, its result. -/
def scalarResult (t : Thread) : Instr → Option (BitVec 5 × List (BitVec 5) × Word)
  | .add d a b => some (d, [a, b], t.gVal a + t.gVal b)
  | .sub d a b => some (d, [a, b], t.gVal a - t.gVal b)
  | .and d a b => some (d, [a, b], t.gVal a &&& t.gVal b)
  | .or d a b => some (d, [a, b], t.gVal a ||| t.gVal b)
  | .xor d a b => some (d, [a, b], t.gVal a ^^^ t.gVal b)
  | .andn d a b => some (d, [a, b], t.gVal a &&& ~~~t.gVal b)
  | .orn d a b => some (d, [a, b], t.gVal a ||| ~~~t.gVal b)
  | .shl d a b => some (d, [a, b], t.gVal a <<< amount (t.gVal b))
  | .shr d a b => some (d, [a, b], t.gVal a >>> amount (t.gVal b))
  | .sra d a b => some (d, [a, b], (t.gVal a).sshiftRight (amount (t.gVal b)))
  | .rol d a b => some (d, [a, b],
      t.gVal a <<< amount (t.gVal b) ||| t.gVal a >>> (64 - amount (t.gVal b)))
  | .slt d a b => some (d, [a, b], truth ((t.gVal a).toInt < (t.gVal b).toInt))
  | .sltu d a b => some (d, [a, b], truth ((t.gVal a).toNat < (t.gVal b).toNat))
  | .seq d a b => some (d, [a, b], truth (t.gVal a = t.gVal b))
  | .min d a b => some (d, [a, b], if (t.gVal a).toInt ≤ (t.gVal b).toInt then t.gVal a else t.gVal b)
  | .max d a b => some (d, [a, b], if (t.gVal b).toInt ≤ (t.gVal a).toInt then t.gVal a else t.gVal b)
  | .minz d a b => some (d, [a, b], if (t.gVal a).toNat ≤ (t.gVal b).toNat then t.gVal a else t.gVal b)
  | .maxz d a b => some (d, [a, b], if (t.gVal b).toNat ≤ (t.gVal a).toNat then t.gVal a else t.gVal b)
  | .clz d a => some (d, [a], BitVec.ofNat 64 (leadingZeros (t.gVal a)))
  | .ctz d a => some (d, [a], BitVec.ofNat 64 (trailingZeros (t.gVal a)))
  | .popc d a => some (d, [a], BitVec.ofNat 64 (onesCount (t.gVal a)))
  | .sext d a w => some (d, [a],
      if w = 0 then ((t.gVal a).setWidth 8).signExtend 64
      else if w = 1 then ((t.gVal a).setWidth 16).signExtend 64 else ((t.gVal a).setWidth 32).signExtend 64)
  | .zext d a w => some (d, [a],
      if w = 0 then ((t.gVal a).setWidth 8).zeroExtend 64
      else if w = 1 then ((t.gVal a).setWidth 16).zeroExtend 64 else ((t.gVal a).setWidth 32).zeroExtend 64)
  | .mul d a b => some (d, [a, b], t.gVal a * t.gVal b)
  | .mulh d a b => some (d, [a, b], ((t.gVal a).signExtend 128 * (t.gVal b).signExtend 128).extractLsb' 64 64)
  | .mulhz d a b => some (d, [a, b], ((t.gVal a).zeroExtend 128 * (t.gVal b).zeroExtend 128).extractLsb' 64 64)
  | .mulhsz d a b => some (d, [a, b], ((t.gVal a).signExtend 128 * (t.gVal b).zeroExtend 128).extractLsb' 64 64)
  | .addi d a i => some (d, [a], t.gVal a + signedImm t i)
  | .slti d a i => some (d, [a], truth ((t.gVal a).toInt < (signedImm t i).toInt))
  | .sltiu d a i => some (d, [a], truth ((t.gVal a).toNat < (signedImm t i).toNat))
  | .andi d a i => some (d, [a], t.gVal a &&& zeroImm t i)
  | .ori d a i => some (d, [a], t.gVal a ||| zeroImm t i)
  | .xori d a i => some (d, [a], t.gVal a ^^^ zeroImm t i)
  | .shli d a n => some (d, [a], t.gVal a <<< n.toNat)
  | .shri d a n => some (d, [a], t.gVal a >>> n.toNat)
  | .srai d a n => some (d, [a], (t.gVal a).sshiftRight n.toNat)
  | .roli d a n => some (d, [a], t.gVal a <<< n.toNat ||| t.gVal a >>> (64 - n.toNat))
  | .ldhi d i => some (d, [], zeroImm t i <<< 24)
  | .addpc d i => some (d, [], t.pc.zeroExtend 64 + signedImm t i)
  | _ => none

/-- What R325 gives an instruction of the divider. -/
def quotient (t : Thread) : Instr → Option (BitVec 5 × List (BitVec 5) × Word)
  | .div d a b => some (d, [a, b],
      if t.gVal b = 0 then (if 0 ≤ (t.gVal a).toInt then 0x7FFF_FFFF_FFFF_FFFF else 0x8000_0000_0000_0000)
      else if t.gVal a = 0x8000_0000_0000_0000 ∧ t.gVal b = BitVec.allOnes 64 then 0x7FFF_FFFF_FFFF_FFFF
      else (t.gVal a).sdiv (t.gVal b))
  | .divz d a b => some (d, [a, b],
      if t.gVal b = 0 then BitVec.allOnes 64 else (t.gVal a).udiv (t.gVal b))
  | .rem d a b => some (d, [a, b], if t.gVal b = 0 then t.gVal a else (t.gVal a).srem (t.gVal b))
  | .remz d a b => some (d, [a, b], if t.gVal b = 0 then t.gVal a else (t.gVal a).umod (t.gVal b))
  | _ => none

end Sys2Proof.Claims

/-- R322 to R324, R326 to R329: each instruction of INT, the multiplications, the immediate forms, the shifts by a
constant, LDHI and ADDPC completes with its result in its destination (g0 discards it, and so does PIN; POUT is
`PortRegistersComplete`), reads its sources before it writes, and changes nothing else: PC is at the next
word, the hints are spent. With a source that is empty such an instruction, or a division, changes nothing and parks until
it is full (R318); one that reads with bad parity is a detected error of its thread (R260). As the last word of local memory,
at 0x7_FFFC, it is an access fault at 0x8_0000 and writes nothing (R149). CLZ counts the zero bits above the highest one, CTZ those below the lowest one, 64 each of 0; POPC the
ones. -/
def Obligations.ScalarArithmeticCompletes : Prop :=
  (∀ (i : Instr) (s : State) (t : Thread) (d : BitVec 5) (gs : List (BitVec 5)) (w : Word),
    Claims.scalarResult t i = some (d, gs, w) → Issues i s t → Readable t gs [] → t.keeps d →
    exec i s = completesWith s t d w) ∧
  (∀ (i : Instr) (s : State) (t : Thread) (d : BitVec 5) (gs : List (BitVec 5)) (w : Word),
    (Claims.scalarResult t i = some (d, gs, w) ∨ Claims.quotient t i = some (d, gs, w)) → Issues i s t →
    (∃ r ∈ gs, t.gIsFull r = false) → exec i s = .next (parkIn s s.curSlot t (.retry (.register (gs.filter fun r => !t.gIsFull r) [])))) ∧
  (∀ (i : Instr) (s : State) (t : Thread) (d : BitVec 5) (gs : List (BitVec 5)) (w : Word),
    (Claims.scalarResult t i = some (d, gs, w) ∨ Claims.quotient t i = some (d, gs, w)) → Issues i s t →
    (∀ r ∈ gs, t.gIsFull r = true) → (∃ r ∈ gs, t.gBad r = true) → exec i s = .next (consumeError s s.curSlot t 0)) ∧
  (∀ (i : Instr) (s : State) (t : Thread) (d : BitVec 5) (gs : List (BitVec 5)) (w : Word),
    Claims.scalarResult t i = some (d, gs, w) → Issuable i s t → t.atLastWord = true → Readable t gs [] → t.keeps d →
    exec i s = .next (takeTrap s s.curSlot t 3 0x8_0000)) ∧
  ∀ x : Word,
    (x = 0 → leadingZeros x = 64 ∧ trailingZeros x = 64) ∧
    (x ≠ 0 → leadingZeros x < 64 ∧ x.getLsbD (63 - leadingZeros x) = true ∧
      (∀ j, 63 - leadingZeros x < j → x.getLsbD j = false) ∧
      trailingZeros x < 64 ∧ x.getLsbD (trailingZeros x) = true ∧ ∀ j < trailingZeros x, x.getLsbD j = false) ∧
    onesCount x = ((List.range 64).filter fun j => x.getLsbD j).length

/-- R142, R143, R318: outside a region, an instruction of that table one of whose sources is PIN takes the flit at the head of
its inbound queue, once however many of its fields name g28, reads it there, and completes; the room that it makes in
the queue goes to the thread upstream. With the queue empty the thread parks; a flit that it was given while it was
parked is the one it reads. R319: a result for POUT is appended to the inbound queue of the core downstream, where there
is room and no flit issued earlier waits for it, and is written to no register; where there is none the thread parks, and
the flit waits. -/
def Obligations.PortRegistersComplete : Prop :=
  (∀ (i : Instr) (s : State) (t : Thread) (d : BitVec 5) (gs : List (BitVec 5)) (w flit : Word) (rest : List Word),
    t.port.en = true → t.inRegion = false →
    Claims.scalarResult { t with taken := some (t.pinQueue, flit) } i = some (d, gs, w) → (28 : BitVec 5) ∈ gs →
    Issues i s t → (∀ r ∈ gs, t.gIsFull r = true) → (∀ r ∈ gs, t.gBad r = false) → t.keeps d →
    (t.taken = none → s.queue s.cur.1 t.pinQueue = flit :: rest →
      exec i s = completesWith ((s.setQueue s.cur.1 t.pinQueue rest).queueRoom s.cur.1 t.pinQueue)
        { t with taken := some (t.pinQueue, flit) } d w) ∧
    (t.taken = none → s.queue s.cur.1 t.pinQueue = [] →
      exec i s = .next (parkIn s s.curSlot t (.retry (.pinQueue t.pinQueue s.pushSeq)))) ∧
    (t.taken = some (t.pinQueue, flit) → exec i s = completesWith s t d w)) ∧
  ∀ (i : Instr) (s : State) (t : Thread) (gs : List (BitVec 5)) (w : Word),
    t.port.en = true → t.inRegion = false → Claims.scalarResult t i = some (29, gs, w) → Issues i s t → Readable t gs [] →
    (s.poutRoom (t.poutTarget s.cur.1).1 (t.poutTarget s.cur.1).2 = true →
      exec i s = .next ((s.pushFlit (t.poutTarget s.cur.1).1 (t.poutTarget s.cur.1).2 w).putThread t.advance)) ∧
    (s.poutRoom (t.poutTarget s.cur.1).1 (t.poutTarget s.cur.1).2 = false →
      exec i s = .next (parkIn s s.curSlot t
        (.pout (t.poutTarget s.cur.1).1 (t.poutTarget s.cur.1).2 w s.pushSeq (t.pc + 4))))

/-- R320, R325, R135, R207, R208: DIV, DIVZ, REM and REMZ park their thread with the result on its way. The result of a
division or square root fills the destination of the thread that parked for it, with its flags, and the thread goes on
at the next word; flags of which one is enabled trap instead, and nothing is written. -/
def Obligations.DivisionsParkAndFill : Prop :=
  (∀ (i : Instr) (s : State) (t : Thread) (d : BitVec 5) (gs : List (BitVec 5)) (w : Word),
    Claims.quotient t i = some (d, gs, w) → Issues i s t → Readable t gs [] →
    exec i s = .next (parkIn s s.curSlot t (.divide d w 0))) ∧
  ∀ (s : State) (core slot : Nat) (t : Thread) (d : BitVec 5) (f : FlagSet),
    slot < 16 → s.threadIn core slot = some t → t.closing = false →
    (∀ w, t.park = some (.divide d w f) → t.keeps d → f &&& t.enables = 0 →
      exec (.divideResultWritten core slot) s = .next
        ((s.putSlot (core * 16 + slot)
          (({ t with fpst := t.fpst ||| f.zeroExtend 14 } : Thread).wrote d w).advance).wake (core * 16 + slot))) ∧
    (∀ x, t.park = some (.vdivide d x f) → f &&& t.enables = 0 →
      exec (.divideResultWritten core slot) s = .next
        ((s.putSlot (core * 16 + slot)
          (({ t with fpst := t.fpst ||| f.zeroExtend 14 } : Thread).setV d.toNat x).advance).wake (core * 16 + slot))) ∧
    ((∃ w, t.park = some (.divide d w f)) ∨ (∃ x, t.park = some (.vdivide d x f)) → f &&& t.enables ≠ 0 →
      exec (.divideResultWritten core slot) s =
        .next (takeTrap s (core * 16 + slot) t 15 (f.zeroExtend 64)))

/-! ### Branches, jumps, hints and words without a meaning -/

namespace Sys2Proof.Claims

/-- A transfer of control (R330 to R332): the registers read, whether it is taken, its target, whether the target
comes from a register, and the register that gets the address of the next word. -/
structure Transfer where
  srcs : List (BitVec 5)
  taken : Bool
  target : Word
  register : Bool
  link : Option (BitVec 5)

/-- The target of a branch: PC plus four times the signed offset. -/
def branchTarget (t : Thread) (o : BitVec 16) : Word := t.pc.zeroExtend 64 + o.signExtend 64 * 4

/-- The target of J and JAL. -/
def jumpTarget (t : Thread) (o : BitVec 26) : Word := t.pc.zeroExtend 64 + o.signExtend 64 * 4

def transferOf (t : Thread) : Instr → Option Transfer
  | .beq a b o => some ⟨[a, b], decide (t.gVal a = t.gVal b), branchTarget t o, false, none⟩
  | .bne a b o => some ⟨[a, b], decide (t.gVal a ≠ t.gVal b), branchTarget t o, false, none⟩
  | .blt a b o => some ⟨[a, b], decide ((t.gVal a).toInt < (t.gVal b).toInt), branchTarget t o, false, none⟩
  | .bge a b o => some ⟨[a, b], decide ((t.gVal a).toInt ≥ (t.gVal b).toInt), branchTarget t o, false, none⟩
  | .bltu a b o => some ⟨[a, b], decide ((t.gVal a).toNat < (t.gVal b).toNat), branchTarget t o, false, none⟩
  | .bgeu a b o => some ⟨[a, b], decide ((t.gVal a).toNat ≥ (t.gVal b).toNat), branchTarget t o, false, none⟩
  | .j o => some ⟨[], true, jumpTarget t o, false, none⟩
  | .jal o => some ⟨[], true, jumpTarget t o, false, some 31⟩
  | .jr a => some ⟨[a], true, t.gVal a, true, none⟩
  | .jalr d a => some ⟨[a], true, t.gVal a, true, some d⟩
  | _ => none

/-- The thread with the address of the next word in its link register, if the transfer links. -/
def linked (t : Thread) (x : Transfer) : Thread :=
  match x.link with
  | none => t
  | some d => t.wrote d (t.pc.zeroExtend 64 + 4)

/-- The three hints: their kind and their data. -/
def hintOf : Instr → Option Hint
  | .himm d => some ⟨0, d⟩
  | .hmod d => some ⟨1, d⟩
  | .hmod2 d => some ⟨2, d⟩
  | _ => none

end Sys2Proof.Claims

/-- R330 to R333: a transfer that is taken moves PC to its target after the link register has got the address of the
next word, and a branch that is not taken goes on there; a target from a register that is no multiple of 4 is an
alignment fault, one outside local memory an access fault, with the target in TRAPV, before anything is written. -/
def Obligations.TransfersOfControl : Prop :=
  ∀ (i : Instr) (s : State) (t : Thread) (x : Claims.Transfer),
    Claims.transferOf t i = some x → Issuable i s t → Readable t x.srcs [] → (∀ d, x.link = some d → t.keeps d) →
    (x.taken = true → (x.register = true → x.target.toNat % 4 = 0) → x.target.toNat < 0x8_0000 →
      exec i s = .next (s.putThread ((Claims.linked t x).movedTo (x.target.setWidth 19)))) ∧
    (x.taken = false → t.atLastWord = false → exec i s = .next (s.putThread t.advance)) ∧
    (x.taken = true → x.register = true → x.target.toNat % 4 ≠ 0 → exec i s = .next (takeTrap s s.curSlot t 2 x.target)) ∧
    (x.taken = true → (x.register = true → x.target.toNat % 4 = 0) → 0x8_0000 ≤ x.target.toNat →
      exec i s = .next (takeTrap s s.curSlot t 3 x.target))

/-- R309: a hint joins the pending ones and PC moves on; a third hint in a row is an illegal instruction, with its word in
TRAPV. The last clause is the model's choice (log entry 30): a hint at 0x7_FFFC, whose instruction would lie at 0x8_0000, is
the access fault that R149 gives an instruction there. -/
def Obligations.HintsWaitForTheirInstruction : Prop :=
  ∀ (i : Instr) (s : State) (t : Thread) (h : Hint), Claims.hintOf i = some h → s.thread? = some t →
    (t.hints.length < 2 → t.atLastWord = false →
      exec i s = .next (s.putThread { t with hints := t.hints ++ [h], pc := t.pc + 4 })) ∧
    (2 ≤ t.hints.length → exec i s = .next (takeTrap s s.curSlot t 1 ((encode i).zeroExtend 64))) ∧
    (t.hints.length < 2 → t.atLastWord = true → exec i s = .next (takeTrap s s.curSlot t 3 0x8_0000))

/-- R304, R309, R315 to R317, R250: a word that decodes to no instruction, and any instruction other than a hint one of
whose fields holds a reserved value, or to which a pending hint does not apply, does nothing but take the
illegal-instruction trap, with its word in TRAPV. -/
def Obligations.IllegalEncodingsTrap : Prop :=
  (∀ (w : BitVec 32) (s : State) (t : Thread), s.thread? = some t →
    exec (.illegalInstructionWord w) s = .next (takeTrap s s.curSlot t 1 (w.zeroExtend 64))) ∧
  ∀ (i : Instr) (s : State) (t : Thread), i.isWord = true → Claims.hintOf i = none → s.thread? = some t →
    (i.wf && hintsOk i t.hints) = false →
    exec i s = .next (takeTrap s s.curSlot t 1 ((encode i).zeroExtend 64))

/-! ### Memory -/

namespace Sys2Proof.Claims

/-- Base plus displacement (R305): the offset scaled by the access size, or in bytes under HIMM. -/
def scaled (t : Thread) (b : BitVec 5) (o : BitVec 12) (size : Nat) : Word :=
  t.gVal b + match t.himm with
    | some h => (h ++ o).signExtend 64
    | none => o.signExtend 64 * BitVec.ofNat 64 size

/-- The same of the synchronising forms, whose accesses have 8 bytes. -/
def scaledSync (t : Thread) (b : BitVec 5) (o : BitVec 8) : Word :=
  t.gVal b + match t.himm with
    | some h => (h ++ o).signExtend 64
    | none => o.signExtend 64 * 8

/-- A scalar access (R344, R345): the g registers read, its address, its bytes, its scope if it has one. -/
structure Access where
  srcs : List (BitVec 5)
  va : Word
  size : Nat
  scope : Option (BitVec 4)

/-- Loads: the access, the destination, whether the value is extended with its sign. -/
def loadOf (t : Thread) : Instr → Option (Access × BitVec 5 × Bool)
  | .ldb d b o => some (⟨[b], scaled t b o 1, 1, t.hmodScope⟩, d, true)
  | .ldh d b o => some (⟨[b], scaled t b o 2, 2, t.hmodScope⟩, d, true)
  | .ldw d b o => some (⟨[b], scaled t b o 4, 4, t.hmodScope⟩, d, true)
  | .ldd d b o => some (⟨[b], scaled t b o 8, 8, t.hmodScope⟩, d, false)
  | .ldbz d b o => some (⟨[b], scaled t b o 1, 1, t.hmodScope⟩, d, false)
  | .ldhz d b o => some (⟨[b], scaled t b o 2, 2, t.hmodScope⟩, d, false)
  | .ldwz d b o => some (⟨[b], scaled t b o 4, 4, t.hmodScope⟩, d, false)
  | .lda d b c o => some (⟨[b], scaledSync t b o, 8, some c⟩, d, false)
  | _ => none

/-- Stores: the access and the register stored. -/
def storeOf (t : Thread) : Instr → Option (Access × BitVec 5)
  | .stb r b o => some (⟨[b, r], scaled t b o 1, 1, t.hmodScope⟩, r)
  | .sth r b o => some (⟨[b, r], scaled t b o 2, 2, t.hmodScope⟩, r)
  | .stw r b o => some (⟨[b, r], scaled t b o 4, 4, t.hmodScope⟩, r)
  | .std r b o => some (⟨[b, r], scaled t b o 8, 8, t.hmodScope⟩, r)
  | .stl r b c o => some (⟨[b, r], scaledSync t b o, 8, some c⟩, r)
  | _ => none

/-- The value of the bytes of a load (R5, R345). -/
def loaded (signed : Bool) (bytes : List Byte) : Word :=
  if signed then (BitVec.ofNat (8 * bytes.length) (ofBytes bytes)).signExtend 64 else BitVec.ofNat 64 (ofBytes bytes)

/-- The operation of a load at its home. -/
def loadReq (x : Access × BitVec 5 × Bool) (loc : Nat) : Req :=
  ⟨.load x.2.1 x.2.2, [⟨x.1.va, loc, x.1.size, [], 0⟩], x.1.scope⟩

/-- The operation of a store at its home. -/
def storeReq (t : Thread) (x : Access × BitVec 5) (loc : Nat) : Req :=
  ⟨.store, [⟨x.1.va, loc, x.1.size, toBytes x.1.size (t.gVal x.2).toNat, 0⟩], x.1.scope⟩

/-- The access names its core's own local memory, at offset `off` (R147, R156), aligned, at a scope no wider than the
core, which lies on a module of the pod. -/
structure InOwnMemory (s : State) (x : Access) (off : Nat) : Prop where
  target : targetOf s.cur.1 s.pod x.va = some (.localMem s.cur.1 off true)
  aligned : x.va.toNat % x.size = 0
  near : ∀ c, x.scope = some c → c.toNat ≤ 1
  module : s.cur.1 < 8192 ∧ s.inPod (s.cur.1 / 1024) = true

/-- The access names a page whose translation is cached and grants it (R163, R168). -/
structure InPage (s : State) (t : Thread) (x : Access) (write : Bool) (tr : Trans) : Prop where
  target : targetOf s.cur.1 s.pod x.va = some .paged
  aligned : x.va.toNat % x.size = 0
  cached : cachedTrans s s.cur.1 t.asid x.va write = some tr
  granted : (Need.mk (!write) write t.sv).granted tr.leaf = true
  place : Pte.frame tr.leaf + (x.va.toNat % 2 ^ 52 - tr.base) < 2 ^ 50

/-- The state in which the home performs an access of a thread: it is served, its transfers are counted (R58, R238), and its
packets are spent (R21). -/
abbrev atHome (s : State) (t : Thread) (r : Req) : State :=
  (countRequest { s.arrive t r with
    arrived := (s.arrive t r).arrived.filter fun x => decide (x ≠ (t.uid, t.issued)) } r).unload t.uid

/-- No thread waits at its home on a word that the stretch touches. -/
abbrev Unwatched (s : State) (p n : Nat) : Prop := waitedWords s p n = []

end Sys2Proof.Claims

/-- R155, R156, R147: what an address names for a thread on core `c`: nothing where its upper bits are no sign extension,
its own local memory below 0x8_0000, nothing from there to 0x100_0000_0000, a page from 0x2000_0000_0000 on. R339, R250: a
scalar load or store whose address names nothing is an access fault, and one that is not a multiple of its size an alignment
fault, with the address in TRAPV; nothing is read or written. -/
def Obligations.AddressesNameTheirRegions : Prop :=
  (∀ (c : Nat) (pod : List Nat) (va : Word),
    (isCanonical va = false → targetOf c pod va = none) ∧
    (va.toNat < 0x8_0000 → targetOf c pod va = some (.localMem c va.toNat true)) ∧
    (0x8_0000 ≤ va.toNat → va.toNat < 0x100_0000_0000 → targetOf c pod va = none) ∧
    (isCanonical va = true → 0x2000_0000_0000 ≤ va.toNat → targetOf c pod va = some .paged)) ∧
  ∀ (i : Instr) (s : State) (t : Thread) (a : Claims.Access),
    ((∃ d g, Claims.loadOf t i = some (a, d, g)) ∨ ∃ r, Claims.storeOf t i = some (a, r)) →
    Issuable i s t → Readable t a.srcs [] →
    (targetOf s.cur.1 s.pod a.va = none → exec i s = .next (takeTrap s s.curSlot t 3 a.va)) ∧
    (targetOf s.cur.1 s.pod a.va ≠ none → a.va.toNat % a.size ≠ 0 → exec i s = .next (takeTrap s s.curSlot t 2 a.va))

/-- R344, R345, R346, R227: a load from the own local memory completes at once with the bytes it names, little-endian, extended
as its mnemonic says, after its thread's earlier stores to them; it writes nothing but its destination. Its own view of those
bytes is memory's where it has no store deferred and has read none of them before (R224, R225, R276). -/
def Obligations.LocalLoadsComplete : Prop :=
  ∀ (i : Instr) (s s1 : State) (t : Thread) (x : Claims.Access × BitVec 5 × Bool) (off : Nat),
    Claims.loadOf t i = some x → Issues i s t → Readable t x.1.srcs [] → Claims.InOwnMemory s x.1 off →
    s1 = s.drainTo t.uid [(Place.lm s.cur.1 off, x.1.size)] →
    s1.poisonIn (Place.lm s.cur.1 off) x.1.size = false → t.keeps x.2.1 →
    exec i s = completesWith s1 t x.2.1 (Claims.loaded x.2.2 (ownView s1 t (Place.lm s.cur.1 off) x.1.size)) ∧
    (s.pendingOf t.uid = [] → s1 = s) ∧
    ((∀ y ∈ s1.seen, y.1 ≠ t.uid) → t.undo = [] → ownView s1 t (Place.lm s.cur.1 off) x.1.size =
      (List.range x.1.size).map fun j => s1.mem.byte (Place.lm s.cur.1 off + j))

/-- R344, R345, R347, R227, R228, R252: outside a region, and in a handler, a store to the own local memory is performed at
once, the lowest byte of its register first, a releasing one after all of its thread's earlier stores: it waits while one of
these is to follow another thread's request at its home (R238); a handler's takes effect in what its thread's open regions hold
of the place. -/
def Obligations.LocalStoresComplete : Prop :=
  ∀ (i : Instr) (s s0 s1 : State) (t : Thread) (x : Claims.Access × BitVec 5) (off : Nat),
    Claims.storeOf t i = some x → Issues i s t → Readable t x.1.srcs [] → Claims.InOwnMemory s x.1 off →
    t.inRegion = false → s0 = (if x.1.scope = none then s else s.drainOf t.uid) → s0.coreOf t.uid = s.cur.1 →
    s1 = s0.store (Place.lm s.cur.1 off) (toBytes x.1.size (t.gVal x.2).toNat) →
    ((x.1.scope = none ∨ s.blocked t.uid = false) →
      exec i s = .next (s1.putThread (afterReq s1 t (Claims.storeReq t x (Place.lm s.cur.1 off))).advance)) ∧
    (x.1.scope ≠ none → s.blocked t.uid = true → exec i s = .next (parkIn s s.curSlot t (.retry .stores))) ∧
    (t.levels = [] → afterReq s1 t (Claims.storeReq t x (Place.lm s.cur.1 off)) = t)

/-- The frame of a store that is performed: its bytes hold what it stores, every other byte of memory is as before, and so
is everything else of the state but the poison of lines that it covers whole, where no thread waits on a word of it
(R236, R341). -/
def Obligations.StoreChangesItsBytesOnly : Prop :=
  ∀ (s : State) (p : Nat) (data : List Byte), Claims.Unwatched s p data.length →
    (∀ j < data.length, (s.store p data).mem.byte (p + j) = data.getD j 0) ∧
    (∀ a, a < p ∨ p + data.length ≤ a → (s.store p data).mem.byte a = s.mem.byte a) ∧
    (∀ u, u ∈ (s.store p data).poisoned ↔ u ∈ s.poisoned ∧ ¬(p ≤ 64 * u ∧ 64 * u + 64 ≤ p + data.length)) ∧
    (s.store p data) = { s with mem := (s.store p data).mem, poisoned := (s.store p data).poisoned }

/-- R134, R135, R168, R227: outside a region a scalar load or store through a cached translation that grants it leaves the core
and its thread parks; without a translation the thread parks for a walk; one that the page does not grant is an access
fault. -/
def Obligations.PagedAccessesLeaveTheCore : Prop :=
  ∀ (i : Instr) (s : State) (t : Thread) (a : Claims.Access) (write : Bool) (r : Nat → Req),
    ((∃ d g, Claims.loadOf t i = some (a, d, g) ∧ write = false ∧ r = Claims.loadReq (a, d, g)) ∨
      ∃ v, Claims.storeOf t i = some (a, v) ∧ write = true ∧ t.inRegion = false ∧ r = Claims.storeReq t (a, v)) →
    Issues i s t → Readable t a.srcs [] →
    (∀ tr, Claims.InPage s t a write tr → exec i s = .next (parkIn s s.curSlot t (.access (r (tr.place a.va))))) ∧
    (targetOf s.cur.1 s.pod a.va = some .paged → a.va.toNat % a.size = 0 →
      (cachedTrans s s.cur.1 t.asid a.va write = none →
        exec i s = .next (parkIn s s.curSlot t (.walk a.va (!write) write))) ∧
      ∀ tr, cachedTrans s s.cur.1 t.asid a.va write = some tr → (Need.mk (!write) write t.sv).granted tr.leaf = false →
        exec i s = .next (takeTrap s s.curSlot t 3 a.va))

/-- R135, R345, R227, R238, R58, R59: when its home performs a load that has left its core, once it has been delivered (R24)
and no request that reached the home before it to its location waits, the bytes there fill the destination and the thread
goes on at the next word; a plain store outside the own local memory is accepted in the 8-byte units in which it is later performed
(R225), and its thread goes on (a request that releases earlier stores is performed once they can be: R28, R228); an access that
meets poison, or of which a transfer was delivered poisoned, is a detected
error of its thread (R260). What has only to come back to its thread completes with the result that it brings. -/
def Obligations.AccessCompletionPerformsTheAccess : Prop :=
  (∀ (s s0 s1 : State) (core slot : Nat) (t : Thread) (r : Req) (p : Part),
    slot < 16 → s.threadIn core slot = some t → t.park = some (.access r) → r.parts = [p] →
    s0 = Claims.atHome s t r → s1 = s0.drainTo t.uid [(p.loc, p.len)] →
    reachable s0 p.loc = true → t.closing = false →
    (deliveredTo s core t r = false → exec (.accessCompletion core slot) s = .next s) ∧
    (r.releases = true → s.blocked t.uid = true → exec (.accessCompletion core slot) s = .next s) ∧
    (deliveredTo s core t r = true → (r.releases && s.blocked t.uid) = false → (s.arrive t r).behind t r = true →
      exec (.accessCompletion core slot) s = .next (s.arrive t r)) ∧
    (deliveredTo s core t r = true → (r.releases && s.blocked t.uid) = false → (s.arrive t r).behind t r = false →
      (∀ d signed, r.op = .load d signed → badPart s0 t r = none → s1.poisonIn p.loc p.len = false → t.keeps d →
        p.len ≤ 8 → 0 < p.len →
        exec (.accessCompletion core slot) s = .next ((s1.putSlot (core * 16 + slot)
          (t.wrote d (Claims.loaded signed (ownView s1 t p.loc p.len))).advance).wake (core * 16 + slot))) ∧
      (r.op = .store → r.scope = none → t.levels = [] → p.data ≠ [] → Place.ownOf (s0.coreOf t.uid) p.loc = false →
        exec (.accessCompletion core slot) s =
          .next ((({ s0 with stores := s0.stores ++ storeUnits t.uid (s0.coreOf t.uid) s0.now p } : State).putSlot
            (core * 16 + slot) t.advance).wake (core * 16 + slot))) ∧
      (∀ d signed, r.op = .load d signed → badPart s0 t r = none → s1.poisonIn p.loc p.len = true →
        exec (.accessCompletion core slot) s = .next (consumeError s0 (core * 16 + slot) t p.va)) ∧
      ∀ va, badPart s0 t r = some va →
        exec (.accessCompletion core slot) s = .next (consumeError s0 (core * 16 + slot) t va))) ∧
  ∀ (s : State) (core slot : Nat) (t : Thread), slot < 16 → s.threadIn core slot = some t → t.closing = false →
    (t.park = some (.ending none) → exec (.accessCompletion core slot) s =
      .next ((s.putSlot (core * 16 + slot) t.advance).wake (core * 16 + slot))) ∧
    ∀ d w, t.park = some (.ending (some (d, w))) → t.keeps d → exec (.accessCompletion core slot) s =
      .next ((s.putSlot (core * 16 + slot) (t.wrote d w).advance).wake (core * 16 + slot))

/-! ### Full bits, atomics, fences, waits, bank reduction slots -/

namespace Sys2Proof.Claims

/-- A synchronising access that works on a full bit (R235, R346): the access, its operation, the bytes it writes. -/
def fullBitOf (t : Thread) : Instr → Option (Access × MemOp × List Byte)
  | .ldc d b c o => some (⟨[b], scaledSync t b o, 8, some c⟩, .ldc d, [])
  | .ldo d b c o => some (⟨[b], scaledSync t b o, 8, some c⟩, .ldo d, [])
  | .stp r b c o => some (⟨[b, r], scaledSync t b o, 8, some c⟩, .stp, toBytes 8 (t.gVal r).toNat)
  | .stf r b c o => some (⟨[b, r], scaledSync t b o, 8, some c⟩, .stf, toBytes 8 (t.gVal r).toNat)
  | .empty b o => some (⟨[b], scaledSync t b o, 8, none⟩, .empty, [])
  | _ => none

/-- The address names place `p` for a thread: in its core's own local memory (R147, R156), or in a page whose cached
translation grants it (R163, R168); it is a multiple of `size`. -/
def Reaches (s : State) (t : Thread) (rd wr : Bool) (va : Word) (size p : Nat) : Prop :=
  va.toNat % size = 0 ∧
    ((∃ off, targetOf s.cur.1 s.pod va = some (.localMem s.cur.1 off true) ∧ p = Place.lm s.cur.1 off ∧
        s.cur.1 < 8192 ∧ s.inPod (s.cur.1 / 1024) = true) ∨
      ∃ tr, targetOf s.cur.1 s.pod va = some .paged ∧ cachedTrans s s.cur.1 t.asid va wr = some tr ∧
        (Need.mk rd wr t.sv).granted tr.leaf = true ∧ p = tr.place va ∧
        Pte.frame tr.leaf + (va.toNat % 2 ^ 52 - tr.base) < 2 ^ 50)

/-- An integer atomic (R352, R354): the g registers read, its address, destination, operand, expected value, size code. -/
structure Atomic where
  srcs : List (BitVec 5)
  va : Word
  d : BitVec 5
  operand : Word
  expected : Word
  size : BitVec 2

def atomicOf (t : Thread) : Instr → Option Atomic
  | .aadd d a b _ z | .aand d a b _ z | .aor d a b _ z | .axor d a b _ z | .amin d a b _ z | .amax d a b _ z
  | .aminz d a b _ z | .amaxz d a b _ z | .aswap d a b _ z => some ⟨[a, b], t.gVal a, d, t.gVal b, 0, z⟩
  | .acas d a b _ z => some ⟨[a, b, t.expectedReg], t.gVal a, d, t.gVal b, t.gVal t.expectedReg, z⟩
  | _ => none

/-- The integer of a `w`-bit operand in two's complement. -/
def signedAt (w x : Nat) : Int := (BitVec.ofNat w x).toInt

/-- The new value of an atomic of `w` bits (R352, R353); none where ACAS fails. -/
def newValue (w old b expected : Nat) : Instr → Option Nat
  | .aadd .. => some ((old + b) % 2 ^ w)
  | .aand .. => some (old &&& b)
  | .aor .. => some (old ||| b)
  | .axor .. => some (old ^^^ b)
  | .amin .. => some (if signedAt w old ≤ signedAt w b then old else b)
  | .amax .. => some (if signedAt w b ≤ signedAt w old then old else b)
  | .aminz .. => some (if old ≤ b then old else b)
  | .amaxz .. => some (if b ≤ old then old else b)
  | .aswap .. => some b
  | .acas .. => if old = expected then some b else none
  | _ => none

/-- A finite contribution in units of 2^-149 (R216). -/
def units : Exact → Int
  | .fin n m e => (if n then -1 else 1) * (m * 2 ^ (e + 149).toNat : Nat)
  | _ => 0

/-- What a slot holds after these contributions, whatever their order (R216): none in the states NaN and overflow; a sum of
zero has the sign of its terms where they are zeros of one sign (R203). -/
def slotValue (l : List Exact) : Option Exact :=
  let total := (l.map units).sum
  if Exact.nan ∈ l ∨ (Exact.inf true ∈ l ∧ Exact.inf false ∈ l) then none
  else if Exact.inf false ∈ l then some (.inf false)
  else if Exact.inf true ∈ l then some (.inf true)
  else if total < -(2 ^ 319) ∨ 2 ^ 319 ≤ total then none
  else if total = 0 then
    some (.zero (if ∀ x ∈ l, x = .zero .pos then .pos else if ∀ x ∈ l, x = .zero .neg then .neg else .byMode))
  else some (.fin (decide (total < 0)) total.natAbs (-149))

/-- The thread of a slot, with no region open, is parked on an access (R135) that has been delivered (R24), whose
earlier stores can be performed where it releases them (R28), and that is the next at its home (R238), there where something answers, none of its transfers delivered poisoned (R59). -/
structure Parked (s : State) (core slot : Nat) (t : Thread) (r : Req) : Prop where
  within : slot < 16
  resident : s.threadIn core slot = some t
  parked : t.park = some (.access r)
  delivered : deliveredTo s core t r = true
  unblocked : (r.releases && s.blocked t.uid) = false
  first : (s.arrive t r).behind t r = false
  answers : ∀ p ∈ r.parts, reachable (atHome s t r) p.loc = true
  good : badPart (atHome s t r) t r = none
  outside : t.levels = []
  notClosing : t.closing = false

/-- The thread of a slot goes on at its next word, with result `w` in register `d`. -/
def resumesWith (s : State) (core slot : Nat) (t : Thread) (d : BitVec 5) (w : Word) : Host.Outcome State Fault Refusal :=
  .next ((s.putSlot (core * 16 + slot) (t.wrote d w).advance).wake (core * 16 + slot))

/-- The thread of a slot goes on at its next word. -/
def resumes (s : State) (core slot : Nat) (t : Thread) : Host.Outcome State Fault Refusal :=
  .next ((s.putSlot (core * 16 + slot) t.advance).wake (core * 16 + slot))

end Sys2Proof.Claims

/-- R235, R236, R228, R346, R347: full bits in the own local memory, outside a region. Each of the five releases first: its
thread's earlier stores are performed. LDO reads a full word and leaves it full, LDC reads it and leaves it empty, STP
writes an empty word and leaves it full, STF writes and fills whatever it finds, EMPTY empties; what waited on the word is
served, and in a handler the open regions of the thread take note (R252). An LDO or LDC of an empty word and an STP of a full one
wait at the word, and change nothing there. Each waits at its thread while one of the stores that it releases is to follow another
thread's request at its home (R238). -/
def Obligations.FullBitsSynchronise : Prop :=
  ∀ (i : Instr) (s s1 : State) (t : Thread) (x : Claims.Access) (op : MemOp) (data : List Byte) (off p : Nat) (r : Req),
    Claims.fullBitOf t i = some (x, op, data) → Issues i s t → Readable t x.srcs [] → Claims.InOwnMemory s x off →
    t.inRegion = false → s1 = s.drainOf t.uid → p = Place.lm s.cur.1 off → r = ⟨op, [⟨x.va, p, 8, data, 0⟩], x.scope⟩ →
    (s.blocked t.uid = true → exec i s = .next (parkIn s s.curSlot t (.retry .stores))) ∧
    (t.levels = [] → ∀ s2, afterReq s2 t r = t) ∧
    (s.blocked t.uid = false →
    (∀ d, op = .ldo d → t.keeps d → s1.full p = true → s1.poisonIn p 8 = false →
      exec i s = completesWith s1 t d (wordOf (ownView s1 t p 8))) ∧
    (∀ d s2, op = .ldc d → t.keeps d → s1.full p = true → s1.poisonIn p 8 = false → s2 = serve (s1.setFull p false) p →
      exec i s = completesWith s2 (afterReq s2 t r) d (wordOf (ownView s1 t p 8))) ∧
    (∀ s2, (op = .stp ∧ s1.full p = false) ∨ op = .stf → s2 = serve ((s1.write p data).setFull p true) p →
      exec i s = .next (s2.putThread (afterReq s2 t r).advance)) ∧
    (∀ s2, op = .empty → s2 = serve (s1.setFull p false) p → exec i s = .next (s2.putThread (afterReq s2 t r).advance)) ∧
    (((∃ d, op = .ldo d ∨ op = .ldc d) ∧ (s1.full p || stfPending t p) = false) ∨ (op = .stp ∧ s1.full p = true) →
      exec i s = .next (parkIn s1 s.curSlot t (.home r s.pushSeq))))

/-- R239, R352 to R354, R338: an integer atomic (of a thread outside a region, or with d = 0 refused there only as a
publication) parks its thread, even for its own local memory; at the home, in one step, its thread's earlier stores are
performed, the old value is read and the new one written (none by an ACAS that fails), and the old value, extended with zeros,
fills the destination. -/
def Obligations.AtomicsReadAndWriteInOneStep : Prop :=
  ∀ (i : Instr) (s : State) (t : Thread) (x : Claims.Atomic) (p n : Nat),
    Claims.atomicOf t i = some x → Issues i s t → Readable t x.srcs [] → t.inRegion = false →
    n = (if x.size = 2 then 4 else 8) → Claims.Reaches s t true true x.va n p →
    ∃ r : Req, exec i s = .next (parkIn s s.curSlot t (.access r)) ∧
      ∀ (s' s1 : State) (core slot old : Nat) (t' : Thread), Claims.Parked s' core slot t' r →
        s1 = (Claims.atHome s' t' r).drainOf t'.uid → t'.keeps x.d → s1.poisonIn p n = false → old = ofBytes (s1.bytes p n) →
        exec (.accessCompletion core slot) s' = Claims.resumesWith
          (match Claims.newValue (8 * n) old (x.operand.toNat % 2 ^ (8 * n)) (x.expected.toNat % 2 ^ (8 * n)) i with
            | some new => s1.store p (toBytes n new)
            | none => s1)
          core slot t' x.d (BitVec.ofNat 64 old)

/-- R355, R340: AFADDV outside a region parks its thread; at the home, in one step, each lane of the line becomes the sum of the
line's lane and the register's, rounded once by the mode read at issue; a flag among those enabled at issue leaves the
line unwritten. -/
def Obligations.AfaddvAddsALineInOneStep : Prop :=
  ∀ (a b : BitVec 5) (c : BitVec 4) (z : BitVec 2) (s : State) (t : Thread) (p : Nat),
    Issues (.afaddv a b c z) s t → Readable t [a] [b.toNat] → t.inRegion = false →
    Claims.Reaches s t true true (t.gVal a) 64 p → Place.tier p ≠ .cxl →
    ∃ r : Req, exec (.afaddv a b c z) s = .next (parkIn s s.curSlot t (.access r)) ∧
      ∀ (s' s1 : State) (core slot : Nat) (t' : Thread) (sums : List (Nat × FlagSet)), Claims.Parked s' core slot t' r →
        s1 = (Claims.atHome s' t' r).drainOf t'.uid → s1.poisonIn p 64 = false → t'.enables = t.enables →
        sums = (List.range (if z = 3 then 8 else 16)).map (fun j =>
          let w := if z = 3 then 64 else 32
          let f := if z = 3 then 1 else 2
          roundTo f (Mode.ofCode (modeCode t)) ((decodeFloat (floatFmt f) (lane (ofVBytes (s1.bytes p 64)) w j)).add
            (decodeFloat (floatFmt f) (lane (t.vVal b.toNat) w j)))) →
        (flagsOf sums &&& t.enables = 0 → exec (.accessCompletion core slot) s' = Claims.resumes
          (s1.store p (vBytes (ofLanes (if z = 3 then 64 else 32) (sums.map (·.1))))) core slot
          { t' with fpst := t'.fpst ||| (flagsOf sums).zeroExtend 14 }) ∧
        (flagsOf sums &&& t.enables ≠ 0 → exec (.accessCompletion core slot) s' =
          .next (takeTrap s1 (core * 16 + slot) t' 15 ((flagsOf sums).zeroExtend 64)))

/-- R228, R232, R233, R349, R350, R241, R351: a FENCE of scope .th or .co performs the thread's earlier stores and goes on;
one of wider scope parks until they have been performed; while one of them is to follow another thread's request at its home
(R238) FENCE and WAITA wait. SYNCI empties the thread's fetch buffer. WAITA of a word of the
own local memory returns it where it differs from the expected value, and waits at the word where it does not. -/
def Obligations.FencesAndWaitsComplete : Prop :=
  ∀ (s : State) (t : Thread),
    (∀ c, Issues (.fence c) s t → c.toNat ≤ 1 →
      (s.blocked t.uid = false → exec (.fence c) s = .next ((s.drainOf t.uid).putThread t.advance)) ∧
      (s.blocked t.uid = true → exec (.fence c) s = .next (parkIn s s.curSlot t (.retry .stores)))) ∧
    (∀ c, Issues (.fence c) s t → 1 < c.toNat →
      exec (.fence c) s = .next (parkIn s s.curSlot t (.access ⟨.fence, [], some c⟩))) ∧
    (∀ core slot r, Claims.Parked s core slot t r → r.op = .fence → r.parts = [] →
      exec (.accessCompletion core slot) s = Claims.resumes ((Claims.atHome s t r).drainOf t.uid) core slot t) ∧
    (Issues .synci s t → exec .synci s = .next (s.putThread { t with fetchBuf := none }.advance)) ∧
    ∀ (d a b : BitVec 5) (c : BitVec 4) (off p : Nat) (s1 : State), Issues (.waita d a b c) s t → Readable t [a, b] [] →
      Claims.InOwnMemory s ⟨[a, b], t.gVal a, 8, some c⟩ off → t.inRegion = false → s1 = s.drainOf t.uid →
      p = Place.lm s.cur.1 off → s1.poisonIn p 8 = false →
      (s.blocked t.uid = true → exec (.waita d a b c) s = .next (parkIn s s.curSlot t (.retry .stores))) ∧
      (s.blocked t.uid = false → wordOf (ownView s1 t p 8) ≠ t.gVal b → t.keeps d →
        exec (.waita d a b c) s = completesWith s1 t d (wordOf (ownView s1 t p 8))) ∧
      (s.blocked t.uid = false → wordOf (ownView s1 t p 8) = t.gVal b → exec (.waita d a b c) s = .next (parkIn s1 s.curSlot t
        (.home ⟨.waita d (t.gVal b), [⟨t.gVal a, p, 8, [], 0⟩], some c⟩ s.pushSeq)))

/-- R216, R217, R356 to R358, R176: a slot holds the exact sum of its contributions, in whatever order they came, with their
NaN, infinities and overflow; a read rounds it once, an integer read to the nearest end of the range with NV where it lies
outside. BRSET, BRADD and BRGET park for the reduction slot that their address names, below 0x4000 of a tile
store's range. BRSET makes the slot its operand alone, BRADD adds its operand exactly, BRGET returns the sum rounded once, with
the flags of that, and changes no slot. -/
def Obligations.BankSlotsAccumulate : Prop :=
  (∀ (l : List Exact), l.length ≤ 2 ^ 100 →
    (∀ x ∈ l, ∃ f w, f ∈ [2, 3, 4, 5, 6, 13] ∧ x = contribution f w) →
    (l.foldl BankSlot.add BankSlot.reset).value = Claims.slotValue l) ∧
  (∀ w : Word, Claims.units (contribution 13 w) = w.toInt * 2 ^ 149) ∧
  (∀ (b : BankSlot) (f : Nat) (m : Mode), f ∈ [2, 3, 4, 5, 6, 13] →
    (b.value = none → b.read f m = (if f = 13 then 0 else (floatFmt f).nanBits, NV)) ∧
    ∀ x, b.value = some x → b.read f m = if f = 13 then toInt 13 m x else roundTo f m x) ∧
  ∀ (s : State) (t : Thread) (a b : BitVec 5) (f : BitVec 4) (die off : Nat) (viaAlias : Bool),
    targetOf s.cur.1 s.pod (t.gVal a) = some (.tileStore die off viaAlias) → (t.gVal a).toNat % 8 = 0 → off < 0x4000 →
    ((s.die die).tpOpen || t.sv) = true →
    ∃ r1 r2 : Req, r1.parts.map (·.loc) = [Place.tile die off] ∧ r2.parts.map (·.loc) = [Place.tile die off] ∧
      (Issues (.brset a b f) s t → Readable t [a, b] [] → t.inRegion = false →
        exec (.brset a b f) s = .next (parkIn s s.curSlot t (.access r1))) ∧
      (Issues (.bradd a b f) s t → Readable t [a, b] [] → t.inRegion = false →
        exec (.bradd a b f) s = .next (parkIn s s.curSlot t (.access r2))) ∧
      (∀ s' core slot t', Claims.Parked s' core slot t' r1 →
        exec (.accessCompletion core slot) s' = Claims.resumes
          (setBank (Claims.atHome s' t' r1) (Place.tile die off) (BankSlot.reset.add (contribution f.toNat (t.gVal b))))
          core slot t') ∧
      (∀ s' core slot t', Claims.Parked s' core slot t' r2 →
        exec (.accessCompletion core slot) s' = Claims.resumes
          (setBank (Claims.atHome s' t' r2) (Place.tile die off)
            ((bankAt s' (Place.tile die off)).add (contribution f.toNat (t.gVal b)))) core slot t') ∧
      ∀ d, ∃ r3 : Req, (Issues (.brget d a f) s t → Readable t [a] [] →
          exec (.brget d a f) s = .next (parkIn s s.curSlot t (.access r3))) ∧
        ∀ s' core slot t' x, Claims.Parked s' core slot t' r3 → t'.keeps d →
          x = (bankAt s' (Place.tile die off)).read f.toNat (Mode.ofCode t'.rnd) → x.2 &&& t'.enables = 0 →
          exec (.accessCompletion core slot) s' = Claims.resumesWith (Claims.atHome s' t' r3) core slot
            { t' with fpst := t'.fpst ||| x.2.zeroExtend 14 } d (BitVec.ofNat 64 x.1)

/-! ### Scalar floating point -/

namespace Sys2Proof.Claims

/-- The number of a float format by the precision bit (R371): f64 or f32. -/
def precision (p : BitVec 1) : Nat := if p = 1 then 1 else 2

/-- The exact value of a float operand, the low bits of a g register. -/
def floatOf (t : Thread) (p : BitVec 1) (r : BitVec 5) : Exact := fpVal p (t.gVal r)

/-- The bits of a float operand. -/
def bitsOfFloat (t : Thread) (p : BitVec 1) (r : BitVec 5) : Nat := fpBits p (t.gVal r)

/-- The one rounding of an exact result. -/
def rounded (t : Thread) (r : BitVec 3) (p : BitVec 1) (x : Exact) : Nat × FlagSet := roundTo (precision p) (t.mode r) x

/-- A comparison's 1 or 0, with its flags. -/
def compared (t : Thread) (p : BitVec 1) (c : FpCond) (a b : BitVec 5) : Nat × FlagSet :=
  (if (fpCompare (precision p) c (bitsOfFloat t p a) (bitsOfFloat t p b)).1 then 1 else 0,
    (fpCompare (precision p) c (bitsOfFloat t p a) (bitsOfFloat t p b)).2)

/-- What R371 to R374 give an instruction that does not divide: its destination, its sources, its bits and flags. -/
def floatResult (t : Thread) : Instr → Option (BitVec 5 × List (BitVec 5) × Nat × FlagSet)
  | .fadd d a b r p => some (d, [a, b], rounded t r p ((floatOf t p a).add (floatOf t p b)))
  | .fsub d a b r p => some (d, [a, b], rounded t r p ((floatOf t p a).add (floatOf t p b).neg))
  | .fmul d a b r p => some (d, [a, b], rounded t r p ((floatOf t p a).mul (floatOf t p b)))
  | .fma d a b c r p => some (d, [a, b, c], rounded t r p (((floatOf t p a).mul (floatOf t p b)).add (floatOf t p c)))
  | .fms d a b c r p => some (d, [a, b, c], rounded t r p (((floatOf t p a).mul (floatOf t p b)).add (floatOf t p c).neg))
  | .fnma d a b c r p => some (d, [a, b, c], rounded t r p (((floatOf t p a).mul (floatOf t p b)).neg.add (floatOf t p c)))
  | .fmin d a b p => some (d, [a, b], fpMinMax (precision p) false (bitsOfFloat t p a) (bitsOfFloat t p b))
  | .fmax d a b p => some (d, [a, b], fpMinMax (precision p) true (bitsOfFloat t p a) (bitsOfFloat t p b))
  | .feq d a b p => some (d, [a, b], compared t p .eq a b)
  | .flt d a b p => some (d, [a, b], compared t p .lt a b)
  | .fle d a b p => some (d, [a, b], compared t p .le a b)
  | .fclass d a p => some (d, [a], fpClass (precision p) (bitsOfFloat t p a), 0)
  | .fsgn d a b p => some (d, [a, b], fpSign (precision p) (bitsOfFloat t p a) (bitsOfFloat t p b), 0)
  | .fcvt d a r p => some (d, [a], convert (3 - precision p) (precision p) false (t.mode r)
      ((t.gVal a).toNat % 2 ^ fmtWidth (3 - precision p)) [])
  | .fcvti d a r p => some (d, [a], convert (precision p) 13 false (t.mode r) (bitsOfFloat t p a) [])
  | .icvtf d a r p => some (d, [a], convert 13 (precision p) false (t.mode r) ((t.gVal a).toNat % 2 ^ 64) [])
  | _ => none

end Sys2Proof.Claims

/-- R207, R208, R319, R371 to R374: a scalar float instruction that does not divide rounds its exact result once, by its rounding
field or RND; its bits, extended with zeros, fill its destination and its flags join the sticky ones. Where one of
its flags is enabled it writes nothing, raises none, and traps with them in TRAPV. -/
def Obligations.FloatsRoundOnce : Prop :=
  ∀ (i : Instr) (s : State) (t : Thread) (d : BitVec 5) (gs : List (BitVec 5)) (w : Nat) (f : FlagSet),
    Claims.floatResult t i = some (d, gs, w, f) → Issues i s t → Readable t gs [] → t.keeps d →
    (f &&& t.enables = 0 →
      exec i s = completesWith s { t with fpst := t.fpst ||| f.zeroExtend 14 } d (BitVec.ofNat 64 w)) ∧
    (f &&& t.enables ≠ 0 → exec i s = .next (takeTrap s s.curSlot t 15 (f.zeroExtend 64)))

/-- R135, R369, R371, R204: FDIV and FSQRT park with their result and their flags on the way: the quotient or the root
rounded once; a finite nonzero value over zero is an infinity with DZ, zero over zero, an infinity over an infinity and
the root of a negative value are NaN with NV (DivisionsParkAndFill says what becomes of them). -/
def Obligations.FloatDivisionsPark : Prop :=
  ∀ (d a b : BitVec 5) (r : BitVec 3) (p : BitVec 1) (s : State) (t : Thread),
    (Issues (.fdiv d a b r p) s t → Readable t [a, b] [] →
      ∃ w f, exec (.fdiv d a b r p) s = .next (parkIn s s.curSlot t (.divide d w f)) ∧
        (∀ n m e z, Claims.floatOf t p a = .fin n m e → Claims.floatOf t p b = .zero z →
          f = DZ ∧ w.toNat = (floatFmt (Claims.precision p)).infBits +
            if n = decide (z = .neg) then 0 else (floatFmt (Claims.precision p)).signBit) ∧
        ((∃ z y, Claims.floatOf t p a = .zero z ∧ Claims.floatOf t p b = .zero y) ∨
          (∃ z y, Claims.floatOf t p a = .inf z ∧ Claims.floatOf t p b = .inf y) →
          f = NV ∧ w.toNat = (floatFmt (Claims.precision p)).nanBits) ∧
        ∀ n m e n' m' e', Claims.floatOf t p a = .fin n m e → Claims.floatOf t p b = .fin n' m' e' →
          (BitVec.ofNat 64 (Claims.rounded t r p (Exact.quotient n m e n' m' e')).1, (Claims.rounded t r p
            (Exact.quotient n m e n' m' e')).2) = (w, f)) ∧
    (Issues (.fsqrt d a r p) s t → Readable t [a] [] →
      ∃ w f, exec (.fsqrt d a r p) s = .next (parkIn s s.curSlot t (.divide d w f)) ∧
        (∀ m e, Claims.floatOf t p a = .fin true m e → f = NV ∧ w.toNat = (floatFmt (Claims.precision p)).nanBits) ∧
        (∀ m e, Claims.floatOf t p a = .fin false m e →
          (BitVec.ofNat 64 (Claims.rounded t r p (Exact.root m e)).1, (Claims.rounded t r p (Exact.root m e)).2) = (w, f)))

/-- R201, R203, R195: a value that its format represents rounds to its own encoding, in every mode, and raises no flag: every
encoding of the six float formats that is no NaN. -/
def Obligations.RepresentableValuesRoundToThemselves : Prop :=
  ∀ (code x : Nat) (mode : Mode), 1 ≤ code → code ≤ 6 → x < 2 ^ (floatFmt code).width →
    decodeFloat (floatFmt code) x ≠ .nan → roundTo code mode (decodeFloat (floatFmt code) x) = (x, 0)

/-! ### Vectors -/

namespace Sys2Proof.Claims

/-- Lane `i` of `w` bits of a v register. -/
def laneOf (t : Thread) (w : Nat) (r : Nat) (i : Nat) : BitVec w := BitVec.ofNat w (lane (t.vVal r) w i)

/-- A lane-wise operation (R366 to R368): destination, sources, lane width, mask, the result of lane `i` with its flags. -/
structure LaneOp where
  d : Nat
  gs : List (BitVec 5)
  vs : List Nat
  w : Nat
  mask : BitVec 2
  f : Nat → Nat × FlagSet

/-- A saturating lane under HMOD SAT (R376), modulo 2^w otherwise. -/
def saturated (t : Thread) (w : Nat) (r : Int) : Nat × FlagSet :=
  if t.hmodSatOn = true ∧ r < -(2 ^ (w - 1)) then (2 ^ (w - 1), SAT)
  else if t.hmodSatOn = true ∧ 2 ^ (w - 1) - 1 < r then (2 ^ (w - 1) - 1, SAT)
  else ((BitVec.ofInt w r).toNat, 0)

/-- An integer operation of two sources on lanes of code `w`. -/
def intLanes (t : Thread) (d a b : BitVec 4) (m w : BitVec 2)
    (f : BitVec (laneBits w) → BitVec (laneBits w) → Nat × FlagSet) : LaneOp :=
  ⟨d.toNat, [], [a.toNat, b.toNat], laneBits w, m, fun i => f (laneOf t _ a.toNat i) (laneOf t _ b.toNat i)⟩

/-- A lane's exact value. -/
def laneVal (t : Thread) (f : BitVec 2) (r : Nat) (i : Nat) : Exact := fltVal f (lane (t.vVal r) (fltBits f) i)

/-- A float operation, rounded once. -/
def floatLanes (t : Thread) (d : BitVec 4) (vs : List (BitVec 4)) (m f : BitVec 2) (x : Nat → Exact) : LaneOp :=
  ⟨d.toNat, [], vs.map (·.toNat), fltBits f, m, fun i => roundTo (laneFmt f) t.hmodMode (x i)⟩

/-- What R375, R376, R378 to R382, R384 and R385 give the lane-wise instructions that do not divide. -/
def laneOp (t : Thread) : Instr → Option LaneOp
  | .vadd d a b m w => some (intLanes t d a b m w fun x y => saturated t (laneBits w) (x.toInt + y.toInt))
  | .vsub d a b m w => some (intLanes t d a b m w fun x y => saturated t (laneBits w) (x.toInt - y.toInt))
  | .vmul d a b m w => some (intLanes t d a b m w fun x y => ((x * y).toNat, 0))
  | .vmulh d a b m w => some (intLanes t d a b m w fun x y =>
      ((BitVec.ofInt (laneBits w) (x.toInt * y.toInt / 2 ^ laneBits w)).toNat, 0))
  | .vmin d a b m w => some (intLanes t d a b m w fun x y => (if x.toInt ≤ y.toInt then x.toNat else y.toNat, 0))
  | .vmax d a b m w => some (intLanes t d a b m w fun x y => (if y.toInt ≤ x.toInt then x.toNat else y.toNat, 0))
  | .vand d a b m w => some (intLanes t d a b m w fun x y => ((x &&& y).toNat, 0))
  | .vor d a b m w => some (intLanes t d a b m w fun x y => ((x ||| y).toNat, 0))
  | .vxor d a b m w => some (intLanes t d a b m w fun x y => ((x ^^^ y).toNat, 0))
  | .vshl d a b m w => some (intLanes t d a b m w fun x y => ((x <<< (y.toNat % laneBits w)).toNat, 0))
  | .vshr d a b m w => some (intLanes t d a b m w fun x y => ((x >>> (y.toNat % laneBits w)).toNat, 0))
  | .vsra d a b m w => some (intLanes t d a b m w fun x y => ((x.sshiftRight (y.toNat % laneBits w)).toNat, 0))
  | .vabs d a m w => some ⟨d.toNat, [], [a.toNat], laneBits w, m, fun i =>
      ((if (laneOf t (laneBits w) a.toNat i).toInt < 0 then -(laneOf t (laneBits w) a.toNat i)
        else laneOf t (laneBits w) a.toNat i).toNat, 0)⟩
  | .vfadd d a b m f => some (floatLanes t d [a, b] m f fun i => (laneVal t f a.toNat i).add (laneVal t f b.toNat i))
  | .vfsub d a b m f => some (floatLanes t d [a, b] m f fun i => (laneVal t f a.toNat i).add (laneVal t f b.toNat i).neg)
  | .vfmul d a b m f => some (floatLanes t d [a, b] m f fun i => (laneVal t f a.toNat i).mul (laneVal t f b.toNat i))
  | .vfma d a b c m f => some (floatLanes t d [a, b, c] m f fun i =>
      ((laneVal t f a.toNat i).mul (laneVal t f b.toNat i)).add (laneVal t f c.toNat i))
  | .vfmin d a b m f => some ⟨d.toNat, [], [a.toNat, b.toNat], fltBits f, m, fun i =>
      fpMinMax (laneFmt f) false (lane (t.vVal a.toNat) (fltBits f) i) (lane (t.vVal b.toNat) (fltBits f) i)⟩
  | .vfmax d a b m f => some ⟨d.toNat, [], [a.toNat, b.toNat], fltBits f, m, fun i =>
      fpMinMax (laneFmt f) true (lane (t.vVal a.toNat) (fltBits f) i) (lane (t.vVal b.toNat) (fltBits f) i)⟩
  | .vfexp2 d a m f => some ⟨d.toNat, [], [a.toNat], fltBits f, m, fun i =>
      exp2Lane (laneFmt f) t.hmodMode (laneVal t f a.toNat i)⟩
  | .vfrcp d a m f => some ⟨d.toNat, [], [a.toNat], fltBits f, m, fun i => rcpLane (laneFmt f) (laneVal t f a.toNat i)⟩
  | .vfrsq d a m f => some ⟨d.toNat, [], [a.toNat], fltBits f, m, fun i => rsqLane (laneFmt f) (laneVal t f a.toNat i)⟩
  | .vperm d a b w m => some ⟨d.toNat, [], [a.toNat, b.toNat], laneBits w, m, fun i =>
      (lane (t.vVal a.toNat) (laneBits w) (lane (t.vVal b.toNat) (laneBits w) i % (512 / laneBits w)), 0)⟩
  | .vbcst d a w m => some ⟨d.toNat, [a], [], laneBits w, m, fun _ => ((t.gVal a).toNat % 2 ^ laneBits w, 0)⟩
  | _ => none

/-- The register after a lane-wise operation under mask `m`: the active lanes by it, the others as they were. -/
def mergedLanes (t : Thread) (x : LaneOp) (m : Word) : VWord :=
  ofLanes x.w ((List.range (512 / x.w)).map fun i => if m.getLsbD i then (x.f i).1 else lane (t.vVal x.d) x.w i)

/-- The flags of its active lanes. -/
def activeFlags (x : LaneOp) (m : Word) : FlagSet :=
  ((List.range (512 / x.w)).filter fun i => m.getLsbD i).foldl (fun acc i => acc ||| (x.f i).2) 0

/-- A mask register's new value: bit `i` set where lane `i` is active and satisfies the condition (R377, R381). -/
def maskBits (n : Nat) (m : Word) (c : Nat → Bool) : Word :=
  BitVec.ofNat 64 (((List.range n).filter fun i => m.getLsbD i && c i).foldl (fun acc i => acc + 2 ^ i) 0)

/-- The condition of a VCMP (R377). -/
def holds (c : BitVec 3) {w : Nat} (x y : BitVec w) : Bool :=
  match c.toNat with
  | 0 => decide (x = y)
  | 1 => decide (x ≠ y)
  | 2 => decide (x.toInt < y.toInt)
  | 3 => decide (x.toInt ≤ y.toInt)
  | 4 => decide (x.toNat < y.toNat)
  | _ => decide (x.toNat ≤ y.toNat)

/-- The active lanes of a register, in order. -/
def activeOf (t : Thread) (w : Nat) (m : Word) (r : Nat) : List (BitVec w) :=
  ((List.range (512 / w)).filter fun i => m.getLsbD i).map (laneOf t w r)

/-- VREDI's reduction (R386), from the identity of each operation. -/
def reduced (o : BitVec 3) {w : Nat} (l : List (BitVec w)) : Word :=
  match o.toNat with
  | 0 => BitVec.ofInt 64 (l.foldl (fun acc x => acc + x.toInt) 0)
  | 1 => BitVec.ofInt 64 (l.foldl (fun acc x => if x.toInt < acc then x.toInt else acc) (2 ^ (w - 1) - 1))
  | 2 => BitVec.ofInt 64 (l.foldl (fun acc x => if acc < x.toInt then x.toInt else acc) (-(2 ^ (w - 1))))
  | 3 => BitVec.ofNat 64 (l.foldl (fun acc x => if x.toNat < acc then x.toNat else acc) (2 ^ w - 1))
  | 4 => BitVec.ofNat 64 (l.foldl (fun acc x => if acc < x.toNat then x.toNat else acc) 0)
  | 5 => (l.foldl (· &&& ·) (BitVec.allOnes w)).zeroExtend 64
  | 6 => (l.foldl (· ||| ·) 0).zeroExtend 64
  | _ => (l.foldl (· ^^^ ·) 0).zeroExtend 64

end Sys2Proof.Claims

/-- R366 to R368, R375, R376, R378 to R380, R382, R384, R385, R207, R208: a lane-wise vector instruction that does not divide
replaces the active lanes of its destination and leaves the others, whose old register is then a source; the flags of the
active lanes join the sticky ones, and where one is enabled nothing is written and the instruction traps. -/
def Obligations.LaneOperationsComplete : Prop :=
  ∀ (i : Instr) (s : State) (t : Thread) (x : Claims.LaneOp) (m : Word) (f : FlagSet),
    Claims.laneOp t i = some x → Issues i s t → Readable t x.gs x.vs → (x.mask = 0 ∨ t.vIsFull x.d = true ∧ t.vBad x.d = false) →
    m = t.mVal x.mask → f = Claims.activeFlags x m →
    (f &&& t.enables = 0 → exec i s =
      .next (s.putThread (({ t with fpst := t.fpst ||| f.zeroExtend 14 } : Thread).setV x.d (Claims.mergedLanes t x m)).advance)) ∧
    (f &&& t.enables ≠ 0 → exec i s = .next (takeTrap s s.curSlot t 15 (f.zeroExtend 64)))

/-- R369, R378, R388 to R390: VFDIV parks its thread with the quotients of its active lanes on their way; VCVT converts as
many lanes as the wider format has, under its mask, by the rounding field or the codebook that it names, and clears the
rest of the register; its flags are those of the active lanes. -/
def Obligations.VectorDivisionsAndConversions : Prop :=
  ∀ (s : State) (t : Thread),
    (∀ (d a b : BitVec 4) (m f : BitVec 2) (x : Claims.LaneOp), Issues (.vfdiv d a b m f) s t →
      Readable t [] [a.toNat, b.toNat] → (m = 0 ∨ t.vIsFull d.toNat = true ∧ t.vBad d.toNat = false) →
      x = ⟨d.toNat, [], [a.toNat, b.toNat], fltBits f, m, fun i =>
        let q := fpDiv (Claims.laneVal t f a.toNat i) (Claims.laneVal t f b.toNat i)
        ((roundTo (laneFmt f) t.hmodMode q.1).1, (roundTo (laneFmt f) t.hmodMode q.1).2 ||| q.2)⟩ →
      exec (.vfdiv d a b m f) s = .next (parkIn s s.curSlot t (.vdivide (d.zeroExtend 5)
        (Claims.mergedLanes t x (t.mVal m)) (Claims.activeFlags x (t.mVal m))))) ∧
    ∀ (d a : BitVec 5) (sf tf : BitVec 4) (x : BitVec 1) (m : BitVec 2) (r : BitVec 3) (lanes : List (Nat × FlagSet)),
      Issues (.vcvt d a sf tf x m r) s t → Readable t [] [a.toNat] → (m = 0 ∨ t.vIsFull d.toNat = true ∧ t.vBad d.toNat = false) →
      lanes = (List.range (512 / Nat.max (fmtWidth sf.toNat) (fmtWidth tf.toNat))).map (fun i =>
        if (t.mVal m).getLsbD i then
          convert sf.toNat tf.toNat (decide (x = 1)) (t.mode r) (lane (t.vVal a.toNat) (fmtWidth sf.toNat) i)
            ((s.core s.cur.1).codebooks.getD r.toNat [])
        else (lane (t.vVal d.toNat) (fmtWidth tf.toNat) i, 0)) →
      (flagsOf lanes &&& t.enables = 0 → exec (.vcvt d a sf tf x m r) s = .next (s.putThread
        (({ t with fpst := t.fpst ||| (flagsOf lanes).zeroExtend 14 } : Thread).setV d.toNat
          (ofLanes (fmtWidth tf.toNat) (lanes.map (·.1)))).advance)) ∧
      (flagsOf lanes &&& t.enables ≠ 0 →
        exec (.vcvt d a sf tf x m r) s = .next (takeTrap s s.curSlot t 15 ((flagsOf lanes).zeroExtend 64)))

/-- R377, R381, R391: VCMP and VFCMP write the mask register of their active lanes that satisfy the condition, zero elsewhere;
MAND, MOR, MNOT and MPOPC work on whole mask registers. Writes of m0 change nothing. -/
def Obligations.MasksComplete : Prop :=
  ∀ (s : State) (t : Thread),
    (∀ d a b m w c, Issues (.vcmp d a b m w c) s t → Readable t [] [a.toNat, b.toNat] →
      exec (.vcmp d a b m w c) s = .next (s.putThread (t.setM (d.extractLsb' 0 2)
        (Claims.maskBits (512 / laneBits w) (t.mVal m) fun i =>
          Claims.holds c (Claims.laneOf t (laneBits w) a.toNat i) (Claims.laneOf t (laneBits w) b.toNat i))).advance)) ∧
    (∀ (d a b : BitVec 4) (m f c : BitVec 2) (x : Claims.LaneOp), Issues (.vfcmp d a b m f c) s t →
      Readable t [] [a.toNat, b.toNat] →
      x = ⟨0, [], [], fltBits f, m, fun i =>
        let y := fpCompare (laneFmt f) (vfcond c) (lane (t.vVal a.toNat) (fltBits f) i) (lane (t.vVal b.toNat) (fltBits f) i)
        (if y.1 then 1 else 0, y.2)⟩ →
      (Claims.activeFlags x (t.mVal m) &&& t.enables = 0 → exec (.vfcmp d a b m f c) s = .next (s.putThread
        (({ t with fpst := t.fpst ||| (Claims.activeFlags x (t.mVal m)).zeroExtend 14 } : Thread).setM (d.extractLsb' 0 2)
          (Claims.maskBits (512 / fltBits f) (t.mVal m) fun i => decide ((x.f i).1 = 1))).advance)) ∧
      (Claims.activeFlags x (t.mVal m) &&& t.enables ≠ 0 → exec (.vfcmp d a b m f c) s =
        .next (takeTrap s s.curSlot t 15 ((Claims.activeFlags x (t.mVal m)).zeroExtend 64)))) ∧
    (∀ d a b, Issues (.mand d a b) s t → exec (.mand d a b) s =
      .next (s.putThread (t.setM (mreg d) (t.mVal (mreg a) &&& t.mVal (mreg b))).advance)) ∧
    (∀ d a b, Issues (.mor d a b) s t → exec (.mor d a b) s =
      .next (s.putThread (t.setM (mreg d) (t.mVal (mreg a) ||| t.mVal (mreg b))).advance)) ∧
    (∀ d a, Issues (.mnot d a) s t → exec (.mnot d a) s =
      .next (s.putThread (t.setM (mreg d) (~~~t.mVal (mreg a))).advance)) ∧
    (∀ d a, Issues (.mpopc d a) s t → t.keeps d → exec (.mpopc d a) s =
      completesWith s t d (BitVec.ofNat 64 ((List.range 64).filter fun j => (t.mVal (mreg a)).getLsbD j).length)) ∧
    ∀ w, t.setM 0 w = t

/-- R384 to R387: VSEL takes each lane from one of two registers by its mask; VINS replaces the one lane that a register
names, modulo their number; VEXT returns one lane, extended with zeros; VREDI reduces the active lanes of its source to a
g register, signed or unsigned as its operation says, from that operation's identity; VREDF rounds their exact sum once. -/
def Obligations.VectorTransfersComplete : Prop :=
  ∀ (s : State) (t : Thread),
    (∀ d a b w m, Issues (.vsel d a b w m) s t → Readable t [] [a.toNat, b.toNat] →
      exec (.vsel d a b w m) s = .next (s.putThread (t.setV d.toNat (ofLanes (laneBits w)
        ((List.range (512 / laneBits w)).map fun i => if (t.mVal m).getLsbD i then lane (t.vVal a.toNat) (laneBits w) i
          else lane (t.vVal b.toNat) (laneBits w) i))).advance)) ∧
    (∀ d a b w, Issues (.vins d a b w) s t → Readable t [a, b] [d.toNat] →
      exec (.vins d a b w) s = .next (s.putThread (t.setV d.toNat (ofLanes (laneBits w)
        (((List.range (512 / laneBits w)).map (lane (t.vVal d.toNat) (laneBits w))).set
          ((t.gVal b).toNat % (512 / laneBits w)) ((t.gVal a).toNat % 2 ^ laneBits w)))).advance)) ∧
    (∀ d a b w, Issues (.vext d a b w) s t → Readable t [b] [a.toNat] → t.keeps d →
      exec (.vext d a b w) s = completesWith s t d
        ((Claims.laneOf t (laneBits w) a.toNat ((t.gVal b).toNat % (512 / laneBits w))).zeroExtend 64)) ∧
    (∀ d a o w m, Issues (.vredi d a o w m) s t → Readable t [] [a.toNat] → t.keeps d →
      exec (.vredi d a o w m) s = completesWith s t d (Claims.reduced o (Claims.activeOf t (laneBits w) (t.mVal m) a.toNat))) ∧
    ∀ (d a : BitVec 5) (r : BitVec 3) (f m : BitVec 2) (x : Nat × FlagSet), Issues (.vredf d a r f m) s t →
      Readable t [] [a.toNat] → t.keeps d →
      x = roundTo (laneFmt f) (t.mode r) (Exact.sum
        (((List.range (512 / fltBits f)).filter fun i => (t.mVal m).getLsbD i).map (Claims.laneVal t f a.toNat))) →
      (x.2 &&& t.enables = 0 → exec (.vredf d a r f m) s =
        completesWith s { t with fpst := t.fpst ||| x.2.zeroExtend 14 } d (BitVec.ofNat 64 x.1)) ∧
      (x.2 &&& t.enables ≠ 0 → exec (.vredf d a r f m) s = .next (takeTrap s s.curSlot t 15 (x.2.zeroExtend 64)))

/-! ### Vector memory -/

namespace Sys2Proof.Claims

/-- The address of lane `i` of a strided or indexed access (R363, R364), with the g and v registers it reads, the lane's
bytes, its mask, and the vector register that it loads or stores. -/
structure LaneAccess where
  gs : List (BitVec 5)
  vs : List Nat
  n : Nat
  mask : BitVec 2
  reg : BitVec 5
  addr : Nat → Word
  isLoad : Bool

/-- An index lane, signed. -/
def indexOf (t : Thread) (w : BitVec 2) (b : BitVec 5) (i : Nat) : Int := (laneOf t (laneBits w) b.toNat i).toInt

def laneAccess (t : Thread) : Instr → Option LaneAccess
  | .vlds d a b w m => some ⟨[a, b], vdSource m d.toNat, 2 ^ w.toNat, m, d, fun i => t.gVal a + BitVec.ofNat 64 i * t.gVal b, true⟩
  | .vsts r a b w m => some ⟨[a, b], [r.toNat], 2 ^ w.toNat, m, r, fun i => t.gVal a + BitVec.ofNat 64 i * t.gVal b, false⟩
  | .vgath d a b w m => some ⟨[a], b.toNat :: vdSource m d.toNat, 2 ^ w.toNat, m, d, fun i =>
      t.gVal a + BitVec.ofInt 64 (indexOf t w b i * 2 ^ w.toNat), true⟩
  | .vscat r a b w m => some ⟨[a], [r.toNat, b.toNat], 2 ^ w.toNat, m, r, fun i =>
      t.gVal a + BitVec.ofInt 64 (indexOf t w b i * 2 ^ w.toNat), false⟩
  | _ => none

/-- The lanes of an access that are active. -/
def activeOnes (n : Nat) (m : Word) : List Nat := (List.range (64 / n)).filter fun i => m.getLsbD i

/-- Every active lane names the core's own local memory, aligned; lane `i` at offset `off i`. -/
def LanesInOwnMemory (s : State) (n : Nat) (m : Word) (addr : Nat → Word) (off : Nat → Nat) : Prop :=
  s.cur.1 < 8192 ∧ s.inPod (s.cur.1 / 1024) = true ∧ ∀ i ∈ activeOnes n m,
    targetOf s.cur.1 s.pod (addr i) = some (.localMem s.cur.1 (off i) true) ∧ (addr i).toNat % n = 0

/-- The state in which the thread's earlier stores to the bytes of the active lanes have been performed (R227 item 1). -/
abbrev afterEarlier (s : State) (t : Thread) (x : LaneAccess) (core : Nat) (off : Nat → Nat) : State :=
  s.drainTo t.uid ((activeOnes x.n (t.mVal x.mask)).map fun j => (Place.lm core (off j), x.n))

end Sys2Proof.Claims

/-- R362 to R365, R345, R227: a strided or indexed load from the own local memory fills the active lanes of its register with
the bytes that they name, the lowest first, and keeps the others, after its thread's earlier stores to those bytes; such a
store, outside a region, stores the active lanes of its register in the order of their numbers, and nothing else but what a
handler's store brings up to date in its thread's open regions (R252). -/
def Obligations.StridedAndIndexedAccessesComplete : Prop :=
  ∀ (i : Instr) (s s1 : State) (t : Thread) (x : Claims.LaneAccess) (off : Nat → Nat) (core : Nat) (r : Req),
    Claims.laneAccess t i = some x → Issues i s t → Readable t x.gs x.vs → t.hmodScope = none → core = s.cur.1 →
    Claims.LanesInOwnMemory s x.n (t.mVal x.mask) x.addr off →
    (x.isLoad = true → s1 = Claims.afterEarlier s t x core off →
      (∀ j ∈ Claims.activeOnes x.n (t.mVal x.mask), rawAttr (lmAttr s core (off j)) = true ∧
        s1.poisonIn (Place.lm core (off j)) x.n = false) →
      exec i s = .next (s1.putThread (t.setV x.reg.toNat (ofVBytes ((List.range (64 / x.n)).flatMap fun j =>
        if (t.mVal x.mask).getLsbD j then ownView s1 t (Place.lm core (off j)) x.n
        else (vBytes (t.vVal x.reg.toNat)).drop (x.n * j) |>.take x.n))).advance)) ∧
    (x.isLoad = false → t.inRegion = false →
      r = ⟨.store, (Claims.activeOnes x.n (t.mVal x.mask)).map fun j =>
        ⟨x.addr j, Place.lm core (off j), x.n, (vBytes (t.vVal x.reg.toNat)).drop (x.n * j) |>.take x.n, j⟩, none⟩ →
      s.coreOf t.uid = core → s1 = r.parts.foldl (fun s p => s.store p.loc p.data) s →
      exec i s = .next (s1.putThread (afterReq s1 t r).advance) ∧ (t.levels = [] → afterReq s1 t r = t))

/-- R361, R362, R165, R200: VLD of a page of raw bytes in the own local memory loads 64 bytes, of which the active 8-byte lanes
reach the register; of a page with a narrower format it decodes 16 bytes by the page's attribute, its scale byte and the
core's codebook, rounded by RND, with the flags of the active lanes, of which one that is enabled traps and leaves the register
as it is (R207, R208); either after its thread's earlier stores to those bytes (R227). VST outside a region stores the active 8-byte lanes of its register, all eight as one. An address in a scale area is a format fault. -/
def Obligations.VectorLoadsAndStoresComplete : Prop :=
  ∀ (s s1 : State) (t : Thread) (r b : BitVec 5) (m : BitVec 2) (o : BitVec 12) (x : Claims.Access) (off p : Nat) (attr : BitVec 9),
    x = ⟨[b], Claims.scaled t b o 64, 64, t.hmodScope⟩ → t.hmodScope = none → p = Place.lm s.cur.1 off →
    attr = lmAttr s s.cur.1 off →
    (Issues (.vld r b m o) s t → Readable t [b] (vdSource m r.toNat) → Claims.InOwnMemory s x off → rawAttr attr = true →
      s1 = s.drainTo t.uid [(p, 64)] → s1.poisonIn p 64 = false →
      exec (.vld r b m o) s = .next (s1.putThread (t.setV r.toNat (ofLanes 64 ((List.range 8).map fun j =>
        if (t.mVal m).getLsbD j then ofBytes ((ownView s1 t p 64).drop (8 * j) |>.take 8)
        else lane (t.vVal r.toNat) 64 j))).advance)) ∧
    (∀ (scale : Option Nat) (lanes : List (Nat × FlagSet)) (f : FlagSet) (n : Nat), Issues (.vld r b m o) s t → t.atIssue = none →
      Readable t [b] (vdSource m r.toNat) →
      Claims.InOwnMemory s { x with size := 16 } off → rawAttr attr = false → inScaleArea attr (off % 0x2_0000) = false →
      scale = (if attrGeom attr = 0 then none else some (p / 0x2_0000 * 0x2_0000 + scaleOffset attr (off % 0x2_0000))) →
      s1 = s.drainTo t.uid ((p, 16) :: (scale.map fun q => (q, 1)).toList) →
      s1.poisonIn p 16 = false → (∀ q, scale = some q → s1.poisonIn q 1 = false) →
      lanes = decodeLanes attr (ownView s1 t p 16) (scale.map fun q => (ownView s1 t q 1).getD 0 0)
        ((s.core s.cur.1).codebooks.getD (attrBook attr) []) (Mode.ofCode t.rnd) →
      n = (if attrFmt attr = 14 then 16 else 32) →
      f = ((List.range (512 / n)).filter fun j => (t.mVal m).getLsbD j).foldl (fun acc j => acc ||| (lanes.getD j (0, 0)).2) 0 →
      (f &&& t.enables = 0 → exec (.vld r b m o) s = .next (s1.putThread
        (({ t with fpst := t.fpst ||| f.zeroExtend 14 } : Thread).setV r.toNat (ofLanes n ((List.range (512 / n)).map fun j =>
          if (t.mVal m).getLsbD j then (lanes.getD j (0, 0)).1 else lane (t.vVal r.toNat) n j))).advance)) ∧
      (f &&& t.enables ≠ 0 → exec (.vld r b m o) s = .next (takeTrap s s.curSlot t 15 (f.zeroExtend 64)))) ∧
    (Issues (.vld r b m o) s t → Readable t [b] (vdSource m r.toNat) → Claims.InOwnMemory s { x with size := 16 } off →
      inScaleArea attr (off % 0x2_0000) = true → exec (.vld r b m o) s = .next (takeTrap s s.curSlot t 5 x.va)) ∧
    ∀ (q : Req), Issues (.vst r b m o) s t → Readable t [b] [r.toNat] → Claims.InOwnMemory s x off → t.inRegion = false →
      q = ⟨.store, if ∀ j < 8, (t.mVal m).getLsbD j = true then [⟨x.va, p, 64, vBytes (t.vVal r.toNat), 0⟩]
        else ((List.range 8).filter fun j => (t.mVal m).getLsbD j).map fun j =>
          ⟨x.va + BitVec.ofNat 64 (8 * j), p + 8 * j, 8, (vBytes (t.vVal r.toNat)).drop (8 * j) |>.take 8, j⟩, none⟩ →
      s.coreOf t.uid = s.cur.1 → s1 = q.parts.foldl (fun s y => s.store y.loc y.data) s →
      exec (.vst r b m o) s = .next (s1.putThread (afterReq s1 t q).advance) ∧ (t.levels = [] → afterReq s1 t q = t)

/-! ### The matrix unit -/

namespace Sys2Proof.Claims

/-- Element `k` of row `i` of a block of bytes, as an integer (R196, R393). -/
def byteAt (attr : BitVec 9) (block : List Byte) (i k : Nat) : Int :=
  decodeInteger (attrFmt attr) (block.getD (384 * i + k) 0).toNat

/-- The exact sum of an integer product's terms for element (i, j) of the accumulator: products, or squared distances. -/
def integerSum (p : Product) (i j : Nat) : Int :=
  (List.range 384).foldl (fun acc k => acc + if p.dist then
    (byteAt p.attrA p.a i k - byteAt p.attrB p.b j k) * (byteAt p.attrA p.a i k - byteAt p.attrB p.b j k)
    else byteAt p.attrA p.a i k * byteAt p.attrB p.b j k) 0

/-- The pairs of R211 whose products are rounded to f32, with the elements per K and the chunk. -/
def FloatPair (a b : BitVec 9) (kn chunk : Nat) : Prop :=
  ((attrFmt a = 5 ∨ attrFmt a = 6) ∧ (attrFmt b = 5 ∨ attrFmt b = 6) ∧ kn = 384 ∧
    ((attrGeom a = 0 ∧ attrGeom b = 0 ∧ chunk = 384) ∨
      (attrGeom a ≠ 0 ∧ (attrGeom b = attrGeom a ∨ attrGeom b = 0) ∧ chunk = blockLen a) ∨
      (attrGeom a = 0 ∧ attrGeom b ≠ 0 ∧ chunk = blockLen b))) ∨
  ((attrFmt a = 3 ∨ attrFmt a = 4) ∧ (attrFmt b = 3 ∨ attrFmt b = 4) ∧ attrGeom a = 0 ∧ attrGeom b = 0 ∧ kn = 192 ∧ chunk = 16) ∨
  (attrFmt a = 14 ∧ attrFmt b = 14 ∧ kn = 768 ∧ chunk = 32)

/-- Element `k` of row `i` of a block, at its exact value (R194, R199, R393): two bytes of a 16-bit format, the lower first, a half
byte of cb4, the lower first, taken through the codebook, else a byte. -/
def elementAt (attr : BitVec 9) (book : List (BitVec 16)) (block : List Byte) (i k : Nat) : Exact :=
  decodeElem (attrFmt attr)
    (if attrFmt attr = 3 ∨ attrFmt attr = 4 then
      (block.getD (384 * i + 2 * k) 0).toNat + 256 * (block.getD (384 * i + 2 * k + 1) 0).toNat
    else if attrFmt attr = 14 then (block.getD (384 * i + k / 2) 0).toNat / 16 ^ (k % 2) % 16
    else (block.getD (384 * i + k) 0).toNat) book

/-- The exact sum of chunk `c` of element (i, j), scaled by the e8 scales of its two blocks (R212 to R214). -/
def chunkSum (p : Product) (kn chunk i j c : Nat) : Exact :=
  let term (k : Nat) : Exact :=
    if p.dist then
      ((elementAt p.attrA p.bookA p.a i k).add (elementAt p.attrB p.bookB p.b j k).neg).mul
        ((elementAt p.attrA p.bookA p.a i k).add (elementAt p.attrB p.bookB p.b j k).neg)
    else (elementAt p.attrA p.bookA p.a i k).mul (elementAt p.attrB p.bookB p.b j k)
  let sa := p.scaleA.getD (i * (kn / chunk) + c) 127
  let sb := p.scaleB.getD (j * (kn / chunk) + c) 127
  if sa = 255 ∨ sb = 255 then .nan
  else (Exact.sum ((List.range chunk).map fun n => term (chunk * c + n))).scale ((sa.toNat : Int) + sb.toNat - 254)

/-- Element (i, j) after its chunks, in rising order, each added to what it held and rounded once to f32 by RNE, and the flags
of those roundings (R212). -/
def floatElement (p : Product) (kn chunk i j : Nat) (old : BitVec 32) : Nat × FlagSet :=
  (List.range (kn / chunk)).foldl (fun e c =>
    let r := roundTo 2 .rne ((decodeFloat (floatFmt 2) e.1).add (chunkSum p kn chunk i j c))
    (r.1, e.2 ||| r.2)) (old.toNat, 0)

/-- The 32 rows of an accumulator transfer lie in the own local memory: row `i` at offset `off i`. -/
def RowsInOwnMemory (s : State) (base pitch : Word) (off : Nat → Nat) : Prop :=
  s.cur.1 < 8192 ∧ s.inPod (s.cur.1 / 1024) = true ∧ ∀ i < 32,
    targetOf s.cur.1 s.pod (base + BitVec.ofNat 64 i * pitch) = some (.localMem s.cur.1 (off i) true)

/-- An accumulator of the thread that no rollback has poisoned, and that no queued product of the thread writes. -/
def AccReady (s : State) (t : Thread) (d : BitVec 3) (a : Acc) : Prop :=
  t.accAt d = some a ∧ a.poisoned = false ∧ (s.core s.cur.1).busyAcc t.uid d = false

end Sys2Proof.Claims

/-- R393, R394, R396, R397, R399, R186: MMA and MDIST whose operands pass their checks form their product of their operands as
they stand, after the thread's earlier stores, for which it waits while one of them is to follow another thread's request at its
home (R238); it enters the unit's queue and the instruction completes, or, the queue of 8
full, the thread parks with it until an entry is free. MMA.c lowers the count of its tile, also where the block turns out
poisoned, which is a detected error; it parks on a tile that is not sealed, keeping what it has taken at its issue (R166). -/
def Obligations.MatrixProductsEnterTheQueue : Prop :=
  ∀ (i : Instr) (s s1 s2 : State) (t t1 : Thread) (d : BitVec 3) (a b : BitVec 5) (c : BitVec 1) (acc : Acc) (x : AOperand)
    (frees : Option (Nat × Nat × BitVec 12)),
    i = .mma d a b c ∨ (i = .mdist d a b ∧ c = 0) → Issues i s t → Readable t [a, b] [] → t.accAt d = some acc →
    acc.poisoned = false → t.atIssue = none →
    (if c = 1 then handleA s t (t.gVal a) else plainA s t (t.gVal a) true) = .ok x →
    bOffsetOk (s.core s.cur.1).bsfmt (t.gVal b) = true → (productPair x.attr (s.core s.cur.1).bsfmt).isSome = true →
    x.clear x.attr = true →
    ((if c = 1 then consumeTile s s.cur.1 t (t.gVal a) 1 .read else .ok (s, t, none)) = .ok (s1, t1, frees) →
      s.blocked t.uid = true → exec i s = .next (parkIn s s.curSlot { t with
        atIssue := some (.operands x.attr (s.core s.cur.1).bsfmt (s.core s.cur.1).codebooks) } (.retry .stores))) ∧
    ((if c = 1 then consumeTile s s.cur.1 t (t.gVal a) 1 .read else .ok (s, t, none)) = .ok (s1, t1, frees) →
      s.blocked t.uid = false → s2 = s1.drainOf t.uid → s2.cur = s.cur →
      (poisonA s2 x.attr x.loc x.unit = true →
        exec i s = .next (consumeError (freeNext s2 frees) s.curSlot t1 x.va)) ∧
      (poisonA s2 x.attr x.loc x.unit = false →
        poisonB s2 s.cur.1 (s.core s.cur.1).bsfmt (t.gVal b).toNat = false →
        ∃ p : Product, p.owner = t1.uid ∧ p.ad = d ∧ p.dist = decide (i = .mdist d a b) ∧ p.attrA = x.attr ∧
          p.attrB = (s.core s.cur.1).bsfmt ∧ p.a = ownView s2 t1 x.loc 12288 ∧
          p.b = bColumns s2 s.cur.1 (t.gVal b).toNat ∧ p.frees = frees ∧
          ((s2.core s.cur.1).products.length < 8 →
            exec i s = .next ((queueProduct s2 s.cur.1 p).putThread (t1.markDirty d.toNat).advance)) ∧
          (8 ≤ (s2.core s.cur.1).products.length →
            exec i s = .next (parkIn s2 s.curSlot (t1.markDirty d.toNat) (.enqueue p none s2.pushSeq))))) ∧
    ∀ die base, c = 1 → consumeTile s s.cur.1 t (t.gVal a) 1 .read = .error (.park (.retry (.seal die base))) →
      exec i s = .next (parkIn s s.curSlot { t with
        atIssue := some (.operands x.attr (s.core s.cur.1).bsfmt (s.core s.cur.1).codebooks) } (.retry (.seal die base)))

/-- R396, R399, R400, R218: when the unit completes its oldest product, the product leaves the queue, and the accumulator of the
thread that issued it becomes what the product makes of it; no product traps. A residue that fails is charged to that
thread as a detected error besides. The entry that comes free goes to the product that has waited longest, whose instruction
completes; an MMRT goes on to wait for its product (R402). -/
def Obligations.CompletedProductsWriteTheirAccumulators : Prop :=
  (∀ (s : State) (core k : Nat) (p : Product) (rest : List Product) (t : Thread) (a : Acc) (fails : Bool),
    (s.core core).products = p :: rest → s.slotOf p.owner = some (k, t) → NatMap.get s.slots k .empty = .busy t → t.accAt p.ad = some a →
    p.frees = none → (s.core core).injection = none → (∀ e ∈ s.residents, ∀ h ad, e.2.park ≠ some (.product h ad)) →
    (∀ e ∈ s.residents, ∀ q h n, e.2.park ≠ some (.enqueue q h n)) →
    ∃ (s' : State) (t' : Thread), exec (.matrixProductComplete core fails) s = .next s' ∧ (s'.core core).products = rest ∧
      NatMap.get s'.slots k .empty = .busy t' ∧ t'.accAt p.ad = some { applyProduct p a with poisoned := a.poisoned } ∧
      t'.g = t.g ∧ t'.v = t.v ∧ t'.pc = t.pc ∧ t'.fpst = t.fpst ∧ s'.mem = s.mem ∧
      s'.todo = s.todo ++ (if fails then [.residue p.owner] else [])) ∧
  ∀ (s : State) (core k n m : Nat) (t : Thread) (q : Product) (rest : List (Nat × Nat × Thread)),
    s.waiters (enqueueOrder s core) = (n, k, t) :: rest →
    (t.park = some (.enqueue q none m) →
      feedUnit s core = (queueProduct (s.modSlot k Thread.advance) core q).wake k) ∧
    ∀ h, t.park = some (.enqueue q (some h) m) →
      feedUnit s core = parkIn (queueProduct s core q) k t (.product h q.ad)

/-- R196, R211 to R214, R218, R399, R392: a product of two unscaled byte formats adds to each element of the accumulator, taken as
an i32, the exact sum of its 384 products (or squared distances), modulo 2^32, raises OF in the accumulator's flags where
some element leaves the i32 range, and makes its KIND integer. A product of a pair of float formats, of cb4 codes taken through
their codebooks, or of block-scaled elements adds to each element, taken as an f32, the exact sum of each chunk of R211 in turn,
times 2^(sa + sb − 254) for the blocks' scales, 127 for an operand that has none, rounded once by RNE; its flags join the
accumulator's and its KIND is float. A chunk whose sum is NaN, as where a scale is 255, leaves the default NaN and raises NV. -/
def Obligations.ProductsFormExactSums : Prop :=
  (∀ (p : Product) (acc : Acc), (attrFmt p.attrA = 7 ∨ attrFmt p.attrA = 8) → (attrFmt p.attrB = 7 ∨ attrFmt p.attrB = 8) →
    attrGeom p.attrA = 0 → attrGeom p.attrB = 0 → p.a.length = 12288 → p.b.length = 12288 →
    (applyProduct p acc).kindInt = true ∧ (applyProduct p acc).elems.length = 1024 ∧
    (∀ i < 32, ∀ j < 32, (applyProduct p acc).elems.getD (32 * i + j) 0 =
      BitVec.ofInt 32 ((acc.elems.getD (32 * i + j) 0).toInt + Claims.integerSum p i j)) ∧
    ((∃ i < 32, ∃ j < 32, (acc.elems.getD (32 * i + j) 0).toInt + Claims.integerSum p i j < -(2 ^ 31) ∨
        2 ^ 31 ≤ (acc.elems.getD (32 * i + j) 0).toInt + Claims.integerSum p i j) →
      (applyProduct p acc).flags = acc.flags ||| OF) ∧
    ((∀ i < 32, ∀ j < 32, -(2 ^ 31) ≤ (acc.elems.getD (32 * i + j) 0).toInt + Claims.integerSum p i j ∧
        (acc.elems.getD (32 * i + j) 0).toInt + Claims.integerSum p i j < 2 ^ 31) →
      (applyProduct p acc).flags = acc.flags)) ∧
  ∀ (p : Product) (acc : Acc) (kn chunk : Nat), Claims.FloatPair p.attrA p.attrB kn chunk → p.a.length = 12288 → p.b.length = 12288 →
    (attrGeom p.attrA = 0 → p.scaleA = []) → (attrGeom p.attrB = 0 → p.scaleB = []) →
    (applyProduct p acc).kindInt = false ∧ (applyProduct p acc).elems.length = 1024 ∧
    (∀ i < 32, ∀ j < 32, (applyProduct p acc).elems.getD (32 * i + j) 0 =
      BitVec.ofNat 32 (Claims.floatElement p kn chunk i j (acc.elems.getD (32 * i + j) 0)).1) ∧
    (∀ n : Nat, (applyProduct p acc).flags.getLsbD n = (acc.flags.getLsbD n || decide (n ≠ 3) && (List.range 1024).any fun m =>
      (Claims.floatElement p kn chunk (m / 32) (m % 32) (acc.elems.getD m 0)).2.getLsbD n)) ∧
    ∀ i < 32, ∀ j < 32, ∀ c < kn / chunk, Claims.chunkSum p kn chunk i j c = .nan →
      (applyProduct p acc).elems.getD (32 * i + j) 0 = 0x7FC0_0000 ∧ (applyProduct p acc).flags &&& NV = NV

/-- R406 to R408, R282: MZERO clears an accumulator, and the flags of one that a rollback has poisoned, which is poisoned no
longer; MFLG returns its flags with KIND in bit 6 and clears them where it says so; MLD
loads 32 rows of 32 elements, MST stores them, each element converted once, row `i` at base + i × pitch, with the flags
of the conversions in the accumulator and no trap; either parks its thread until its accesses are done, a load's rows are
read after the thread's earlier stores to them (R227), and a handler's store takes effect in its open regions (R252). Each of the four waits for the thread's queued products that write the
accumulator; MFLG and MST of a poisoned accumulator trap. -/
def Obligations.AccumulatorTransfersComplete : Prop :=
  ∀ (s s1 : State) (t : Thread) (d : BitVec 3) (acc : Acc),
    (Issues (.mzero d) s t → t.accAt d = some acc → (s.core s.cur.1).busyAcc t.uid d = false →
      exec (.mzero d) s = .next (s.putThread ((t.setAcc d.toNat { acc with
        elems := List.replicate 1024 0, poisoned := false, flags := if acc.poisoned then 0 else acc.flags }).markDirty d.toNat).advance)) ∧
    (∀ g c, Issues (.mflg d g c) s t → Claims.AccReady s t d acc → t.keeps g →
      exec (.mflg d g c) s = completesWith s (if c = 1 then t.setAcc d.toNat { acc with flags := 0 } else t) g
        (acc.flags.zeroExtend 64 + if acc.kindInt then 64 else 0)) ∧
    (∀ (a b : BitVec 5) (f : BitVec 4) (off : Nat → Nat), Issues (.mld d a b f) s t → Readable t [a, b] [] →
      t.accAt d = some acc → (s.core s.cur.1).busyAcc t.uid d = false →
      (t.gVal a).toNat % 128 = 0 → (t.gVal b).toNat % 128 = 0 → 128 ≤ (t.gVal b).toNat → (t.gVal b).toNat ≤ 2 ^ 32 - 128 →
      Claims.RowsInOwnMemory s (t.gVal a) (t.gVal b) off →
      s1 = s.drainTo t.uid ((List.range 32).map fun i => (Place.lm s.cur.1 (off i), 128)) →
      (∀ i < 32, s1.poisonIn (Place.lm s.cur.1 (off i)) 128 = false) →
      exec (.mld d a b f) s = .next (parkIn s1 s.curSlot ((t.setAcc d.toNat { acc with
        elems := (List.range 32).flatMap fun i => (List.range 32).map fun j => BitVec.ofNat 32
          (ofBytes (((ownView s1 t (Place.lm s.cur.1 (off i)) 128).drop (4 * j)).take 4))
        kindInt := decide (f ≠ 2), poisoned := false }).markDirty d.toNat) (.ending none))) ∧
    (∀ (a b : BitVec 5) (f : BitVec 4) (r : BitVec 3) (x : BitVec 1) (off : Nat → Nat) (n : Nat) (cells : List (Nat × FlagSet)) (q : Req),
      Issues (.mst d a b f r x) s t → Readable t [a, b] [] → Claims.AccReady s t d acc → t.inRegion = false →
      mstTarget acc.kindInt f.toNat = true → n = fmtWidth f.toNat / 8 →
      (t.gVal a).toNat % (32 * n) = 0 → (t.gVal b).toNat % (32 * n) = 0 → 32 * n ≤ (t.gVal b).toNat →
      (t.gVal b).toNat < 2 ^ 32 → Claims.RowsInOwnMemory s (t.gVal a) (t.gVal b) off →
      cells = acc.elems.map (fun e => if acc.kindInt then narrowInt f.toNat (decide (x = 1)) e.toInt
        else if x = 1 then roundSat f.toNat (t.mode r) (decodeFloat (floatFmt 2) e.toNat)
        else roundTo f.toNat (t.mode r) (decodeFloat (floatFmt 2) e.toNat)) →
      q = ⟨.mst d (flagsOf cells), (List.range 32).map fun i => ⟨t.gVal a + BitVec.ofNat 64 i * t.gVal b, Place.lm s.cur.1 (off i),
        32 * n, ((cells.drop (32 * i)).take 32).flatMap fun c => toBytes n c.1, i⟩, none⟩ →
      s.coreOf t.uid = s.cur.1 → s1 = q.parts.foldl (fun s y => s.store y.loc y.data) s →
      exec (.mst d a b f r x) s = .next (parkIn s1 s.curSlot
        ((afterReq s1 t q).setAcc d.toNat { acc with flags := acc.flags ||| (flagsOf cells &&& ~~~DZ) }) (.ending none)) ∧
      (t.levels = [] → afterReq s1 t q = t)) ∧
    (t.accAt d = some acc → (s.core s.cur.1).busyAcc t.uid d = true →
      (Issues (.mzero d) s t → exec (.mzero d) s = .next (parkIn s s.curSlot t (.retry (.products (.acc d))))) ∧
      (∀ g c, Issues (.mflg d g c) s t → acc.poisoned = false →
        exec (.mflg d g c) s = .next (parkIn s s.curSlot t (.retry (.products (.acc d))))) ∧
      ∀ (a b : BitVec 5) (f : BitVec 4) (r : BitVec 3) (x : BitVec 1) (off : Nat → Nat) (n : Nat), Readable t [a, b] [] →
        Claims.RowsInOwnMemory s (t.gVal a) (t.gVal b) off → (t.gVal a).toNat % (32 * n) = 0 → (t.gVal b).toNat % (32 * n) = 0 →
        32 * n ≤ (t.gVal b).toNat → (t.gVal b).toNat ≤ 2 ^ 32 - 128 →
        (Issues (.mld d a b f) s t → n = 4 →
          exec (.mld d a b f) s = .next (parkIn s s.curSlot t (.retry (.products (.acc d))))) ∧
        (Issues (.mst d a b f r x) s t → n = fmtWidth f.toNat / 8 → acc.poisoned = false →
          exec (.mst d a b f r x) s = .next (parkIn s s.curSlot t (.retry (.products (.acc d)))))) ∧
    (t.accAt d = some acc → acc.poisoned = true →
      (∀ g c, Issuable (.mflg d g c) s t →
        exec (.mflg d g c) s = .next (takeTrap s s.curSlot t 14 (d.zeroExtend 64))) ∧
      ∀ a b f r x, Issuable (.mst d a b f r x) s t → Readable t [a, b] [] →
        exec (.mst d a b f r x) s = .next (takeTrap s s.curSlot t 14 (d.zeroExtend 64)))

/-- R401, R402, R467: MMRT outside a region whose A words are full and whose B lines are ready queues its product, or waits with
it for an entry of the queue, and parks for it, its thread's earlier stores performed first; until they are, and while the thread
has still to send them away for an earlier rotation of the same torus group (log entry 67), it waits, keeping what it has taken at
its issue (R166); when the product is complete, an empty rotation buffer takes both blocks, the A words become empty and the B
lines not ready, and the MMRT completes, its thread's stores performed first; in a handler its open regions take up the emptied
words (R252). The buffer then delivers each half where the neighbour's words are empty, or its lines not ready. -/
def Obligations.RotationsHandOnTheirBlocks : Prop :=
  (∀ (s : State) (t : Thread) (d : BitVec 3) (a b : BitVec 5) (g : BitVec 2) (acc : Acc) (x : AOperand),
    Issues (.mmrt d a b g) s t → Readable t [a, b] [] → t.accAt d = some acc → acc.poisoned = false → t.inRegion = false →
    plainA s t (t.gVal a) false = .ok x → t.atIssue = none → bOffsetOk (s.core s.cur.1).bsfmt (t.gVal b) = true →
    pairable x.attr = true → x.clear x.attr = true →
    ((aFull s s.cur.1 (x.loc % 0x8_0000) && bReady s s.cur.1 (t.gVal b).toNat &&
        !rotationPending t (decide (g = 1)) (x.loc % 0x8_0000) (t.gVal b).toNat) = false →
      exec (.mmrt d a b g) s = .next (parkIn s s.curSlot
        { t with atIssue := some (.operands x.attr (s.core s.cur.1).bsfmt (s.core s.cur.1).codebooks) }
        (.retry (.operands (decide (g = 1)) (x.loc % 0x8_0000) (t.gVal b).toNat)))) ∧
    ∀ (s' : State) (p : Product) (h : Handoff), (productPair x.attr (s.core s.cur.1).bsfmt).isSome = true →
      aFull s s.cur.1 (x.loc % 0x8_0000) = true → bReady s s.cur.1 (t.gVal b).toNat = true →
      rotationPending t (decide (g = 1)) (x.loc % 0x8_0000) (t.gVal b).toNat = false →
      (s.blocked t.uid = true → exec (.mmrt d a b g) s = .next (parkIn s s.curSlot
        { t with atIssue := some (.operands x.attr (s.core s.cur.1).bsfmt (s.core s.cur.1).codebooks) } (.retry .stores))) ∧
      (s.blocked t.uid = false → s' = s.drainOf t.uid → s'.cur = s.cur → poisonA s' x.attr x.loc x.unit = false →
        poisonB s' s.cur.1 (s.core s.cur.1).bsfmt (t.gVal b).toNat = false →
        p = captureProduct s' s.cur.1 t d false x.attr (s.core s.cur.1).bsfmt x.loc x.unit (t.gVal b).toNat
          (s.core s.cur.1).codebooks none → h = ⟨decide (g = 1), x.loc % 0x8_0000, (t.gVal b).toNat, x.attr⟩ →
        ((s'.core s.cur.1).products.length < 8 →
          exec (.mmrt d a b g) s = .next (parkIn (queueProduct s' s.cur.1 p) s.curSlot t (.product h d))) ∧
        (8 ≤ (s'.core s.cur.1).products.length →
          exec (.mmrt d a b g) s = .next (parkIn s' s.curSlot t (.enqueue p (some h) s'.pushSeq))))) ∧
  (∀ (s : State) (k : Nat) (t : Thread) (h : Handoff), t.inRegion = false → t.closing = false →
    (s.core (k / 16)).rotation = none → h.aOff % 8 = 0 → h.aOff + 12288 ≤ 0x8_0000 →
    Claims.Unwatched (s.drainOf t.uid) (Place.lm (k / 16) h.aOff) 12288 →
    ∃ s0 s1, s0 = s.drainOf t.uid ∧ s1 = handOff s0 (k / 16) h ∧
      rotateNext s k t h = (s1.putSlot k (handedOff s1 (k / 16) t h).advance).wake k ∧
      (t.levels = [] → handedOff s1 (k / 16) t h = t) ∧
      ∃ r, (s1.core (k / 16)).rotation = some r ∧ r.cluster = h.cluster ∧
        r.a = s0.bytes (Place.lm (k / 16) h.aOff) 12288 ∧ r.b = bColumns s0 (k / 16) h.bOff ∧
        aEmpty s1 (k / 16) h.aOff = true ∧ bNoneReady s1 (k / 16) h.bOff = true) ∧
  (∀ (s : State) (core : Nat), (s.core core).rotation = none → (∀ e ∈ s.residents, ∀ h, e.2.park ≠ some (.handoff h)) →
    exec (.rotationDelivery core) s = .next s) ∧
  (∀ (s : State) (core : Nat) (r : Rotation), (s.core core).rotation = some r → r.aSent = true → r.bSent = false →
    bNoneReady s (northOf r.cluster core) r.bOff = true →
    exec (.rotationDelivery core) s = .next (serveHandoff (clearRotation (deliverB s core r) core) core)) ∧
  ∀ (s : State) (core west page : Nat) (r : Rotation) (sp : Nat × Nat), (s.core core).rotation = some r → r.aSent = false →
    r.bSent = true → west = westOf r.cluster core → aEmpty s west r.aOff = true → page = r.aOff / 0x2_0000 * 0x2_0000 →
    sp = scaleSpan (lmAttr s west r.aOff) (Place.lm west page) (r.aOff - page) 32 →
    Claims.Unwatched s (Place.lm west r.aOff) 12288 → Claims.Unwatched s sp.1 sp.2 →
    exec (.rotationDelivery core) s = .next (serveHandoff (clearRotation (deliverA s core r) core) core)

/-- R199, R200, R409, R410, R394: outside a region MCBK, once the queued products that name its register are
done, loads a codebook register of its core from 32 bytes; MLDB, once the
unit's products are done (it keeps the attribute of its issue meanwhile, R166), loads 32 columns of 384 bytes into the slices, sets BSFMT to the attribute of what it read, and
sets the ready bits of the lines. -/
def Obligations.OperandLoadsComplete : Prop :=
  ∀ (s s1 : State) (t : Thread) (a : BitVec 5) (off : Nat), t.inRegion = false →
    targetOf s.cur.1 s.pod (t.gVal a) = some (.localMem s.cur.1 off true) → s.cur.1 < 8192 →
    s.inPod (s.cur.1 / 1024) = true →
    (∀ (n : BitVec 3) (book : List (BitVec 16)), Issues (.mcbk n a) s t → Readable t [a] [] → (t.gVal a).toNat % 32 = 0 →
      s1 = s.drainTo t.uid [(Place.lm s.cur.1 off, 32)] → s.coreOf t.uid = s.cur.1 →
      s1.poisonIn (Place.lm s.cur.1 off) 32 = false →
      book = (List.range 16).map (fun j => BitVec.ofNat 16
        (ofBytes (((ownView s1 t (Place.lm s.cur.1 off) 32).drop (2 * j)).take 2))) →
      ((s.core s.cur.1).usesBook n = false → exec (.mcbk n a) s = .next (parkIn (s1.modCore s.cur.1 fun c =>
        { c with codebooks := c.codebooks.set n.toNat book }) s.curSlot t (.ending none))) ∧
      ((s.core s.cur.1).usesBook n = true → exec (.mcbk n a) s = .next (parkIn s s.curSlot t (.retry (.products (.book n)))))) ∧
    ∀ b, Issues (.mldb a b) s t → Readable t [a, b] [] → t.atIssue = none → (t.gVal a).toNat % 0x1000 = 0 → (t.gVal b).toNat % 128 = 0 →
      bOffsetOk (lmAttr s s.cur.1 off) (t.gVal b) = true → inUnit (lmAttr s s.cur.1 off) off 12288 = true →
      ((s.core s.cur.1).products = [] → s.blocked t.uid = true → exec (.mldb a b) s = .next (parkIn s s.curSlot
        { t with atIssue := some (.operands (lmAttr s s.cur.1 off) 0 []) } (.retry .stores))) ∧
      ((s.core s.cur.1).products = [] → s.blocked t.uid = false → s.coreOf t.uid = s.cur.1 → ∃ s',
        s' = loadColumns (badFor s t) (s.drainOf t.uid) s.cur.1 (lmAttr s s.cur.1 off)
          (Place.lm s.cur.1 off) (t.gVal b).toNat ∧ exec (.mldb a b) s = .next (parkIn s' s.curSlot t (.ending none)) ∧
        (s'.core s.cur.1).bsfmt = lmAttr s s.cur.1 off ∧ bReady s' s.cur.1 (t.gVal b).toNat = true) ∧
      ((s.core s.cur.1).products ≠ [] → exec (.mldb a b) s = .next (parkIn s s.curSlot
        { t with atIssue := some (.operands (lmAttr s s.cur.1 off) 0 []) } (.retry (.products .all))))

/-- R411 to R413, R207, R208: MTOPK outside a region, of 32 selection states in the own local memory whose headers keep R411's
limits, merges row by row and parks; when the merge is complete the new states are written and its flags raised, or, where one
of them is enabled, nothing is written and the thread traps. The entries that a merge keeps are the largest of its candidates,
as many as there is room for; which of equal ones it keeps is open (log entry 5), and every candidate is kept or left. -/
def Obligations.SelectionsMerge : Prop :=
  (∀ (kindInt : Bool) (n : Nat) (s : State) (cands : List Pick),
    (takeLargest kindInt n s cands []).2.1.length = Nat.min n cands.length ∧
    ((takeLargest kindInt n s cands []).2.1 ++ (takeLargest kindInt n s cands []).2.2).Perm cands ∧
    ∀ x ∈ (takeLargest kindInt n s cands []).2.1, ∀ y ∈ (takeLargest kindInt n s cands []).2.2,
      topOrder kindInt y ≤ topOrder kindInt x) ∧
  (∀ (s : State) (t : Thread) (d : BitVec 3) (a b : BitVec 5) (e : BitVec 1) (acc : Acc) (off loc cap : Nat)
    (m : State × List (Nat × List Byte) × FlagSet),
    Issues (.mtopk d a b e) s t → Readable t [a, b] [] → Claims.AccReady s t d acc → t.inRegion = false →
    targetOf s.cur.1 s.pod (t.gVal a) = some (.localMem s.cur.1 off true) → off % 64 = 0 → loc = Place.lm s.cur.1 off →
    cap = topCap (ownView s t loc 4) → badState s t loc cap = none →
    (∀ r < 32, s.poisonIn (loc + r * topStride cap) (128 + 8 * cap) = false) →
    m = mergeRows s t acc (decide (e = 1)) loc (topStride cap) cap ((t.gVal b).toNat % 2 ^ 32) (List.range 32) [] 0 →
    exec (.mtopk d a b e) s = .next (parkIn m.1 s.curSlot t (.select m.2.1 m.2.2))) ∧
  ∀ (s s1 : State) (core slot : Nat) (t t1 : Thread) (writes : List (Nat × List Byte)) (f : FlagSet),
    s.threadIn core slot = some t → t.park = some (.select writes f) → s1 = writes.foldl (fun s w => s.store w.1 w.2) s →
    t1 = { t with fpst := t.fpst ||| f.zeroExtend 14 } →
    (f &&& t.enables = 0 → exec (.selectionMergeComplete core slot) s = .next ((s1.putSlot (core * 16 + slot)
      (afterAccess s1 t1 (writes.map fun w => ⟨0, w.1, w.2.length, w.2, 0⟩) true false).advance).wake (core * 16 + slot))) ∧
    (t.levels = [] → afterAccess s1 t1 (writes.map fun w => ⟨0, w.1, w.2.length, w.2, 0⟩) true false = t1) ∧
    (f &&& t.enables ≠ 0 → exec (.selectionMergeComplete core slot) s =
      .next (takeTrap s (core * 16 + slot) { t with park := none } 15 (f.zeroExtend 64)))

/-! ### Copies, PUMP and page moves -/

namespace Sys2Proof.Claims

/-- The parts of a row's footprint with what their checks come to (R417 steps 5 and 6): sources, destinations, padding. -/
def sourceParts (s : State) (t : Thread) (r : Row) : List (Word × Except Stop Part) :=
  (cutRow (r.len + 1) r.sva r.dva r.len).map fun c => (c.1, footPart s t false c.1 c.2.2)

def destParts (s : State) (t : Thread) (r : Row) : List (Word × Except Stop Part) :=
  (cutRow (r.len + 1) r.sva r.dva r.len).map fun c => (c.2.1, footPart s t true c.2.1 c.2.2)

def padParts (s : State) (t : Thread) (r : Row) : List (Word × Except Stop Part) :=
  (cutRow (r.pad + 1) (r.dva + BitVec.ofNat 64 r.len) (r.dva + BitVec.ofNat 64 r.len) r.pad).map fun c =>
    (c.2.1, footPart s t true c.2.1 c.2.2)

/-- The row of the command: the places that its bytes come from and go to, and those of its padding. -/
def copyRow (s : State) (t : Thread) (r : Row) : CopyRow :=
  ⟨List.zipWith (fun p q => (p.loc, q.loc, p.len)) (placesOf (sourceParts s t r)) (placesOf (destParts s t r)),
    (placesOf (padParts s t r)).map fun p => (p.loc, p.len)⟩

end Sys2Proof.Claims

/-- R234, R242, R414 to R418, R60: CPY and CPYR outside a region of a record that R415 allows, whose footprint passes its checks,
send a command after the thread's earlier stores and complete, with their register empty or a message to come; they wait while one
of these stores is to follow another thread's request at its home (R238). A source address of a row that is no multiple of the
element size is an access fault, of an empty row too (R417 step 4). A command that R243 holds behind no other is performed as a
whole, after the requests that have reached the homes of its bytes before it (R238): its bytes arrive unchanged, the words of the
destination full, and a 64-byte unit there is poisoned if it was and is not covered whole, or if a byte of it comes from a poisoned
unit (R60); row by row, a row's padding after its bytes; then its register is filled with the tag, or the message sent. One that
no path leads to ends 1 ms after its issue (R28), as the model has it (log entry 33) with an error of its thread and, where nothing
answers at its source, with its destination poisoned. A command of one move whose source and destination answer makes its transfers
(R58) and moves its bytes, which replace what its thread has deferred for them before it (R276). -/
def Obligations.CopiesComplete : Prop :=
  (∀ (i : Instr) (s : State) (t : Thread) (d a b : BitVec 5) (sc : BitVec 4) (c : BitVec 2) (off : Nat) (x : Shape) (ragged : Bool)
    (entries : Option (List Word)) (rows : List Row), ragged = decide (i = .cpyr d a b sc c) →
    i = .cpy d a b sc c ∨ i = .cpyr d a b sc c → Issues i s t → Readable t [a, b] [] → t.inRegion = false →
    ¬(t.port.en = true ∧ (d = 28 ∨ d = 29)) → t.atIssue = none →
    targetOf s.cur.1 s.pod (t.gVal a) = some (.localMem s.cur.1 off true) → off % 64 = 0 → off + 128 ≤ 0x8_0000 →
    s.poisonIn (Place.lm s.cur.1 off) 128 = false →
    x = shapeOf (ownView s t (Place.lm s.cur.1 off) 128) ragged →
    (ragged = true → rowsPoison s x = false) → entries = (if ragged then rowsArray s t x else none) →
    shapeRows x ragged entries = some rows →
    ((∀ r ∈ rows, r.sva.toNat % x.size = 0) →
      (∀ r ∈ rows, ∀ e ∈ Claims.sourceParts s t r ++ Claims.destParts s t r ++ Claims.padParts s t r, ∃ p, e.2 = .ok p) →
      (s.blocked t.uid = true → exec i s = .next (parkIn s s.curSlot { t with
        atIssue := some (.record (ownView s t (Place.lm s.cur.1 off) 128) entries (t.gVal b)) } (.retry .stores))) ∧
      (s.blocked t.uid = false → ∃ k : Copy, k.owner = t.uid ∧ k.d = (if c = 1 then none else some d) ∧ k.tag = t.gVal b ∧ k.bytes = x.total ∧
        k.rows = rows.map (Claims.copyRow s t) ∧ k.since = s.now ∧
        exec i s = .next ((let s1 := s.drainOf t.uid; { s1 with copies := s1.copies ++ [k] } : State).putThread
          (if c = 1 then t else t.emptyG d).advance))) ∧
    ∀ r, (rows.find? fun r => decide (r.sva.toNat % x.size ≠ 0)) = some r →
      exec i s = .next (takeTrap s s.curSlot t 3 r.sva)) ∧
  (∀ (s s1 : State) (n : Nat) (k : Copy), s.copies[n]? = some k → s1 = serveFirst s (k.reads ++ k.writes) →
    (s.arrived = [] → s1 = s) ∧
    (s1.copies[n]? = some k →
      (copyFree s1 n k = true → (k.cutOff s1 = false ∨ k.since + 800000 ≤ s1.now) →
        exec (.copyComplete n) s = .next (performCopy { s1 with copies := s1.copies.eraseIdx n } k)) ∧
      (copyFree s1 n k = false ∨ (k.cutOff s1 = true ∧ s1.now < k.since + 800000) → exec (.copyComplete n) s = .next s1))) ∧
  (∀ (s : State) (k : Copy) (r : CopyRow) (rest : List CopyRow), k.rows = r :: rest → k.answered s = true →
    performCopy s k = completeCommand
      (rest.foldl (performRow k) (r.pads.foldl (performPad k) (r.moves.foldl (performMove k) s)))
      k.core k.owner k.d k.tag k.code k.recOff k.bytes) ∧
  (∀ (s : State) (k : Copy) (src dst n slot : Nat) (t : Thread), k.rows = [⟨[(src, dst, n)], []⟩] →
    answersAt s k.core src = false → answersFrom s src dst = true → s.slotOf k.owner = some (slot, t) →
    (performCopy s k).mem = s.mem ∧ Todo.consume k.owner 0 ∈ (performCopy s k).todo ∧
      ∀ j < n, (dst + j) / 64 ∈ (performCopy s k).poisoned) ∧
  (∀ (s s1 : State) (k : Copy) (src dst n : Nat), k.rows = [⟨[(src, dst, n)], []⟩] → k.bad = [] →
    answersAt s k.core src = true → answersFrom s src dst = true →
    s1 = countTransfers (countTransfers s src n) dst n → performCopy s k = completeCommand
      (replaceFor k (moveBytes s1 src dst n) dst n) k.core k.owner k.d k.tag k.code k.recOff k.bytes) ∧
  (∀ (s : State) (p n : Nat), countTransfers s p n = { s with channels := (countTransfers s p n).channels }) ∧
  ∀ (s : State) (src dst n : Nat), Claims.Unwatched s dst n →
    (∀ j < n, (moveBytes s src dst n).mem.byte (dst + j) = s.mem.byte (src + j)) ∧
    (∀ p, p < dst ∨ dst + n ≤ p → (moveBytes s src dst n).mem.byte p = s.mem.byte p) ∧
    (∀ u, u ∈ (moveBytes s src dst n).poisoned ↔ (u ∈ s.poisoned ∧ ¬(dst ≤ 64 * u ∧ 64 * u + 64 ≤ dst + n)) ∨
      ∃ j < n, (src + j) / 64 ∈ s.poisoned ∧ (dst + j) / 64 = u) ∧
    (∀ j, 8 * j < n → dst % 8 = 0 → Place.hasFullBits dst = true → (moveBytes s src dst n).full (dst + 8 * j) = true)

/-- R419, R418, R70, R72, R242: after its thread's earlier stores, for which it waits while one of them is to follow another
thread's request at its home (R238), PUMP walks, its transfers counted (R58); a walk that ends otherwise than R419 asks stops it.
Of a resident page it completes at once: its register gets the page's base address, or a message says so, in which the 0 bytes done are the model's reading (log entry 32). PUMP of a page
that is away starts the page's move or joins it, and completes with its register empty, or with a message to come. An arrival
item is counted first, and goes with the move, or is made at once for a resident page; where the pump has no room for it the
thread parks, and keeps to the pump that it has asked. -/
def Obligations.PumpsComplete : Prop :=
  ∀ (s sd s0 s2 : State) (t : Thread) (d a b : BitVec 5) (sc : BitVec 4) (x : BitVec 1) (c : BitVec 2) (e : BitVec 64)
    (entry page : Nat), Issues (.pump d a b sc x c) s t → Readable t [a] (if x = 1 then [b.toNat] else []) → t.atIssue = none →
    ¬(t.port.en = true ∧ (d = 28 ∨ d = 29)) → targetOf s.cur.1 s.pod (t.gVal a) = some .paged →
    sd = s.drainOf t.uid → s0 = countWalk sd t.asid (t.gVal a) → page = (t.gVal a).toNat % 2 ^ 52 / 0x2_0000 →
    s2 = startMove s0 t.asid page entry e → s0.cur = s.cur → s2.cur = s.cur →
    (s.blocked t.uid = true → exec (.pump d a b sc x c) s = .next (parkIn s s.curSlot t (.retry .stores))) ∧
    (s.blocked t.uid = false → ∀ cause va, pumpLeaf sd t (t.gVal a) = .error (.trap cause va) →
      exec (.pump d a b sc x c) s = .next (takeTrap s0 s.curSlot t cause va)) ∧
    (s.blocked t.uid = false → pumpLeaf sd t (t.gVal a) = .ok (e, entry) →
    (x = 0 → Pte.res e = true → c ≠ 1 → exec (.pump d a b sc x c) s =
      .next (s0.putThread (if d = 0 then t else (t.emptyG d).fillG d (pageBase page)).advance)) ∧
    (x = 0 → Pte.res e = true → c = 1 → exec (.pump d a b sc x c) s =
      .next ((mailComplete s0 s.cur.1 t.uid (completionMail (pageBase page) 2 0 0)).putThread t.advance)) ∧
    (∀ io, x = 0 → Pte.res e = false → movingIo s2 t.asid page = some io →
      exec (.pump d a b sc x c) s = .next ((joinFill s2 io t.asid page
        (t.uid, if c = 1 then none else some d, s.cur.1, t.issued)).putThread (if c = 1 then t else t.emptyG d).advance)) ∧
    (x = 1 → screenArrival s0 t (t.vVal b.toNat) = none →
      (∀ s1 t1, Pte.res e = true → pumpArrival s0 t (nearIo s.cur.1) page (t.vVal b.toNat) = .ok (s1, t1) → s1.cur = s.cur →
        (c ≠ 1 → exec (.pump d a b sc x c) s =
          .next (s1.putThread (if d = 0 then t1 else (t1.emptyG d).fillG d (pageBase page)).advance)) ∧
        (c = 1 → exec (.pump d a b sc x c) s =
          .next ((mailComplete s1 s.cur.1 t1.uid (completionMail (pageBase page) 2 0 0)).putThread t1.advance))) ∧
      (∀ io s1 t1, Pte.res e = false → movingIo s2 t.asid page = some io →
        pumpArrival s2 t io page (t.vVal b.toNat) = .ok (s1, t1) → s1.cur = s.cur →
        exec (.pump d a b sc x c) s = .next ((joinFill s1 io t1.asid page
          (t1.uid, if c = 1 then none else some d, s.cur.1, t1.issued)).putThread (if c = 1 then t1 else t1.emptyG d).advance)) ∧
      ∀ io, Pte.res e = false → movingIo s2 t.asid page = some io →
        pumpArrival s2 t io page (t.vVal b.toNat) = .error (.park (.retry (.arrivalQueue io))) →
        exec (.pump d a b sc x c) s =
          .next (parkIn s2 s.curSlot { t with atIssue := some (.pump io page false) } (.retry (.arrivalQueue io)))))

/-- R68 to R73, R469, R243: a page whose move nothing holds lands at its frame and is installed, or, where its entry has changed meanwhile, its frame is kept
for the next move; a sector that its map elides lands as zeros, another with the device's bytes. An outbound move writes the
sectors that are not all zero to the slot, returns the frame and sends its message to the core that the request names; the pump
behind whose ports the slot does not lie makes none. A move that waits takes the next frame. -/
def Obligations.PageMovesLand : Prop :=
  (∀ (s : State) (io n frame : Nat) (m : Move) (bad : BitVec 32) (l : State × BitVec 9), (s.io io).moves[n]? = some m →
    m.frame = some frame → moveHeld s m = false → l = landPage (s.modIo io fun x => { x with moves := x.moves.eraseIdx n }) m.slot frame bad →
    exec (.inboundMoveComplete io n bad) s = .next (installPage l.1 io m frame l.2)) ∧
  (∀ (s : State) (io frame : Nat) (m : Move) (attr : BitVec 9), m.fills = [] → m.arrivals = [] → s.word m.entry = m.old →
    (installPage s io m frame attr).word m.entry = installed s m.old frame attr) ∧
  (∀ (s : State) (io frame : Nat) (m : Move) (attr : BitVec 9), m.fills = [] → m.arrivals = [] → s.word m.entry ≠ m.old →
    ((installPage s io m frame attr).io io).spareFrames = (s.io io).spareFrames ++ [frame] ∧
      (installPage s io m frame attr).mem = s.mem) ∧
  (∀ (s : State) (slot frame map i : Nat) (record : List Byte) (bad : BitVec 32) (j : Nat), j < 4096 →
    Claims.Unwatched s (Place.hbm s.modNum (frame + 4096 * i)) 4096 →
    (landSector slot frame map record bad s i).mem.byte (Place.hbm s.modNum (frame + 4096 * i) + j) =
      if map / 2 ^ i % 2 = 0 then 0 else s.mem.byte (Place.cxl s.modNum (slot + 4096 * i) + j)) ∧
  (∀ (s : State) (io frame slot core : Nat) (attr : BitVec 9), (∀ e ∈ s.residents, e.2.park = none) → s.inbound = [] →
    ioOf s slot = some io → frame + 0x2_0000 ≤ 2 ^ 50 → slot + 0x2_0100 ≤ 2 ^ 50 → s.modNum < 8 →
    (∀ other, other ≠ io → exec (.outboundMove other frame slot ⟨attr, core⟩) s = .next s) ∧
    ∃ s', exec (.outboundMove io frame slot ⟨attr, core⟩) s = .next s' ∧ (s'.io io).returned = (s.io io).returned ++ [frame] ∧
      ((s.core core).mailbox.length < 64 → (s'.core core).mailbox =
        (s.core core).mailbox ++ [completionMail (BitVec.ofNat 64 frame) 2 0 0x2_0000]) ∧
      ∀ i < 32, sectorStored s (Place.hbm s.modNum (frame + 4096 * i)) = true → ∀ j < 4096,
        s'.mem.byte (Place.cxl s.modNum (slot + 4096 * i) + j) = s.mem.byte (Place.hbm s.modNum (frame + 4096 * i) + j)) ∧
  ∀ (s : State) (io : Nat) (m : Move) (f : Nat) (rest : List Nat), (s.io io).moves = [m] → m.frame = none →
    (s.io io).spareFrames = f :: rest →
    ∃ s', exec (.frameRingRefill io) s = .next s' ∧ (s'.io io).moves = [{ m with frame := some f }] ∧
      (s'.io io).spareFrames = rest ∧ s'.mem = s.mem ∧ s'.slots = s.slots

/-! ### Tiles and worklists -/

/-- R177 to R181, R184 to R190, R434 to R436: the TILE group outside a region. TALLOC grants a tile at one of the admitted bases, unsealed and
with its count, and returns its handle, or waits behind those that wait; TSEAL seals, TFREE frees; TDROP and TABANDON
lower the count of a sealed tile, and at zero the tile is freed; TGET lowers it too and parks its thread until the tile's bytes have
arrived, poison with them (R60), after the thread's earlier stores, and frees a tile that it has brought to zero then; a consumer of
an unsealed tile parks. TSEAL waits while a store that it releases is to follow another thread's request at its home (R238). A
handle that is not current faults, and so does a count that is spent (R188); TINFO returns zero for it, and else the tile's fields. -/
def Obligations.TilesComplete : Prop :=
  ∀ (s : State) (t : Thread) (a : BitVec 5), t.inRegion = false →
    (∀ d w die, Issues (.talloc d a) s t → Readable t [a] [] → t.keeps d → w = t.gVal a → die = reqDieOf s.cur.1 w →
      requestOk s s.cur.1 t w = true →
      (s.waiters (tallocWaiter die (reqPart w)) = [] → (s.die die).admits (reqPart w) (reqClass w) ≠ [] →
        ∃ base ∈ (s.die die).admits (reqPart w) (reqClass w), ∃ s1 h,
          (s1, h) = grantTile (s.choose ((s.die die).admits (reqPart w) (reqClass w)).length).2 die (reqPart w) (reqClass w)
            (reqCount w) (reqOwner t w) base ∧ exec (.talloc d a) s = completesWith s1 t d h ∧
          ∃ x ∈ (s1.die die).tiles, x.base = base ∧ x.cls = reqClass w ∧ x.sealed = false ∧
            x.count = BitVec.ofNat 12 (reqCount w) ∧ x.persistent = decide (reqCount w = 0) ∧ h = handleOf die base x.gen) ∧
      (s.waiters (tallocWaiter die (reqPart w)) ≠ [] ∨ (s.die die).admits (reqPart w) (reqClass w) = [] →
        exec (.talloc d a) s = .next (parkIn s s.curSlot t (.talloc d w die s.pushSeq)))) ∧
    (∀ die x, currentTile s (t.gVal a) = some (die, x) → tileAdmits s t x = true →
      (∀ c, Issues (.tseal a c) s t → Readable t [a] [] →
        (x.sealed = false → s.blocked t.uid = false →
          exec (.tseal a c) s = .next ((sealTile (s.drainOf t.uid) die x c).putThread t.advance)) ∧
        (x.sealed = false → s.blocked t.uid = true → exec (.tseal a c) s = .next (parkIn s s.curSlot t (.retry .stores))) ∧
        (x.sealed = true → exec (.tseal a c) s = .next (takeTrap s s.curSlot t 9 (t.gVal a)))) ∧
      (Issues (.tfree a) s t → Readable t [a] [] → x.sealed = false ∨ x.persistent = true →
        exec (.tfree a) s = .next ((freeTile s die x).putThread t.advance)) ∧
      (Issues (.tdrop a) s t → Readable t [a] [] → x.sealed = true → x.persistent = false →
        (1 < x.count.toNat → exec (.tdrop a) s =
          .next ((setTile s die { x with count := x.count - 1, freePending := false, zeroBy := t.uid }).putThread t.advance)) ∧
        (x.count = 1 → exec (.tdrop a) s = .next ((freeNamed (setTile s die { x with count := 0, freePending := false, zeroBy := t.uid })
          die x.base x.gen).putThread t.advance))) ∧
      (x.sealed = false →
        (Issues (.tdrop a) s t → Readable t [a] [] →
          exec (.tdrop a) s = .next (parkIn s s.curSlot t (.retry (.seal die x.base)))) ∧
        (∀ b, Issues (.tabandon a b) s t → Readable t [a, b] [] → (t.gVal b).toNat ≤ 4095 → x.persistent = false →
          exec (.tabandon a b) s = .next (parkIn s s.curSlot t (.retry (.seal die x.base)))) ∧
        ∀ b off, Issues (.tget a b) s t → Readable t [a, b] [] → tgetDest s (t.gVal b) (tileSize x.cls) = some off →
          exec (.tget a b) s = .next (parkIn s s.curSlot t (.retry (.seal die x.base)))) ∧
      (x.sealed = true → x.persistent = false → x.count = 0 →
        (Issuable (.tdrop a) s t → Readable t [a] [] → exec (.tdrop a) s = .next (takeTrap s s.curSlot t 8 (t.gVal a))) ∧
        ∀ b off, Issuable (.tget a b) s t → Readable t [a, b] [] → tgetDest s (t.gVal b) (tileSize x.cls) = some off →
          exec (.tget a b) s = .next (takeTrap s s.curSlot t 8 (t.gVal a))) ∧
      (∀ b, Issues (.tabandon a b) s t → Readable t [a, b] [] → x.sealed = true → x.persistent = false → x.count ≠ 0 →
        (t.gVal b).toNat ≤ 4095 →
        (t.gVal b = 0 → exec (.tabandon a b) s = .next (s.putThread t.advance)) ∧
        (0 < (t.gVal b).toNat → (t.gVal b).toNat < x.count.toNat → exec (.tabandon a b) s = .next ((setTile s die
          { x with count := x.count - BitVec.ofNat 12 (t.gVal b).toNat, freePending := false, zeroBy := t.uid }).putThread t.advance)) ∧
        (x.count.toNat ≤ (t.gVal b).toNat → exec (.tabandon a b) s = .next ((freeNamed (setTile s die
          { x with count := 0, freePending := false, zeroBy := t.uid }) die x.base x.gen).putThread t.advance))) ∧
      (∀ (b : BitVec 5) (off : Nat) (s2 : State) (dest : Part) (frees : Option (Nat × Nat × BitVec 12)) (r : Req),
        Issues (.tget a b) s t → Readable t [a, b] [] →
        tgetDest s (t.gVal b) (tileSize x.cls) = some off → x.sealed = true → (x.persistent = true ∨ x.count ≠ 0) →
        s2 = (if x.persistent then s else setTile s die { x with count := x.count - 1, freePending := false, zeroBy := t.uid }) →
        dest = ⟨t.gVal b, Place.lm s.cur.1 off, tileSize x.cls, [], 0⟩ →
        frees = (if x.persistent = false ∧ x.count = 1 then some (die, x.base, x.gen) else none) →
        r = ⟨.tget dest frees, [⟨tileAddress (t.gVal a), Place.tile die x.base, tileSize x.cls, [], 0⟩], none⟩ →
        exec (.tget a b) s = .next (parkIn s2 s.curSlot t (.access r)) ∧
        ∀ (s' s3 s4 : State) (core slot : Nat) (t' : Thread), Claims.Parked s' core slot t' r →
          s3 = moveWith (badFor (Claims.atHome s' t' r) t') ((Claims.atHome s' t' r).drainOf t'.uid) (Place.tile die x.base)
            dest.loc dest.len →
          s4 = (if x.persistent = false ∧ x.count = 1 then s3.later (.free die x.base x.gen) else s3) →
          exec (.accessCompletion core slot) s' = Claims.resumes s4 core slot (brought s4 t' dest) ∧
          (t'.undo = [] → brought s4 t' dest = t')) ∧
      ∀ d, Issues (.tinfo d a) s t → Readable t [a] [] → t.keeps d → exec (.tinfo d a) s = completesWith s t d
        (BitVec.ofNat 64 (x.count.toNat + 2 ^ 12 * (x.cls % 4) + 2 ^ 14 * (x.part % 16) + 2 ^ 18 * x.sealed.toNat +
          2 ^ 19 * x.persistent.toNat + 2 ^ 20 * x.freePending.toNat + 2 ^ 21 + 2 ^ 32 * (x.job % 2 ^ 16) +
          2 ^ 52 * x.gen.toNat))) ∧
    (currentTile s (t.gVal a) = none →
      (∀ d, Issues (.tinfo d a) s t → Readable t [a] [] → t.keeps d → exec (.tinfo d a) s = completesWith s t d 0) ∧
      (∀ i, i = .tdrop a ∨ i = .tfree a ∨ (∃ c, i = .tseal a c) → Issuable i s t → Readable t [a] [] →
        exec i s = .next (takeTrap s s.curSlot t 8 (t.gVal a))) ∧
      (∀ b, Issuable (.tabandon a b) s t → Readable t [a, b] [] → (t.gVal b).toNat ≤ 4095 →
        exec (.tabandon a b) s = .next (takeTrap s s.curSlot t 8 (t.gVal a))) ∧
      ∀ b off, Issuable (.tget a b) s t → Readable t [a, b] [] → tgetDest s (t.gVal b) 0 = some off →
        exec (.tget a b) s = .next (takeTrap s s.curSlot t 8 (t.gVal a)))

/-- R80: an item that is pushed leaves no window entry with a larger key than a held one, where there was none, and no
more entries in the window than its bound and one; every item stays, in the window or held. -/
def Obligations.WindowHoldsTheLeastKeys : Prop :=
  ∀ (wl : Worklist) (x : Entry), wl.window.length ≤ wl.bound.toNat + 1 →
    (∀ y ∈ wl.window, ∀ m, leastHeld wl = some m → y.item.key.toNat ≤ m) →
    (wl.window.map (·.seq)).Nodup →
    (wl.push x).window.length ≤ (wl.push x).bound.toNat + 1 ∧
    (∀ y ∈ (wl.push x).window, ∀ m, leastHeld (wl.push x) = some m → y.item.key.toNat ≤ m) ∧
    ((wl.push x).window ++ (wl.push x).held).Perm (x :: (wl.window ++ wl.held))

/-- R24, R74, R75, R80, R82, R85, R88, R91, R93, R119, R238, R422 to R426: outside a region WPUSH and LAUNCH of an item that is
accepted raise their job's count and perform the thread's earlier stores, for which they wait while one of them is to follow another
thread's request at its home; to a pan of the own die they push at once; to another die the push parks and travels in a packet, and is
made when that has come; where the worklist has no room it stays parked, to try again, and traps when it has waited too long, the
count withdrawn. WPOP and WTRY take an item, whose bytes fill the vector register,
with the bound achieved in WAB, and lower its job's count; of an empty worklist WPOP parks, and WTRY returns all ones.
WSTAT returns the worklist's counts. -/
def Obligations.WorklistsComplete : Prop :=
  (∀ (i : Instr) (s s1 sd : State) (t : Thread) (d a b : BitVec 5) (wl : Nat) (item : Item) (p : Push),
    i = .wpush d a b ∨ (i = .launch d a b ∧ item.cls = 1) → Issues i s t → Readable t [a, b] [d.toNat] →
    t.inRegion = false → t.counted = none → item = pushItem (t.gVal b) (t.vVal d.toNat) →
    wlTarget s (t.gVal a) = some (s.modNum, wl) → item.cls < 4 → jobLive s item.job = true → (s.wl wl).en = true →
    countUp s item.job = some s1 → p = ⟨wl, item, .thread s.cur.1, true, false⟩ → s1.cur = s.cur → sd = s1.drainOf t.uid →
    (s1.blocked t.uid = true → exec i s = .next (parkIn s s.curSlot t (.retry .stores))) ∧
    (s1.blocked t.uid = false → pushNode sd s.cur.1 s.modNum p = coreNode s.cur.1 →
      (∀ s2, (placePush sd s.cur.1 s.modNum p).1 = some s2 → s2.cur = s.cur → exec i s = .next (s2.putThread t.advance)) ∧
      ((placePush sd s.cur.1 s.modNum p).1 = none → exec i s =
        .next (parkIn (placePush sd s.cur.1 s.modNum p).2 s.curSlot t (.push s.modNum p s1.now s1.pushSeq)))) ∧
    (s1.blocked t.uid = false → pushNode sd s.cur.1 s.modNum p ≠ coreNode s.cur.1 →
      exec i s = .next (parkIn sd s.curSlot t (.push s.modNum p s1.now s1.pushSeq)))) ∧
  (∀ (s : State) (core slot m since n : Nat) (t : Thread) (p : Push), s.threadIn core slot = some t →
    t.park = some (.push m p since n) → t.closing = false →
    ((Park.push m p since n).arrived s core t = false → exec (.parkedPushRetry core slot) s = .next s) ∧
    ((Park.push m p since n).arrived s core t = true →
      (∀ s1, (placePush s core m p).1 = some s1 → slot < 16 → exec (.parkedPushRetry core slot) s =
        .next (((s1.unload t.uid).modSlot (core * 16 + slot) Thread.complete).wake (core * 16 + slot))) ∧
      ((placePush s core m p).1 = none → slot < 16 → exec (.parkedPushRetry core slot) s = .next (placePush s core m p).2)) ∧
    (m = s.modNum → (s.wl p.wl).tout ≠ 15 → since + 2 ^ ((s.wl p.wl).tout.toNat + 10) ≤ s.now → p.counted = true →
      exec (.pushTimeout core slot) s = .next (takeTrap (countDown s p.item.job 1) (core * 16 + slot)
        { t with park := some (.retry .settling) } 12
        (BitVec.ofNat 64 (p.wl + m * 64))))) ∧
  ∀ (s : State) (t : Thread) (d a : BitVec 5) (wl : Nat), t.inRegion = false → ownTarget s (t.gVal a) = some wl →
    (Issues (.wstat d a) s t → Readable t [a] [] → t.keeps d → exec (.wstat d a) s = completesWith s t d
      (BitVec.ofNat 64 ((s.wl wl).window.length * 2 ^ 51 + (s.wl wl).held.length * 2 ^ 32 + (s.wl wl).liveRuns.length * 2 ^ 20 +
        (s.waiters (popWaiter wl)).length))) ∧
    (∀ (i : Instr) (s1 : State) (x : Entry) (wab : Nat), i = .wpop d a ∨ i = .wtry d a → Issues i s t → Readable t [a] [] →
      (s.wl wl).en = true → popAt s wl (panOf s.cur.1) = (some (x, wab), s1) → x.poison = false →
      exec i s = .next (((countDown s1 x.item.job 1).putSlot s.curSlot
        (({ t with wab := BitVec.ofNat 12 wab } : Thread).setV d.toNat (x.item.bits.zeroExtend 512)).advance).wake s.curSlot)) ∧
    ((s.wl wl).en = true → (popAt s wl (panOf s.cur.1)).1 = none →
      (Issues (.wpop d a) s t → Readable t [a] [] →
        exec (.wpop d a) s = .next (parkIn s s.curSlot t (.pop wl d s.pushSeq))) ∧
      (Issues (.wtry d a) s t → Readable t [a] [] → exec (.wtry d a) s =
        .next (s.putThread ({ t.setV d.toNat (BitVec.allOnes 512) with wab := 0 } : Thread).advance)))

/-! ### Messages, jobs and gangs, recovery regions -/

/-- R24, R139, R140, R144, R145, R238, R245, R437 to R441: messages outside a region. A SEND waits while a store of its thread is to
follow another thread's request at its home; its thread's earlier stores performed, it delivers its message at once to a thread or mailbox of its own core and completes; one to another core parks, and its
first attempt is made after the issues of the cycle, once the message has reached its target's node. An attempt that is accepted
puts the message in the mailbox of its target, or fills the register of a resident thread that it names where that is empty, and
completes the SEND; one that is refused is tried again with a
doubled wait until the 64th attempt traps. WAITM waits for a message, RECVM takes the oldest and returns the
count there was. PORTCFG sets the port, REMPTY and REMPTY.V a register's state to empty. -/
def Obligations.MessagesComplete : Prop :=
  (∀ (i : Instr) (s : State) (t : Thread) (a b : BitVec 5) (m : Message), i = .send a b ∨ i = .sendR a b → Issues i s t →
    Readable t [a] [b.toNat] → t.inRegion = false → sendTargetOk s (decide (i = .sendR a b)) (t.gVal a) = true →
    m = ⟨decide (i = .sendR a b), t.gVal a, (t.vVal b.toNat).extractLsb' 0 256⟩ →
    (s.blocked t.uid = true → exec i s = .next (parkIn s s.curSlot t (.retry .stores))) ∧
    (s.blocked t.uid = false →
    (sendsHome s s.cur.1 (t.gVal a) = true → ∀ s1, deliverMessage (s.drainOf t.uid) m = some s1 → s1.cur = s.cur →
      exec i s = .next (s1.putThread (syncRegs s1 t).advance)) ∧
    (sendsHome s s.cur.1 (t.gVal a) = true → deliverMessage (s.drainOf t.uid) m = none →
      exec i s = .next (parkIn (s.drainOf t.uid) s.curSlot t (.send m 1 ((s.drainOf t.uid).now + 32)
        (decide (retryEntries (s.drainOf t.uid) s.cur.1 < 8))))) ∧
    (sendsHome s s.cur.1 (t.gVal a) = false →
      exec i s = .next (parkIn (s.drainOf t.uid) s.curSlot t (.send m 0 (s.drainOf t.uid).now true))))) ∧
  (∀ (s : State) (m : Message) (c : Nat), c = sendModule s m.target * 1024 + sendCore m.target → m.toReg = false →
    ((s.core c).mailbox.length < 64 → ∃ s1, deliverMessage s m = some s1 ∧ (s1.core c).mailbox = (s.core c).mailbox ++ [m.body]) ∧
    (64 ≤ (s.core c).mailbox.length → deliverMessage s m = none)) ∧
  (∀ (s : State) (m : Message) (k : Nat) (r : BitVec 5), m.toReg = true → r = sendReg m.target →
    k = (sendModule s m.target * 1024 + sendCore m.target) * 16 + sendTid m.target →
    ((∀ t, NatMap.get s.slots k .empty ≠ .busy t) → deliverMessage s m = none) ∧
    ∀ t, NatMap.get s.slots k .empty = .busy t →
      (sendKindV m.target = false →
        (t.gFull.getLsbD r.toNat = true → deliverMessage s m = none) ∧
        (t.gFull.getLsbD r.toNat = false → ∃ s1 u, deliverMessage s m = some s1 ∧ NatMap.get s1.slots k .empty = .busy u ∧
          s1.mem = s.mem ∧ u.pc = t.pc ∧ u.v = t.v ∧ u.vFull = t.vFull ∧
          u.g = (if r = 0 then t.g else t.g.set r.toNat (m.body.extractLsb' 0 64)) ∧
          u.gFull = (if r = 0 then t.gFull else t.gFull ||| (1#32 <<< r.toNat)))) ∧
      (sendKindV m.target = true → r.toNat < 16 →
        (t.vIsFull r.toNat = true → deliverMessage s m = none) ∧
        (t.vIsFull r.toNat = false → ∃ s1 u, deliverMessage s m = some s1 ∧ NatMap.get s1.slots k .empty = .busy u ∧
          s1.mem = s.mem ∧ u.pc = t.pc ∧ u.g = t.g ∧ u.gFull = t.gFull ∧
          u.v = t.v.set r.toNat (m.body.zeroExtend 512) ∧ u.vFull = t.vFull ||| (1#16 <<< r.toNat)))) ∧
  (∀ (s s0 : State) (core slot n due : Nat) (t : Thread) (m : Message), slot < 16 → s.threadIn core slot = some t →
    t.park = some (.send m n due true) → due ≤ s.now → s.blocked t.uid = false → s0 = s.unload t.uid →
    ((Park.send m n due true).arrived s core t = false → exec (.sendRetryAttempt core slot) s = .next s) ∧
    ((Park.send m n due true).arrived s core t = true →
      (∀ s1, deliverMessage s0 m = some s1 → exec (.sendRetryAttempt core slot) s =
        .next ((s1.modSlot (core * 16 + slot) Thread.complete).wake (core * 16 + slot))) ∧
      (deliverMessage s0 m = none → n < 63 → exec (.sendRetryAttempt core slot) s = .next (s0.modSlot (core * 16 + slot) fun x =>
        { x with park := some (.send m (n + 1) (s.now + 16 * 2 ^ Nat.min (n + 1) 10) (decide (n ≠ 0) ||
          decide (retryEntries (s0.putSlot (core * 16 + slot) { t with park := none }) core < 8))) })) ∧
      (deliverMessage s0 m = none → 63 ≤ n → exec (.sendRetryAttempt core slot) s =
        .next (takeTrap s0 (core * 16 + slot) t 7 (undeliverable s m))))) ∧
  ∀ (s : State) (t : Thread),
    (Issues .waitm s t → ((s.core s.cur.1).mailbox ≠ [] → exec .waitm s = .next (s.putThread t.advance)) ∧
      ((s.core s.cur.1).mailbox = [] → exec .waitm s = .next (parkIn s s.curSlot t (.retry .mailbox)))) ∧
    (∀ d a, Issues (.recvm d a) s t → t.keeps a → t.inRegion = false →
      ((s.core s.cur.1).mailbox = [] → exec (.recvm d a) s = completesWith s t a 0) ∧
      ∀ m rest, (s.core s.cur.1).mailbox = m :: rest → (s.core s.cur.1).mailPending = [] →
        exec (.recvm d a) s = completesWith (s.modCore s.cur.1 fun c => { c with mailbox := rest })
          (t.setV d.toNat (m.zeroExtend 512)) a (BitVec.ofNat 64 (rest.length + 1))) ∧
    (∀ a, Issues (.portcfg a) s t → Readable t [a] [] → portOk s.cur.1 (t.gVal a) = true → exec (.portcfg a) s =
      .next (s.putThread ({ t with port := ⟨(t.gVal a).getLsbD 11, (t.gVal a).extractLsb' 8 3, (t.gVal a).extractLsb' 5 3,
        (t.gVal a).extractLsb' 3 2⟩ } : Thread).advance)) ∧
    (∀ d, Issues (.rempty d) s t → ∃ u : Thread, exec (.rempty d) s = .next (s.putThread u.advance) ∧ u.g = t.g ∧
      (∀ r, u.gIsFull r = if r = d ∧ d ≠ 0 ∧ ¬(t.port.en = true ∧ (d = 28 ∨ d = 29)) then false else t.gIsFull r)) ∧
    ∀ d, Issues (.remptyV d) s t → exec (.remptyV d) s =
      .next (s.putThread ({ t with vFull := t.vFull &&& ~~~((1 : BitVec 16) <<< d.toNat) } : Thread).advance)

/-- R116, R118, R119, R125, R238, R428 to R433: outside a region. GBAR parks the thread until all of its gang have arrived, who then
go on together, and never where one of them has ended by GEXIT (that a thread without a gang record is alone, and goes on at once, is
the model's reading: log entry 44); GEXIT waits for the thread's products and commands and leaves its slot without a thread; both,
and JOPEN, wait while a store of the thread is to follow another thread's request at its home. JOPEN opens a free job number, with its
descriptor's fields, one reference, and its DONE word empty; its descriptor is read after the thread's earlier stores to it (R227);
JWAIT drops the opening reference and waits for DONE as an LDO does, its thread's earlier stores performed; the entries through which
a job's areas are translated are marked (R161); JSUCC holds a job's items behind another job; JSUCC.rel pushes the held items of a job
that is stuck, JSUCC.dis discards them. -/
def Obligations.JobsAndGangsComplete : Prop :=
  ∀ (s : State) (t : Thread), t.inRegion = false →
    (Issues .gbar s t → s.blocked t.uid = false → s.gang? t.gang.toNat = none →
      exec .gbar s = .next ((s.drainOf t.uid).putThread t.advance)) ∧
    (∀ g, Issues .gbar s t → s.blocked t.uid = false → s.gang? t.gang.toNat = some g → exec .gbar s = .next (tryDepart
      ((parkIn (s.drainOf t.uid) s.curSlot t .gbar).setGang t.gang.toNat
        { g with arrived := insertNat g.arrived t.index.toNat }) t.gang.toNat)) ∧
    (Issues .gbar s t → s.blocked t.uid = true → exec .gbar s = .next (parkIn s s.curSlot t (.retry .stores))) ∧
    (∀ n g, s.gang? n = some g → (∃ i ∈ g.live, i ∉ g.arrived) ∨ g.exited = true → tryDepart s n = s) ∧
    (∀ n g, s.gang? n = some g → g.arrived ≠ [] → g.exited = false → (∀ i ∈ g.live, i ∈ g.arrived) →
      (s.slots.map (·.1)).Pairwise (· < ·) → (∀ e ∈ s.cores, e.2.ctxArea = [] ∧ ∀ c ∈ e.2.ctxCache, c.2 = none) →
      ∀ k u, NatMap.get s.slots k .empty = .busy u →
        (u.gang.toNat = n ∧ u.park = some .gbar →
          ∃ u', NatMap.get (tryDepart s n).slots k .empty = .busy u' ∧ u'.park = none ∧ u'.pc = u.pc + 4) ∧
        (¬(u.gang.toNat = n ∧ u.park = some .gbar) → NatMap.get (tryDepart s n).slots k .empty = .busy u)) ∧
    (Issuable .gexit s t → (∀ p ∈ (s.core s.cur.1).products, p.owner ≠ t.uid) → hasCommands s s.cur.1 t.uid = false →
      s.blocked t.uid = false →
      exec .gexit s = .next (exitThread s s.curSlot t) ∧
      (t.undo = [] → s.stores = [] → s.slots = [(s.curSlot, .busy t)] → (exitThread s s.curSlot t).thread? = none)) ∧
    (Issuable .gexit s t →
      ((∃ p ∈ (s.core s.cur.1).products, p.owner = t.uid) →
        exec .gexit s = .next (parkIn s s.curSlot t (.retry (.products .own)))) ∧
      ((∀ p ∈ (s.core s.cur.1).products, p.owner ≠ t.uid) →
        (hasCommands s s.cur.1 t.uid = true → exec .gexit s = .next (parkIn s s.curSlot t (.retry .commands))) ∧
        (hasCommands s s.cur.1 t.uid = false → s.blocked t.uid = true →
          exec .gexit s = .next (parkIn s s.curSlot t (.retry .stores))))) ∧
    (∀ (d a : BitVec 5) (off loc : Nat) (desc : List Byte) (s1 : State), Issues (.jopen d a) s t → Readable t [a] [] → t.keeps d →
      t.atIssue = none →
      (t.gVal a).toNat % 32 = 0 → targetOf s.cur.1 s.pod (t.gVal a) = some (.localMem s.cur.1 off true) → s.cur.1 < 8192 →
      s.inPod (s.cur.1 / 1024) = true → s1 = s.drainTo t.uid [(Place.lm s.cur.1 off, 32)] → s1.cur = s.cur →
      s1.poisonIn (Place.lm s.cur.1 off) 32 = false →
      desc = ownView s1 t (Place.lm s.cur.1 off) 32 → descriptorOk desc = true →
      areaPlace s1 t t.asid t.sv (wordOf (desc.take 8)) (t.gVal a) = .ok loc → Place.hasFullBits loc = true →
      (Place.tier loc = .localMem → Place.core loc = s.cur.1) →
      (s1.blocked t.uid = true → exec (.jopen d a) s =
        .next (parkIn s1 s.curSlot { t with atIssue := some (.descriptor desc) } (.retry .stores))) ∧
      (s1.blocked t.uid = false → freeNumbers s1 ≠ [] → ∃ j ∈ freeNumbers s1, ∀ s2, s2 =
        serve (((walkMark ((s1.choose (freeNumbers s1).length).2.drainOf t.uid) t.asid (wordOf (desc.take 8))
          ⟨false, true, t.sv⟩ true).setJob j (openedJob s.cur.1 t desc)).setFull loc false) loc →
        exec (.jopen d a) s = completesWith s2 (afterAccess s2 t [⟨wordOf (desc.take 8), loc, 8, [], 0⟩] false true) d
          (BitVec.ofNat 64 j) ∧
        (t.levels = [] → afterAccess s2 t [⟨wordOf (desc.take 8), loc, 8, [], 0⟩] false true = t))) ∧
    (∀ (d a : BitVec 5) (j loc : Nat) (s1 : State) (r : Req), Issues (.jwait d a) s t → Readable t [a] [] →
      (t.gVal a).toNat = j → j < 4096 → jobLive s j = true → (s.job j).opener = some (t.gang.toNat, t.index.toNat) →
      (s.job j).refHeld = true →
      s1 = countDown (s.setJob j { s.job j with refHeld := false, waited := true }) j 1 → s1.cur = s.cur →
      Claims.Reaches s1 t true false (s1.job j).record 8 loc → Place.tier loc ≠ .cxl → 1 < (s1.job j).scope.toNat →
      r = ⟨.jwait j d, [⟨(s1.job j).record, loc, 8, [], 0⟩], some (s1.job j).scope⟩ →
      exec (.jwait d a) s = .next (parkIn s1 s.curSlot t (.access r)) ∧
      ∀ (s' s2 : State) (core slot : Nat) (t' : Thread), Claims.Parked s' core slot t' r →
        s2 = (Claims.atHome s' t' r).drainOf t'.uid →
        (s2.full loc = true → s2.poisonIn loc 8 = false → t'.keeps d → exec (.accessCompletion core slot) s' =
          Claims.resumesWith (releaseNumber s2 j) core slot t' d (wordOf (ownView s2 t' loc 8))) ∧
        (s2.full loc = false → exec (.accessCompletion core slot) s' =
          .next (parkIn s2 (core * 16 + slot) t' (.jwait j d r (Claims.atHome s' t' r).pushSeq)))) ∧
    (∀ (d a b : BitVec 5) (j p : Nat) (va : Word), Issues (.jsucc d a b) s t → Readable t [d, a, b] [] →
      j = (t.gVal d).toNat % 2 ^ 16 → p = (t.gVal a).toNat % 2 ^ 16 → jobLive s j = true → j ≠ p → isHeld (s.job j) = false →
      jobLive s p = true → (s.job p).count ≠ 0 → holdFormed (t.gVal b) = true →
      va = ((t.gVal b).extractLsb' 0 52).signExtend 64 →
      holdMapped s t (s.job j) va (t.gVal b) (32 * 2 ^ (bitsOf (t.gVal b).toNat 63 60 + 4)) = .ok () →
      exec (.jsucc d a b) s = .next (((markHold s (s.job j) va (32 * 2 ^ (bitsOf (t.gVal b).toNat 63 60 + 4))).setJob j { s.job j with
        pred := some p, holdAddr := wideAddress s.cur.1 va
        holdCap := 2 ^ (bitsOf (t.gVal b).toNat 63 60 + 4), holding := [] }).putThread t.advance)) ∧
    ∀ (d : BitVec 5) (j : Nat), Readable t [d] [] → j = (t.gVal d).toNat % 2 ^ 16 → (s.job j).stuck = true → t.sv = true →
      (Issues (.jsuccRel d) s t → exec (.jsuccRel d) s = .next (((s.job j).holding.foldl (fun s q =>
        devicePush s { q with who := .jobTable }) (s.setJob j { s.job j with pred := none, stuck := false, holding := [], holdCap := 0 })).putThread
          t.advance)) ∧
      (Issues (.jsuccDis d) s t → exec (.jsuccDis d) s = .next ((countDown
        (s.setJob j { s.job j with pred := none, stuck := false, holding := [], holdCap := 0 }) j (s.job j).holding.length).putThread
          t.advance))

/-- The state in which a rollback of the thread that issues begins (R279 step 1): the thread stopped, its earlier stores performed. -/
abbrev Sys2Proof.Claims.stoppedIn (s : State) (t : Thread) : State :=
  (s.putSlot s.curSlot { t with
    park := some (.retry .settling), counted := none, owed := none, late := 0, closing := false }).drainOf t.uid

/-- R266 to R273, R277, R278, R283, R442, R443: RBEGIN opens a level whose snapshot is the thread's registers and whose mark is the fill
offset; RPRES and RPRES.a preserve a range or an accumulator; REND of an inner level gives its records to the enclosing
one, of the outermost it performs what was deferred and closes the region; RFAIL rolls back: the registers are those
of the snapshot, PC is at the level's target, and the level's and the job's counts rise; with nothing to undo it leaves memory as
it is but for its thread's earlier stores and the entries through which the snapshot is read (R161). RPRES.a parks its thread until its
record is written (R135). -/
def Obligations.RegionsComplete : Prop :=
  ∀ (s : State) (t : Thread),
    (∀ l imm target, Issues (.rbegin l imm) s t → target = t.pc.zeroExtend 64 + imm.signExtend 64 * 4 →
      target.toNat < 0x8_0000 → t.levels.length < 8 → t.rgnSize ≠ 0 → undoFits s s.cur.1 t 1408 = true →
      t.badG = 0 → t.badV = 0 →
      exec (.rbegin l imm) s = .next ((openArea s s.cur.1 t 1408 none).putThread ({ t with
        levels := ⟨target.setWidth 19, l, 0, t.fill,
          ⟨t.g, t.gFull, t.v, t.vFull, t.m1, t.m2, t.m3, t.rnd, t.port⟩, []⟩ :: t.levels
        fill := t.fill + 1408 } : Thread).advance)) ∧
    (∀ b n, Issues (.rpres b n) s t → Readable t [b] [] → t.levels ≠ [] → (t.gVal b).toNat % 64 = 0 →
      reachesOwn s (t.gVal b) (64 * (n.toNat + 1)) = false → t.ranges.length < 16 →
      exec (.rpres b n) s = .next (s.putThread
        ({ t with ranges := t.ranges ++ [⟨t.gVal b, 64 * (n.toNat + 1), t.levels.length⟩] } : Thread).advance)) ∧
    (∀ d acc l rest, Issues (.rpresA d) s t → t.levels = l :: rest → t.accAt d = some acc →
      (s.core s.cur.1).busyAcc t.uid d = false → heldAcc t l d.toNat = false → undoFits s s.cur.1 t 4160 = true →
      exec (.rpresA d) s = .next (parkIn (openArea s s.cur.1 t 4160 (some (.accum d.toNat acc))) s.curSlot
        { t with undo := (t.fill, .accum d.toNat acc) :: t.undo, fill := t.fill + 4160 } (.ending none))) ∧
    (∀ l m rest, Issues .rend s t → (∀ p ∈ (s.core s.cur.1).products, p.owner ≠ t.uid) → t.levels = l :: m :: rest →
      exec .rend s = .next (s.putThread (closeInner t l m rest).advance)) ∧
    (∀ l, Issues .rend s t → (∀ p ∈ (s.core s.cur.1).products, p.owner ≠ t.uid) → t.levels = [l] → t.undo = [] →
      exec .rend s = .next (s.putThread
        ({ t with ranges := [], fill := 512, levels := [], undo := [], committed := false } : Thread).advance)) ∧
    (∀ l s1 t1, Issues .rend s t → (∀ p ∈ (s.core s.cur.1).products, p.owner ≠ t.uid) → t.levels = [l] →
      closeOutermost s s.cur.1 t = .done s1 t1 → s1.cur = s.cur → exec .rend s = .next (s1.putThread t1.advance)) ∧
    ∀ l rest s0, Issuable .rfail s t → t.levels = l :: rest → t.committed = false → t.hnd = false → t.undo = [] → t.park = none →
      t.counted = none → t.taken = none → l.count.toNat < l.limit.toNat → l.dirty = [] →
      (∀ p ∈ (s.core s.cur.1).products, p.owner ≠ t.uid) → hasMoves s t.uid = false → s.blocked t.uid = false → s.cur.2 < 16 →
      (∀ e ∈ s.residents, ∀ h ad, e.2.park ≠ some (.product h ad)) → s0 = Claims.stoppedIn s t →
      recordPoisoned s0 s.cur.1 t l.mark 1408 = false →
      ∃ s' t', exec .rfail s = .next s' ∧ s'.thread? = some t' ∧ t'.pc = l.target ∧ t'.g = l.snapshot.g ∧
        t'.gFull = l.snapshot.gFull ∧ t'.v = l.snapshot.v ∧ t'.vFull = l.snapshot.vFull ∧ t'.m1 = l.snapshot.m1 ∧
        t'.m2 = l.snapshot.m2 ∧ t'.m3 = l.snapshot.m3 ∧ t'.rnd = l.snapshot.rnd ∧ t'.port = l.snapshot.port ∧
        t'.levels = { l with count := l.count + 1, dirty := [] } :: rest ∧ t'.fill = l.mark + 1408 ∧ t'.fpst = t.fpst ∧
        (s'.job t.job.toNat).rollbacks = (s.job t.job.toNat).rollbacks + 1 ∧
        s'.mem = (readRecord s0 s.cur.1 t l.mark 1408).mem

/-- The headline of a region (R274, R279): a plain store of an open region to its core's own local memory, rolled back by
RFAIL, leaves the line that it wrote as it was, its thread's earlier stores to it performed (R227). -/
def Obligations.RolledBackStoresLeaveNoTrace : Prop :=
  ∀ (i : Instr) (s s0 s1 s2 s3 : State) (t t1 : Thread) (x : Claims.Access × BitVec 5) (l : Level) (off line : Nat),
    Claims.storeOf t i = some x → x.1.scope = none → Issues i s t → Readable t x.1.srcs [] → Claims.InOwnMemory s x.1 off →
    t.levels = [l] → t.hnd = false → t.undo = [] → t.committed = false → l.count.toNat < l.limit.toNat → l.mark ≤ t.fill →
    (s.core s.cur.1).products = [] → hasMoves s t.uid = false → s.blocked t.uid = false → s.inbound = [] → s.cur.2 < 16 →
    s.coreOf t.uid = s.cur.1 →
    line = Place.lm s.cur.1 off / 64 * 64 → s0 = s.drainTo t.uid [(line, 64)] → undoFits s0 s.cur.1 t 128 = true →
    exec i s = .next s1 → s1.thread? = some t1 → hintsOk .rfail t1.hints = true → s3 = Claims.stoppedIn s1 t1 →
    recordPoisoned s3 s1.cur.1 t1 l.mark 1408 = false → recordPoisoned s3 s1.cur.1 t1 t.fill 128 = false →
    (s.residents.filterMap fun e => e.2.park) = [] → exec .rfail s1 = .next s2 →
    (∃ t2, s2.thread? = some t2 ∧ t2.pc = l.target) ∧ ∀ j < 64, s2.mem.byte (line + j) = s0.mem.byte (line + j)

/-! ### Traps, system registers, contexts, invalidation -/

namespace Sys2Proof.Claims

/-- The registers that R139, R138, R392 and R205 to R208 give a thread are those of `t`, and so is what else a trap leaves. -/
def sameRegisters (u t : Thread) : Prop :=
  u.uid = t.uid ∧ u.g = t.g ∧ u.gFull = t.gFull ∧ u.v = t.v ∧ u.vFull = t.vFull ∧ u.m1 = t.m1 ∧ u.m2 = t.m2 ∧ u.m3 = t.m3 ∧
    u.acc = t.acc ∧ u.rnd = t.rnd ∧ u.fpst = t.fpst ∧ u.wab = t.wab ∧ u.port = t.port ∧ u.slpreq = t.slpreq ∧
    u.pair = t.pair ∧ u.job = t.job ∧ u.gang = t.gang ∧ u.index = t.index ∧ u.asid = t.asid ∧ u.rgnSize = t.rgnSize ∧
    u.rgnBase = t.rgnBase ∧ u.levels = t.levels ∧ u.fill = t.fill ∧ u.ranges = t.ranges ∧ u.undo = t.undo

/-- What a thread's registers read as (R205, R206, R254, R301, R447): by number of the map of R445. -/
def threadRegisters (t : Thread) : List (Nat × Word) :=
  [(3, t.job.zeroExtend 64), (4, t.asid.zeroExtend 64), (5, t.rnd.zeroExtend 64), (6, t.fpst.zeroExtend 64),
   (7, t.wab.zeroExtend 64), (11, t.epc.zeroExtend 64), (12, t.trapc.zeroExtend 64), (13, t.trapv), (16, t.m1), (17, t.m2),
   (18, t.m3), (1, (t.index ++ 0#2 ++ t.gang).zeroExtend 64)]

end Sys2Proof.Claims

/-- R248: a trap of a thread that runs no handler saves the offset of its first hint, or of the instruction, in EPC, the cause and
the number of hints in TRAPC, the cause's value in TRAPV, SV in PSV, sets SV and HND and goes on at SVEC.OFFSET × 4 with an
empty fetch buffer; nothing else of the thread changes. R449: TRAP and BREAK take it with causes 16 and 17, but BREAK halts
the thread where debug is armed on its core. R249: ERET undoes it, or is illegal where no handler runs. -/
def Obligations.TrapsAndReturns : Prop :=
  (∀ (s : State) (k cause : Nat) (t : Thread) (v : Word), t.hnd = false → t.taken = none → t.counted = none → t.trail.lag = [] →
    ∃ u : Thread, takeTrap s k t cause v = (s.putSlot k u).wake k ∧ Claims.sameRegisters u t ∧
      u.epc = t.pc - BitVec.ofNat 19 (4 * t.hints.length) ∧ u.trapc = BitVec.ofNat 10 (cause + 256 * t.hints.length) ∧
      u.trapv = v ∧ u.psv = t.sv ∧ u.sv = true ∧ u.hnd = true ∧ u.pc = (s.core (k / 16)).svec ++ 0#2 ∧
      u.fetchBuf = none ∧ u.hints = []) ∧
  ∀ (s : State) (t : Thread),
    (∀ imm, Issuable (.trap imm) s t → exec (.trap imm) s = .next (takeTrap s s.curSlot t 16 (imm.zeroExtend 64))) ∧
    (∀ imm, Issuable (.brk imm) s t → (s.core s.cur.1).debugArmed = false →
      exec (.brk imm) s = .next (takeTrap s s.curSlot t 17 (imm.zeroExtend 64))) ∧
    (∀ imm, Issues (.brk imm) s t → (s.core s.cur.1).debugArmed = true →
      exec (.brk imm) s = .next (s.putThread { t with halted := true })) ∧
    (Issuable .eret s t → t.hnd = true → ∃ u : Thread, exec .eret s = .next (s.putThread u) ∧ Claims.sameRegisters u t ∧
      u.sv = t.psv ∧ u.psv = t.psv ∧ u.hnd = false ∧ u.pc = t.epc &&& ~~~3#19 ∧ u.fetchBuf = none ∧ u.epc = t.epc ∧
      u.trapc = t.trapc ∧ u.trapv = t.trapv) ∧
    (Issuable .eret s t → t.hnd = false → exec .eret s = .next (takeTrap s s.curSlot t 1 ((encode .eret).zeroExtend 64)))

/-- R446 to R448, R450, R135: SETRND, YIELD and SLEEP complete. SYSR completes with what its register reads, SYSW with the write
made; of a register of a die, an I/O die or the module either parks its thread until the access is back; a
register every field of which is privileged, or for SYSW any field, is illegal to a thread that is not, and so is in a
region the SYSW of any register but RND and FPST. An index word that names nothing is an access fault. SYSW of the thread's own
registers writes the fields that may be written and no others. An event of a register write makes that write. -/
def Obligations.SystemRegistersComplete : Prop :=
  (∀ (s : State) (t : Thread),
    (∀ m, Issues (.setrnd m) s t → exec (.setrnd m) s =
      .next (s.putThread ({ t with rnd := if m.toNat ≤ 5 then m else t.rnd } : Thread).advance)) ∧
    (Issues .yield s t → ∃ l : List Nat, (∀ n, n ∈ l ↔ n < 16 ∧ n ≠ s.cur.2 ∧ ∃ at', slotFrom s s.cur.1 n = some at' ∧
        at' ≤ s.now) ∧
      exec .yield s = .next (s.putThread ({ t with yieldTo := l, yieldEnd := s.now + 16 } : Thread).advance)) ∧
    (∀ n, Issues (.sleep n) s t → exec (.sleep n) s = .next (s.putThread ({ t with slpreq := n } : Thread).advance)) ∧
    (∀ d x n, Issues (.sysr d x n) s t → Readable t [x] [] → t.keeps d → (t.sv = true ∨ regPrivileged n.toNat = false) →
      indexOk n.toNat (t.gVal x) = true →
      (n.toNat ≤ 26 → exec (.sysr d x n) s = completesWith s t d (readReg s s.cur.1 s.cur.2 t n.toNat (t.gVal x))) ∧
      (27 ≤ n.toNat → exec (.sysr d x n) s = .next (parkIn s s.curSlot t
        (.ending (some (d, readReg s s.cur.1 s.cur.2 t n.toNat (t.gVal x))))))) ∧
    (∀ n w, (n, w) ∈ Claims.threadRegisters t → readReg s s.cur.1 s.cur.2 t n 0 = w) ∧
    (∀ d x n, Issuable (.sysr d x n) s t → t.sv = false → regPrivileged n.toNat = true →
      exec (.sysr d x n) s = .next (takeTrap s s.curSlot t 1 ((encode (.sysr d x n)).zeroExtend 64))) ∧
    (∀ d x n, Issuable (.sysr d x n) s t → Readable t [x] [] → (t.sv = true ∨ regPrivileged n.toNat = false) →
      indexOk n.toNat (t.gVal x) = false → exec (.sysr d x n) s = .next (takeTrap s s.curSlot t 3 (t.gVal x))) ∧
    (∀ a x n, Issues (.sysw a x n) s t → Readable t [a, x] [] → (t.sv = true ∨ regHasP n.toNat = false) →
      (t.inRegion = false ∨ n = 5 ∨ n = 6) → indexOk n.toNat (t.gVal x) = true →
      (n.toNat ≤ 26 → exec (.sysw a x n) s = .next ((writeReg s s.cur.1 t n.toNat (t.gVal x) (t.gVal a)).1.putThread
          (writeReg s s.cur.1 t n.toNat (t.gVal x) (t.gVal a)).2.advance)) ∧
      (27 ≤ n.toNat → exec (.sysw a x n) s = .next (parkIn (writeReg s s.cur.1 t n.toNat (t.gVal x) (t.gVal a)).1 s.curSlot
        (writeReg s s.cur.1 t n.toNat (t.gVal x) (t.gVal a)).2 (.ending none)))) ∧
    (∀ a x n, Issuable (.sysw a x n) s t → (t.sv = false ∧ regHasP n.toNat = true) ∨ (t.inRegion = true ∧ n ≠ 5 ∧ n ≠ 6) →
      exec (.sysw a x n) s = .next (takeTrap s s.curSlot t 1 ((encode (.sysw a x n)).zeroExtend 64))) ∧
    (∀ a x n, Issuable (.sysw a x n) s t → Readable t [a, x] [] → (t.sv = true ∨ regHasP n.toNat = false) →
      (t.inRegion = false ∨ n = 5 ∨ n = 6) → indexOk n.toNat (t.gVal x) = false →
      exec (.sysw a x n) s = .next (takeTrap s s.curSlot t 3 (t.gVal x))) ∧
    (∀ core x v, writeReg s core t 5 x v = (s, if (v.extractLsb' 0 3).toNat ≤ 5 then { t with rnd := v.extractLsb' 0 3 } else t) ∧
      writeReg s core t 6 x v = (s, { t with fpst := v.extractLsb' 8 6 ++ 0#2 ++ v.extractLsb' 0 6 }) ∧
      writeReg s core t 10 x v = (s, { t with psv := v.getLsbD 1 }) ∧
      writeReg s core t 11 x v = (s, { t with epc := v.extractLsb' 0 19 }) ∧
      writeReg s core t 12 x v = (s, { t with trapc := v.extractLsb' 0 10 }) ∧
      writeReg s core t 13 x v = (s, { t with trapv := v }) ∧ writeReg s core t 16 x v = (s, { t with m1 := v }) ∧
      writeReg s core t 17 x v = (s, { t with m2 := v }) ∧ writeReg s core t 18 x v = (s, { t with m3 := v }) ∧
      (writeReg s core t 25 x v = (s.setCore core { s.core core with svec := v.extractLsb' 2 17 }, t)) ∧
      ∀ n ∈ [0, 1, 2, 3, 4, 7, 9, 19], writeReg s core t n x v = (s, t))) ∧
  ∀ (s : State) (v : Word),
    (∀ core slot n x t, s.threadIn core slot = some t → indexOk (n : BitVec 6).toNat x = true → n.toNat ≤ 42 →
      exec (.systemRegisterWrite core slot n x v) s = .next ((writeReg s core t n.toNat x v).1.setThread core slot
        (writeReg s core t n.toNat x v).2)) ∧
    (∀ w x s1, w < 64 → x = { s.wl w with runSlots := v.extractLsb' 52 12, spillBase := v.extractLsb' 16 36, badSlots := [] } →
      ((s.wl w).liveRuns = [] → s1 = refill w 4097 (s.setWl w x) →
        exec (.wlspillWrite w v) s = .next (serveParkedPops w (s1.slots.length + 1) s1)) ∧
      ((s.wl w).runs = [] → (s.wl w).held = [] → s.waiters (popWaiter w) = [] →
        exec (.wlspillWrite w v) s = .next (s.setWl w x)) ∧
      ((s.wl w).liveRuns ≠ [] → exec (.wlspillWrite w v) s = .next s)) ∧
    (∀ w, w < 64 → ∃ s' : State, exec (.wlcfgWrite w v) s = .next s' ∧ (s.waiters (popWaiter w) = [] →
      (s'.wl w).en = v.getLsbD 63 ∧ (s'.wl w).tout = v.extractLsb' 52 4 ∧
      (wlQuiet s w = false → (s'.wl w).home = (s.wl w).home ∧ (s'.wl w).repro = (s.wl w).repro ∧ (s'.wl w).bound = (s.wl w).bound) ∧
      (wlQuiet s w = true → (s'.wl w).home = v.extractLsb' 42 6 ∧ (s'.wl w).repro = v.getLsbD 12 ∧
        (s'.wl w).bound = v.extractLsb' 0 12))) ∧
    (∀ n, n < 4 → exec (.slotresWrite n v) s =
      .next { s with slotres := NatMap.set s.slotres n (v.getLsbD 63, v.extractLsb' 48 8)
                     gangs := s.gangs.map fun e =>
                       (e.1, { e.2 with reserved := if e.2.reserved = some n then none else e.2.reserved }) }) ∧
    ∀ d, d < 8 → ∃ s' : State, exec (.clmapWrite d v) s = .next s' ∧ ∀ c, c < 8 → (s.die (s.modNum * 8 + d)).clmap.length = 8 →
      (s'.die (s.modNum * 8 + d)).clmap.getD c 16 = if (v.extractLsb' (8 * c) 5).toNat ≤ 16 ∧ clusterIdle s (s.modNum * 8 + d) c = true
        then v.extractLsb' (8 * c) 5 else (s.die (s.modNum * 8 + d)).clmap.getD c 16

/-- R256, R257, R451: TCSWAP by a privileged thread outside a region swaps a slot's context with a saved one. What it
holds is saved with its registers and its PC, and the slot is empty where no context was saved; a saved context goes on in the slot,
empty or left by the thread that is swapped out, with the registers it was saved with; nothing changes where both are empty. TCSWAP.k of an empty context has no effect. Operands that R451 forbids are access
faults. R171, R452: TLBINV waits while a store of its thread is to follow another thread's request at its home (R238). It parks its
thread until every
access and every command of its scope that goes through what it names has been performed, at once done where there is none, and
the translations it names are gone from its own core's TLB. -/
def Obligations.SwapsAndInvalidationsComplete : Prop :=
  ∀ (s : State) (t : Thread) (a b : BitVec 5), t.sv = true →
    (∀ n k, n = (t.gVal b).toNat → k = leadSlot s (s.cur.1 * 16 + (t.gVal a).toNat) → Issues (.tcswap a b 0) s t →
      Readable t [a, b] [] → t.inRegion = false → (t.gVal a).toNat < 16 → k / 16 = s.cur.1 → k ≠ s.curSlot →
      n < (s.core s.cur.1).tcxCount.toNat → contextMapped s (s.core s.cur.1) n = true →
      (NatMap.get s.slots k .empty = .empty → savedContext s s.cur.1 n = none → exec (.tcswap a b 0) s = .next (s.putThread t.advance)) ∧
      (∀ y, NatMap.get s.slots k .empty = .busy y → y.holdsUp = false → y.park = none → y.taken = none → y.counted = none → y.hints = [] →
        y.rgnSize = 0 → (s.core s.cur.1).products = [] → savedContext s s.cur.1 n = none → evictMapped s s.cur.1 n (some y) = true →
        (s.core s.cur.1).ctxCache.length < 4 →
        ∃ s1 : State, exec (.tcswap a b 0) s = .next (s1.putThread t.advance) ∧ NatMap.get s1.slots k .empty = .empty ∧
          ∃ z, savedContext s1 s.cur.1 n = some z ∧ Claims.sameRegisters z y ∧ z.pc = y.pc ∧ z.sv = y.sv ∧ z.psv = y.psv ∧ z.hnd = y.hnd ∧
            z.epc = y.epc ∧ z.trapc = y.trapc ∧ z.trapv = y.trapv) ∧
      (∀ y z, NatMap.get s.slots k .empty = .busy y → y.holdsUp = false → y.park = none → y.taken = none → y.counted = none →
        y.hints = [] → y.rgnSize = 0 → (s.core s.cur.1).products = [] → (s.core s.cur.1).ctxCache = [(n, some z)] →
        z.pair = false → z.departed = false → s.gang? z.gang.toNat = none → evictMapped s s.cur.1 n (some y) = true →
        ∃ (s1 : State) (u : Thread), exec (.tcswap a b 0) s = .next (s1.putThread t.advance) ∧
          NatMap.get s1.slots k .empty = .busy u ∧ Claims.sameRegisters u z ∧ u.pc = z.pc ∧ u.sv = z.sv ∧ u.hnd = z.hnd ∧
          u.epc = z.epc ∧ u.park = z.park ∧
          ∃ w, savedContext s1 s.cur.1 n = some w ∧ Claims.sameRegisters w y ∧ w.pc = y.pc ∧ w.sv = y.sv ∧ w.psv = y.psv ∧
            w.hnd = y.hnd ∧ w.epc = y.epc ∧ w.trapc = y.trapc ∧ w.trapv = y.trapv) ∧
      ∀ z, NatMap.get s.slots k .empty = .empty → (s.core s.cur.1).ctxCache = [(n, some z)] → z.pair = false → z.departed = false →
        s.gang? z.gang.toNat = none → evictMapped s s.cur.1 n none = true →
        ∃ (s1 : State) (u : Thread), exec (.tcswap a b 0) s = .next (s1.putThread t.advance) ∧ NatMap.get s1.slots k .empty = .busy u ∧
          Claims.sameRegisters u z ∧ u.pc = z.pc ∧ u.sv = z.sv ∧ u.hnd = z.hnd ∧ u.epc = z.epc ∧ u.park = z.park ∧
          savedContext s1 s.cur.1 n = none) ∧
    (Issues (.tcswap a b 1) s t → Readable t [a, b] [] → t.inRegion = false → t.gVal a = 0 →
      (t.gVal b).toNat < (s.core s.cur.1).tcxCount.toNat → contextMapped s (s.core s.cur.1) (t.gVal b).toNat = true →
      evictMapped s s.cur.1 (t.gVal b).toNat none = true → savedContext s s.cur.1 (t.gVal b).toNat = none →
      exec (.tcswap a b 1) s = .next (s.putThread t.advance)) ∧
    (∀ form, Issuable (.tcswap a b form) s t → Readable t [a, b] [] → t.inRegion = false →
      (form = 0 → 16 ≤ (t.gVal a).toNat → exec (.tcswap a b form) s = .next (takeTrap s s.curSlot t 3 (t.gVal a))) ∧
      (form = 1 → t.gVal a ≠ 0 → exec (.tcswap a b form) s = .next (takeTrap s s.curSlot t 3 (t.gVal a))) ∧
      (form = 1 → t.gVal a = 0 → (s.core s.cur.1).tcxCount.toNat ≤ (t.gVal b).toNat →
        exec (.tcswap a b form) s = .next (takeTrap s s.curSlot t 3 (t.gVal b)))) ∧
    ∀ sc f, Issues (.tlbinv a b sc f) s t → Readable t [a, b] [] → (f = 0 ∨ (t.gVal a).toNat < 256) →
      (f = 2 → isCanonical (t.gVal b) = true ∧ 0x2000_0000_0000 ≤ (t.gVal b).toNat) →
      (s.blocked t.uid = true → exec (.tlbinv a b sc f) s = .next (parkIn s s.curSlot t (.retry .stores))) ∧
      (s.blocked t.uid = false → ∃ (s' : State) (u : Thread) (l : List Awaited),
        exec (.tlbinv a b sc f) s = .next (parkIn s' s.curSlot u (if l = [] then .ending none else .invalidate l)) ∧
        (t.undo = [] → u = t) ∧
        (s.stores = [] → s.copies = [] → s.residents = [(s.curSlot, t)] →
          (∀ tr ∈ (s'.core s.cur.1).tlb, removes f ((t.gVal a).extractLsb' 0 8) (t.gVal b) tr = false) ∧
          ((∀ e ∈ s.everyThread, e.2.uid = t.uid) → l = [])) ∧
        (f = 0 →
          (∀ e ∈ s'.everyThread, ∀ r, coreInScope sc s.cur.1 e.1 = true → e.2.uid ≠ t.uid → e.2.park.bind Park.request = some r →
            (∃ p ∈ r.parts, 0x2000_0000_0000 ≤ p.va.toNat) → Awaited.access e.2.uid e.2.issued ∈ l) ∧
          ∀ c ∈ s'.copies, coreInScope sc s.cur.1 c.core = true → (∃ v ∈ c.vas, 0x2000_0000_0000 ≤ v.toNat) →
            Awaited.command c.owner c.issue ∈ l)) ∧
      ∀ (s2 : State) (core slot : Nat) (u : Thread) (l : List Awaited), slot < 16 → s2.threadIn core slot = some u →
        u.park = some (.invalidate l) → u.closing = false →
        (l.any (stillAwaited s2) = true → exec (.accessCompletion core slot) s2 = .next s2) ∧
        (l.any (stillAwaited s2) = false → exec (.accessCompletion core slot) s2 = Claims.resumes s2 core slot u)

/-! ### What ends a walk, a remote access, a wait, a core's time awake -/

/-- R163, R168, R161, R158: one of the eight walkers of a die serves a miss; the walk that ends at a page puts its translation, with
A set and D too for a write, into the TLB and wakes its thread; a fault traps it, a poisoned entry is a detected error, a page
that is away parks it again; in a space that has no root every page is away for good: a page fault. The transfers of a walk are
counted (R58, R61). A miss that no walker serves waits. R151: a load sent to another core's local memory completes
once it has been delivered (R24) and a window of that core admits it, and is a window refusal where none does.
R28, R67: a request, a push or a message that no path delivers within 1 ms, and a CXL device that does not respond, are detected
errors of the thread, a CXL device's once 1 ms has passed; a packet that has come to its node waits for no path. R241: WAITA on CXL memory returns when its word differs, and is a
detected error when its word is poisoned; a host write of back-invalidate memory is made at once, and a WAITA at scope .sy on a
line that it writes reads its word again. R152: a core all of whose threads have been parked long
enough sleeps at the least of MAXD and their SLPREQ. R262: the trailing thread of a redundant pair, in turns of its own, issues
one instruction after another that the leading one has issued, and at the comparator, where the leading one waits for it, the
instruction is executed once; where the comparator finds them apart (R260) a detected error is consumed. R260: an upset
leaves one register with bad parity; a single-bit error corrected on its way to a thread is charged to its job. -/
def Obligations.CoreEventsComplete : Prop :=
  (∀ (s : State) (core slot k : Nat) (t : Thread), slot < 16 → k = core * 16 + slot → s.threadIn core slot = some t →
    (walkServed s k = false → exec (.walkComplete core slot) s = .next s) ∧
    (∀ va rd wr, t.park = some (.walk va rd wr) → cachedTrans s core t.asid va wr = none →
      missesOf s (State.dieOf core) = [(k, t.asid, va.toNat % 2 ^ 52 / 0x2_0000)] →
      (∀ tr, walk s t.asid va ⟨rd, wr, t.sv⟩ = .page tr → tr.covers t.asid va = true → (wr = true → Pte.wr tr.leaf = true) →
        ∃ (s' : State) (tr' : Trans), exec (.walkComplete core slot) s = .next s' ∧ cachedTrans s' core t.asid va wr = some tr' ∧
          tr'.base = tr.base ∧ tr'.size = tr.size ∧ tr'.leaf = tr.leaf ||| 1#64 ||| (if wr then 2#64 else 0#64) ∧
          ∃ u, s'.threadIn core slot = some u ∧ u.park = none ∧ u.pc = t.pc) ∧
      (∀ c, walk s t.asid va ⟨rd, wr, t.sv⟩ = .fault c →
        exec (.walkComplete core slot) s = .next (takeTrap (countWalk s t.asid va) k t c va)) ∧
      ((NatMap.get s.asroot t.asid.toNat (false, 0)).1 = false → exec (.walkComplete core slot) s = .next (takeTrap s k t 4 va)) ∧
      (walk s t.asid va ⟨rd, wr, t.sv⟩ = .poisoned →
        exec (.walkComplete core slot) s = .next (consumeError (countWalk s t.asid va) k t va)) ∧
      (∀ page entry old, walk s t.asid va ⟨rd, wr, t.sv⟩ = .wait page entry old → exec (.walkComplete core slot) s =
        .next (parkIn (startMove (countWalk s t.asid va) t.asid page entry old) k t (.retry (.page t.asid page))))) ∧
    (∀ r d signed sc p s0 s1, t.park = some (.remote r) → r = ⟨.load d signed, [p], sc⟩ → Place.tier p.loc = .localMem →
      Place.core p.loc ≠ core → s0 = Claims.atHome s t r → s1 = s0.drainTo t.uid [(p.loc, p.len)] →
      (deliveredTo s core t r = false → exec (.remoteAccess core slot) s = .next s) ∧
      (deliveredTo s core t r = true → (s.arrive t r).behind t r = true →
        exec (.remoteAccess core slot) s = .next (s.arrive t r)) ∧
      (deliveredTo s core t r = true → (s.arrive t r).behind t r = false →
        (∃ w ∈ (s.core (Place.core p.loc)).lmwin, windowAdmits w (Place.core p.loc) core (p.loc % 0x8_0000) p.len true false = true) →
        badPart s0 t r = none → reachable s0 p.loc = true → s1.poisonIn p.loc p.len = false → t.keeps d →
        t.closing = false → 0 < p.len → p.len ≤ 8 →
        exec (.remoteAccess core slot) s =
          .next ((s1.putSlot k (t.wrote d (Claims.loaded signed (ownView s1 t p.loc p.len))).advance).wake k)) ∧
      (deliveredTo s core t r = true → (s.arrive t r).behind t r = false →
        (∀ w ∈ (s.core (Place.core p.loc)).lmwin, windowAdmits w (Place.core p.loc) core (p.loc % 0x8_0000) p.len true false = false) →
        exec (.remoteAccess core slot) s = .next (takeTrap (({ s.arrive t r with
          arrived := (s.arrive t r).arrived.filter fun x => decide (x ≠ (t.uid, t.issued)) } : State).unload t.uid) k t 6 p.va))) ∧
    (∀ r p pk, t.park = some pk → (pk = .access r ∨ pk = .remote r) → r.parts = [p] →
      (pk.cutOff s core t ≠ [] ↔ core / 1024 = s.modNum ∧ reachable s p.loc = true ∧ nodeOf s p.loc ≠ coreNode core ∧
        heldAt s core t (nodeOf s p.loc) ≠ nodeOf s p.loc ∧
        pathTo s (heldAt s core t (nodeOf s p.loc)) (nodeOf s p.loc) = false) ∧
      (pk.cutOff s core t ≠ [] → t.lastIssue.getD t.readyAt + 800000 ≤ s.now →
        exec (.requestTimeout core slot) s = .next (consumeError s k t p.va)) ∧
      (pk.cutOff s core t = [] ∨ s.now < t.lastIssue.getD t.readyAt + 800000 →
        exec (.requestTimeout core slot) s = .next s)) ∧
    (∀ m p since w, t.park = some (.push m p since w) → t.lastIssue.getD t.readyAt + 800000 ≤ s.now →
      (Park.push m p since w).cutOff s core t ≠ [] →
      exec (.requestTimeout core slot) s = .next (consumeError s k t (p.item.bits.extractLsb' 0 64))) ∧
    (∀ m n due b, t.park = some (.send m n due b) → t.lastIssue.getD t.readyAt + 800000 ≤ s.now → due + 800000 ≤ s.now →
      (Park.send m n due b).cutOff s core t ≠ [] → exec (.requestTimeout core slot) s = .next (consumeError s k t 0)) ∧
    (∀ r p, t.park = some (.access r) → r.parts = [p] → Place.tier p.loc = .cxl →
      (t.lastIssue.getD t.readyAt + 800000 ≤ s.now → exec (.cxlDeviceTimeout core slot) s = .next (consumeError s k t p.va)) ∧
      (s.now < t.lastIssue.getD t.readyAt + 800000 → exec (.cxlDeviceTimeout core slot) s = .next s)) ∧
    (∀ d e p sc n, t.park = some (.home ⟨.waita d e, [p], sc⟩ n) → Place.tier p.loc = .cxl →
      (s.poisonIn p.loc 8 = true → exec (.waitaReread core slot) s = .next (consumeError s k t p.va)) ∧
      (s.poisonIn p.loc 8 = false → wordOf (ownView s t p.loc 8) = e → exec (.waitaReread core slot) s = .next s) ∧
      (s.poisonIn p.loc 8 = false → wordOf (ownView s t p.loc 8) ≠ e → t.keeps d → t.closing = false →
        exec (.waitaReread core slot) s =
          .next ((s.putSlot k (t.wrote d (wordOf (ownView s t p.loc 8))).advance).wake k)) ∧
      ∀ addr bytes s1, s.residents = [(k, t)] → p.loc / 64 ∈ State.touchedUnits (Place.cxl s.modNum addr) bytes.length →
        s1 = s.write (Place.cxl s.modNum addr) bytes →
        (sc ≠ some 8 → exec (.hostWriteBackInvalidate addr bytes) s = .next s1) ∧
        (sc = some 8 → s1.poisonIn p.loc 8 = true → exec (.hostWriteBackInvalidate addr bytes) s = .next (consumeError s1 k t p.va)) ∧
        (sc = some 8 → s1.poisonIn p.loc 8 = false →
          (wordOf (ownView s1 t p.loc 8) = e → exec (.hostWriteBackInvalidate addr bytes) s = .next s1) ∧
          (wordOf (ownView s1 t p.loc 8) ≠ e → t.keeps d → t.closing = false → exec (.hostWriteBackInvalidate addr bytes) s =
            .next ((s1.putSlot k (t.wrote d (wordOf (ownView s1 t p.loc 8))).advance).wake k)))) ∧
    (∀ at', (∀ n < 16, n ≠ slot → s.threadIn core n = none) → t.park.isSome = true → t.pair = false →
      t.lastIssue = some at' → at' + 2 ^ (s.core core).delay.toNat ≤ s.now → (s.core core).asleep = 0 →
      (s.core core).products = [] → (s.core core).maxd ≠ 0 → t.slpreq ≠ 0 →
      exec (.coreSleep core) s = .next (s.modCore core fun c =>
        { c with asleep := if t.slpreq.toNat < c.maxd.toNat then t.slpreq else c.maxd }))) ∧
  ∀ (s : State) (addr : Nat) (bytes : List Byte), s.residents = [] → exec (.hostWriteBackInvalidate addr bytes) s =
    .next (s.write (Place.cxl s.modNum addr) bytes) ∧
  (∀ (s s0 acc : State) (c c0 n lead : Nat) (t : Thread), s.stopped = false → issuable s = some c0 →
    ((∃ rest, s.agenda = .issue c :: rest ∧ issues s c = true ∧ s0 = { s with agenda := rest }) ∨
      (c = c0 ∧ s0 = s ∧ ∀ c' rest, s.agenda = .issue c' :: rest → issues s c' = false)) →
    pickSlot s0 c s.now (issueOrder (s.core c).lastSlot) s0 = (some (n, t), acc) →
    NatMap.get acc.slots (c * 16 + n) .empty = .trailing lead →
    (∀ value more, t.trail.lag = value :: more → ∃ s1 : State, step s = .next (settle s1) ∧ s1.mem = acc.mem ∧
      NatMap.get s1.slots lead .empty = .busy { t with trail := ⟨more, s.now + 8, t.trail.issued + 1, t.trail.phase + 1⟩ }) ∧
    (t.trail.lag = [] → ∃ (b : State) (v : Thread),
      Claims.EndsTurn b lead v (step s) (exec (issuedInstr (fetchedWord v)) (b.putSlot lead v)) ∧
      b.cur = (c, lead % 16) ∧ b.mem = acc.mem ∧ v = fillBuffer b c { t with
        park := none, lastIssue := some s.now, trail := ⟨[], s.now + 8, t.trail.issued + 1, t.trail.phase + 1⟩ })) ∧
  ∀ (s s1 : State) (k : Nat) (t : Thread) (rest : List Turn) (x : Turn), s.agenda = x :: rest → issuable s = none → overdue s = none →
    s.stopped = false → s1 = { s with agenda := rest, issueFrom := s.now + 1 } → NatMap.get s.slots k .empty = .busy t →
    (x = .mismatch k → t.pair = true → t.park = some .compare → t.trail.lag = [] → step s = .next (settle (consumeError s1 k t 0))) ∧
    (∀ r, x = .upset k false r → r < 32 → r ≠ 0 → step s = .next (s1.putSlot k { t with badG := t.badG ||| (1#32 <<< r) })) ∧
    (∀ r, x = .upset k true r → r < 16 → step s = .next (s1.putSlot k { t with badV := t.badV ||| (1#16 <<< r) })) ∧
    (x = .repaired k → step s = .next (charge s1 t.job.toNat 1 .corrected))

/-! ### Links and HBM -/

namespace Sys2Proof.Claims

/-- Parts of a flit that are no good (R20, R25): those whose CRC fails, and those of a bad rail. -/
def badParts (l : LinkState) (bad : BitVec 5) : Nat := ((List.range 5).filter fun i => (bad ||| l.railBad).getLsbD i).length

/-- Flits of a packet with that payload on a bridge, or on a fabric link (R21). -/
def flits (n payload : Nat) : Nat := if n < 14 then 1 + payload / 64 else (64 + payload + 255) / 256

/-- What link `n` has of the packet it brings when one more flit of it, its `had + 1`th, has been accepted: the packet still
begun, its flits, the packets delivered (R21, R24). -/
def begunAfter (l : LinkState) (n had : Nat) (c : Cargo) : Option Cargo × Nat × Nat :=
  if flits n (cargoPayload c) ≤ had + 1 then (none, 0, l.delivered + 1) else (some c, had + 1, l.delivered)

/-- The key of the channel that holds an HBM address (R57). -/
def channelOf (pa : Nat) : Nat := hbmStack pa * 32 + hbmChannel pa

end Sys2Proof.Claims

/-- R20, R21, R23 to R27, R31: a link that is up accepts every flit of which at most one part is bad and which it has not
accepted before, rebuilt and counted where one is: the flit that it expects is the next of its packet, which is delivered
with the last that its payload asks for, 4,096 bytes of it at most; one ahead of it waits for those before it. A flit
accepted before is dropped, one with more bad parts refused. An acknowledgement clears the flit's count of replays; a flit
that has been replayed 16 times and is not accepted takes the link down, and with it the packet begun, and a spare link of
the same I/O die and partner takes its place. A retrain ends up, degraded where a rail is bad, or, the third time in
succession that it fails, down; a failing lane takes a spare of its rail, or marks it bad. R22, R30: an access that a fabric
link brings whole from a core of another module is held on its I/O die, crosses the bridges flit by flit, and is performed when it
has come whole to its die: a store that is admitted is made, one that is not admitted changes no memory. That both directions of
a link number their flits together, and what a payload is, are the model's choices (log entry 15). -/
def Obligations.LinksDeliverOrGoDown : Prop :=
  ∀ (s : State) (n : Nat) (l : LinkState), n < 30 → s.link n = l →
    (∀ seq bad packet, 2 ≤ l.state.toNat → Claims.badParts l bad ≤ 1 → l.ahead = [] → s.residents = [] → s.stores = [] →
      (seq = l.expect → ∃ s' : State, exec (.flitReceive n seq bad packet) s = .next s' ∧
        (s'.link n).expect = l.expect + 1 ∧ (s'.link n).ahead = [] ∧
        (s'.link n).rebuild = (if Claims.badParts l bad = 1 ∧ l.rebuild ≠ 0xFFFF then l.rebuild + 1 else l.rebuild) ∧
        (s'.link n).state = l.state ∧ (s'.link n).railBad = l.railBad ∧ (s'.link n).spares = l.spares ∧
        (s'.link n).replay = l.replay ∧ (s'.link n).retrains = l.retrains ∧
        (∀ c, (packet = .first c ∧ l.begun = none ∧ cargoPayload c ≤ 4096 ∧ cargoPayload c % 64 = 0) ∨
            (packet = .next ∧ l.begun = some c) →
          ((s'.link n).begun, (s'.link n).partFlits, (s'.link n).delivered) =
            Claims.begunAfter l n (if packet = .next then l.partFlits else 0) c ∧
          ((s'.link n).begun = some c ∨ n < 14 → s'.mem = s.mem ∧ s'.inbound = s.inbound) ∧
          ∀ a loc op, c = .ask a loc op → (s'.link n).begun = none → 14 ≤ n → nodeOf s loc ≠ 8 + n % 2 →
            s'.mem = s.mem ∧ s'.inbound = s.inbound ++ [⟨a, loc, op, nodeOf s loc, 8 + n % 2, 0, 0, s.now, none⟩]) ∧
        (packet = .request ∨ (∃ c, packet = .first c ∧ l.begun.isSome = true) ∨ (packet = .next ∧ l.begun = none) →
          s'.mem = s.mem ∧ s'.slots = s.slots ∧ (s'.link n).begun = l.begun ∧ (s'.link n).partFlits = l.partFlits ∧
          (s'.link n).delivered = l.delivered) ∧
        ∀ x bytes, packet = .passing → n < 14 → s.inbound = [x] → x.order = none → nextLink s x.node x.dest = some n →
          acrossBridge n x.node = some x.dest → x.op = .store bytes →
          (x.link = n → x.flits + 1 < Claims.flits n (cargoPayload (.ask x.who x.loc x.op)) →
            s'.mem = s.mem ∧ s'.inbound = [{ x with flits := x.flits + 1 }] ∧ (s'.link n).delivered = l.delivered) ∧
          (x.link = n → Claims.flits n (cargoPayload (.ask x.who x.loc x.op)) ≤ x.flits + 1 →
            s'.inbound = [] ∧ (s'.link n).delivered = l.delivered + 1 ∧
            (foreignAdmits s x.who x.loc x.op = true → reachable s x.loc = true →
              ∀ j < bytes.length, s'.mem.byte (x.loc + j) = bytes.getD j 0) ∧
            (foreignAdmits s x.who x.loc x.op = false → s'.mem = s.mem))) ∧
      (seq ≠ l.expect → (seq - l.expect).toNat < 0x800 → ∃ s' : State, exec (.flitReceive n seq bad packet) s = .next s' ∧
        s'.mem = s.mem ∧ s'.link n = { l with
          rebuild := if Claims.badParts l bad = 1 ∧ l.rebuild ≠ 0xFFFF then l.rebuild + 1 else l.rebuild
          ahead := [(seq, packet)] })) ∧
    (∀ seq bad packet,
      (l.state.toNat < 2 ∨ 0x800 ≤ (seq - l.expect).toNat ∨ (∃ b, (seq, b) ∈ l.ahead) ∨
        (2 ≤ Claims.badParts l bad ∧ replayCount l seq < 16)) →
      exec (.flitReceive n seq bad packet) s = .next s) ∧
    (∀ seq bad packet, 2 ≤ l.state.toNat → alreadyAccepted l seq = false → 2 ≤ Claims.badParts l bad → 16 ≤ replayCount l seq →
      ∃ s' : State, exec (.flitReceive n seq bad packet) s = .next s' ∧ (s'.link n).state = 0) ∧
    (∀ seq, exec (.flitAcknowledge n seq) s =
      .next (s.setLink n { l with lastAck := seq, replays := l.replays.filter fun e => decide (e.1 ≠ seq) })) ∧
    (2 ≤ l.state.toNat → (replayCount l (l.lastAck + 1) < 16 ∨ alreadyAccepted l (l.lastAck + 1) = true) →
      ∃ l' : LinkState, exec (.flitReplay n 1) s = .next (s.setLink n l') ∧
      l'.state = l.state ∧ replayCount l' (l.lastAck + 1) = replayCount l (l.lastAck + 1) + 1 ∧
      l'.replay = if l.replay = 0xFFFF then l.replay else l.replay + 1) ∧
    (2 ≤ l.state.toNat → 16 ≤ replayCount l (l.lastAck + 1) → alreadyAccepted l (l.lastAck + 1) = false →
      ∃ s' : State, exec (.flitReplay n 1) s = .next s' ∧ s'.mem = s.mem ∧ s'.slots = s.slots ∧
        (s'.link n).state = 0 ∧ (s'.link n).begun = none ∧ (s'.link n).partFlits = 0 ∧ (s'.link n).ahead = [] ∧
        (s'.link n).discarded = (if l.begun = none then l.discarded else l.discarded + 1) ∧
        ∀ m x, n = 14 + m → isSpare s m = false → x < 16 → isSpare s x = true → x % 2 = m % 2 →
          partnerOf s x = partnerOf s m → (s.link (14 + x)).isUp = true → x ∉ s.inService →
          ∃ y ∈ s'.inService, isSpare s y = true ∧ y % 2 = m % 2 ∧ partnerOf s y = partnerOf s m ∧ y ∉ s.inService) ∧
    (l.state ≠ 0 → exec (.linkRetrain n true []) s =
      .next (s.setLink n { l with retrains := 0, failedRetrains := 0, state := if l.railBad = 0 then 2 else 3 })) ∧
    (∀ lane, l.state ≠ 0 → lane < 5 * (if n < 14 then 64 else 8) → l.spares.length = 5 →
      ∃ l' : LinkState, exec (.linkRetrain n true [lane]) s = .next (s.setLink n l') ∧ l'.retrains = 0 ∧ l'.failedRetrains = 0 ∧
        (l.spares.getD (lane / (if n < 14 then 64 else 8)) 0 ≠ 0 → l'.railBad = l.railBad ∧
          l'.spares = l.spares.set (lane / (if n < 14 then 64 else 8)) (l.spares.getD (lane / (if n < 14 then 64 else 8)) 0 - 1)) ∧
        (l.spares.getD (lane / (if n < 14 then 64 else 8)) 0 = 0 → l'.spares = l.spares ∧ l'.state = 3 ∧
          l'.railBad = l.railBad ||| (1#5 <<< (lane / (if n < 14 then 64 else 8))))) ∧
    ∀ lanes, l.state ≠ 0 → ∃ s' : State, exec (.linkRetrain n false lanes) s = .next s' ∧
      (s'.link n).retrains = (if l.retrains = 15 then l.retrains else l.retrains + 1) ∧
      (s'.link n).state = if 2 ≤ l.failedRetrains then 0 else 1

/-- R58 to R62, R261: each line of HBM that a request touches is a transfer, which its channel counts; one whose first attempt
passes changes nothing more; what array ECC corrects leaves memory as it is, what it
cannot correct poisons the 64 bytes; a transfer that fails four times delivers them poisoned to the request that reads them, a
walk's, a device block's or the host's next read where no thread's request and no copy does, and memory stays as it is (which of
several requests is the model's choice, log entry 16). The count wraps after 2^20 with the lane failures cleared; the third failure of a lane makes it
due, and a lane that is due takes a spare. The harrow counts what it finds in local memory, poisoning what cannot be corrected. R63 to R65: a record of an error log
that is enabled is the 32 bytes of R64 in the ring, whose head and the die count it. -/
def Obligations.HbmCorrectsOrPoisons : Prop :=
  ∀ (s : State), (∀ d, (s.die d).elogEn = false) →
    (∀ pa, pa < 0x180_0000_0000 → pa % 64 = 0 → s.modNum < 8 →
      countTransfers s (Place.hbm s.modNum pa) 64 = s.setChannel (Claims.channelOf pa)
        { s.channel (Claims.channelOf pa) with transfers := (s.channel (Claims.channelOf pa)).transfers + 1 }) ∧
    (∀ pa job, pa < 0x180_0000_0000 → exec (.hbmTransferRead pa [] .clean job) s = .next s) ∧
    (∀ pa attempts ecc job, pa < 0x180_0000_0000 → ∃ s' : State, exec (.hbmTransferRead pa attempts ecc job) s = .next s' ∧
      s'.mem = s.mem ∧ (s'.channel (Claims.channelOf pa)).transfers = (s.channel (Claims.channelOf pa)).transfers ∧
      (ecc = .uncorrectable → (∃ i < 4, attempts.getD i [] = []) → s'.poisonIn (Place.hbm s.modNum pa) 1 = true) ∧
      (ecc ≠ .uncorrectable → (∃ i < 4, attempts.getD i [] = []) → s'.poisoned = s.poisoned) ∧
      ((∀ i < 4, ∃ l ∈ attempts.getD i [], l < 64) → s'.poisoned = s.poisoned ∧
        (∀ t, lineReader s (Place.hbm s.modNum pa / 64) job = some t →
          (t.uid, t.issued, Place.hbm s.modNum pa / 64) ∈ s'.badTransfers) ∧
        (lineReader s (Place.hbm s.modNum pa / 64) job = none → s.copies = [] →
          s'.poisonRead (Place.hbm s.modNum pa) 1 = true ∧
          (s.poisonIn (Place.hbm s.modNum pa) 1 = false →
            (s'.spendBad (Place.hbm s.modNum pa) 1).poisonRead (Place.hbm s.modNum pa) 1 = false)))) ∧
    (∀ pa lane job a, pa < 0x180_0000_0000 → lane < 64 →
      NatMap.get (s.channel (Claims.channelOf pa)).failures lane (0, 0) = (2, a) → (s.channel (Claims.channelOf pa)).due = [] →
      (s.channel (Claims.channelOf pa)).spares ≠ 0 → ∃ s' : State, exec (.hbmTransferRead pa [[lane]] .clean job) s = .next s' ∧
        (s'.channel (Claims.channelOf pa)).due = [(lane, pa / 64 * 64)]) ∧
    (∀ stack channel, stack < 24 → channel < 32 →
      (2 ^ 20 ≤ (s.channel (stack * 32 + channel)).transfers → exec (.transferCountWrap stack channel) s =
        .next (s.setChannel (stack * 32 + channel) { s.channel (stack * 32 + channel) with
          transfers := (s.channel (stack * 32 + channel)).transfers - 2 ^ 20, failures := [] })) ∧
      ((s.channel (stack * 32 + channel)).transfers < 2 ^ 20 → exec (.transferCountWrap stack channel) s = .next s)) ∧
    (∀ stack channel lane addr n, stack < 24 → channel < 32 → (s.channel (stack * 32 + channel)).due = [(lane, addr)] →
      (s.channel (stack * 32 + channel)).spares = n →
      ∃ s' : State, exec (.laneRemap stack channel) s = .next s' ∧ (s'.channel (stack * 32 + channel)).due = [] ∧
        (s'.channel (stack * 32 + channel)).spares = n - 1 ∧ s'.mem = s.mem) ∧
    (∀ core off, core < 8192 → core / 1024 = s.modNum → off < 0x8_0000 → s.inPod s.modNum = true →
      (s.die (State.dieOf core)).harrowEn = true →
      exec (.harrowScrub (Place.lm core off) .clean) s = .next s ∧
      (∃ s' : State, exec (.harrowScrub (Place.lm core off) .corrected) s = .next s' ∧ s'.mem = s.mem ∧ s'.poisoned = s.poisoned ∧
        (s'.die (State.dieOf core)).cor = if (s.die (State.dieOf core)).cor = BitVec.allOnes 32 then (s.die (State.dieOf core)).cor
          else (s.die (State.dieOf core)).cor + 1) ∧
      ∃ s' : State, exec (.harrowScrub (Place.lm core off) .uncorrectable) s = .next s' ∧ s'.poisonIn (Place.lm core off) 1 = true ∧
        (s'.die (State.dieOf core)).uncor = if (s.die (State.dieOf core)).uncor = BitVec.allOnes 32 then (s.die (State.dieOf core)).uncor
          else (s.die (State.dieOf core)).uncor + 1) ∧
    ∀ (transfer : Bool) (addr stack channel lane kind attempts base n : Nat) (d : Die), d = s.die (s.modNum * 8 + stack / 3) →
      base = Place.hbm s.modNum (d.elogBase.toNat * 2 ^ 16 + if transfer then 0x8000 else 0) → kind < 2 → s.residents = [] → s.inbound = [] →
      s.inPod s.modNum = true → s.modNum < 8 → n = (if transfer then d.transferRecords else d.arrayRecords) →
      ∀ s1, s1 = s.setDie (s.modNum * 8 + stack / 3) { d with elogEn := true } → reachable s1 base = true →
        (logRecordOf s1 transfer addr stack channel lane kind attempts).bytes (base + 32 + 32 * (n % 1023)) 32 =
          toBytes 8 n ++ toBytes 8 addr ++ toBytes 1 stack ++ toBytes 1 channel ++ toBytes 1 lane ++ toBytes 1 kind ++
            toBytes 4 attempts ++ List.replicate 8 0 ∧
        (logRecordOf s1 transfer addr stack channel lane kind attempts).word base = BitVec.ofNat 64 (n + 1) ∧
        (let d' := (logRecordOf s1 transfer addr stack channel lane kind attempts).die (s.modNum * 8 + stack / 3)
         (if transfer then d'.transferRecords else d'.arrayRecords) = n + 1)

/-! ### Reset, bring-up, power -/

/-- R36, R98, R153, R176, R182, R199, R261, R468: after power-on nothing is booted, no thread runs, no job lives, no worklist or intake queue is
enabled, every word is full, no line is poisoned, a core's SLPCFG is MAXD 1 and DELAY 4, its windows shut, its SVEC zero, a die's
pool starts at 64 units, its harrow runs at rate 8; local memory, B stores and codebooks read zero; memory has its canonical
form. The values of log entry 3 are the model's choice. -/
def Obligations.ResetValues : Prop :=
  State.reset.status = 0 ∧ State.reset.ready = false ∧ State.reset.decoders = [] ∧ State.reset.slots = [] ∧ State.reset.jobs = [] ∧ State.reset.gangs = [] ∧ State.reset.emptyWords = [] ∧
    State.reset.poisoned = [] ∧ State.reset.mem.wf = true ∧ (∀ a, a < Place.unit → State.reset.mem.byte a = 0) ∧
    (∀ c off, off < 0x40_0000 → State.reset.mem.byte (Place.bstore c off) = 0) ∧
    (∀ w, (State.reset.wl w).en = false ∧ (State.reset.wl w).window = [] ∧ (State.reset.wl w).held = [] ∧ (State.reset.sluice w).en = false) ∧
    (∀ j, (State.reset.job j).live = false) ∧
    (∀ c, (State.reset.core c).maxd = 1 ∧ (State.reset.core c).delay = 4 ∧ (State.reset.core c).lmwin = [0, 0, 0, 0] ∧
      (State.reset.core c).svec = 0 ∧ (State.reset.core c).mailbox = [] ∧ (State.reset.core c).tcxCount = 0 ∧
      (State.reset.core c).codebooks = List.replicate 8 (List.replicate 16 0)) ∧
    ∀ d, (State.reset.die d).tpLow = 64 ∧ (State.reset.die d).tpOpen = false ∧ (State.reset.die d).tiles = [] ∧
      (State.reset.die d).harrowEn = true ∧ (State.reset.die d).harrowRate = 8 ∧ (State.reset.die d).cor = 0 ∧
      (State.reset.die d).uncor = 0

/-- R48, R50, R51, R468, R469: power-good resets the module and starts its bring-up, with STATE 1 and the links and decoders not yet
there; bring-up whose steps pass takes it to STATE 2, MHL trained meanwhile, with the links up, the decoders programmed, a new lower
tree signed by one leaf of the upper, local memory and B stores of the module zero, and the CXL tier and the other modules'
memories as they were; where copy A does not pass and copy B does it loads B, with B's configuration. A working fabric link that
does not train is left down, and a spare takes its place (R31). Where neither firmware copy verifies, bring-up ends in STATE 3 with
BOOTERR 1, where both verify with a version below the fused minimum with BOOTERR 2. That reset keeps the images, the boot plan and
the other modules' memories, that a step which fails still trains MHL, and how many turns bring-up takes, are readings of the model
(log entry 9). R34, R35: 0x5A in RSTCTL
from the accepted host does the same as power-good, another value nothing. R48: a training of MHL that has failed is retried once a
second, and bring-up that has ended without it is not ended again. R16, R55, R264, R265: a sensor at 115 °C and a fatal error stop every core with
STATE 4 and assert the trigger, whose header is written once; assertions of one cycle count as one, and a core between a hint and its
instruction stops after that (R310). R15, R16, R117: the controllers ask for an issue-skip factor,
the power controller for a larger one once the excess has lasted 2 ms; that the event names the die's factor, that the first
excess is the one timed, and that its expiry clears it are the model's choices (log entry 14). -/
def Obligations.BringUpAndPower : Prop :=
  ∀ s : State,
    (∃ s1 : State, exec .powerGood s = .next s1 ∧ s1.status = 1 ∧ s1.booterr = 0 ∧ s1.mhl = false ∧ s1.ready = false ∧
      s1.slots = [] ∧ s1.jobs = [] ∧ s1.gangs = [] ∧ s1.worklists = [] ∧ s1.decoders = [] ∧ s1.stores = [] ∧ s1.booting = 1 ∧
      s1.images = s.images ∧ s1.boot = s.boot ∧ s1.topleft = s.topleft ∧ s1.fusedMin = s.fusedMin ∧ s1.modNum = s.modNum ∧
      (∀ n, (s1.link n).state = 0) ∧
      (∀ w, w ∈ s1.emptyWords ↔ w ∈ s.emptyWords ∧ outlasts s (8 * w) = true) ∧
      (∀ a, Place.lm (s.modNum * 1024) 0 ≤ a → a < Place.lm (s.modNum * 1024 + 1024) 0 → s1.mem.byte a = 0) ∧
      (∀ c off, c / 1024 = s.modNum → off < 0x40_0000 → s1.mem.byte (Place.bstore c off) = 0) ∧
      (∀ c off, c < 8192 → c / 1024 ≠ s.modNum → off < 0x8_0000 → s1.mem.byte (Place.lm c off) = s.mem.byte (Place.lm c off)) ∧
      ∀ m off, m < 8 → off < 2 ^ 52 → s.modNum < 8 → s1.mem.byte (Place.cxl m off) = s.mem.byte (Place.cxl m off)) ∧
    (∀ rest s0, s.agenda = .boot :: rest → overdue s = none → s.stopped = false → issuable s = none →
      s0 = { s with agenda := rest, issueFrom := s.now + 1 } → step s = .next (bootTurn s0)) ∧
    (s.images = [] → s.fusedMin = 0 → s.boot.hbmFails = false → s.boot.dieFails = false → s.boot.mhlFails = 0 → s.boot.made = [] →
      s.boot.treeFails = false → s.topleft ≠ 0 → s.status = 1 → s.booterr = 0 → s.booting = 1 → s.mhl = false → s.ready = false →
      (∀ n, (s.link n).state = 0) → s.inService = [] →
      (s.boot.copyA.1 = true → s.boot.down = [] →
        (bootTurn s).status = 1 ∧ (bootTurn s).mhl = true ∧ (bootTurn s).ready = false ∧ (bootTurn s).booting ≠ 0 ∧
        ∃ s' : State, bootTurn (bootTurn s) = s' ∧ s'.status = 2 ∧ s'.booterr = 0 ∧ s'.mhl = true ∧ s'.booting = 0 ∧
        s'.fwVersion = s.boot.copyA.2 ∧ s'.topleft = s.topleft - 1 ∧ s'.lowerLeft = 1024 ∧ s'.ready = true ∧ s'.decoders = s.boot.decoders ∧
        s'.mem = s.mem ∧ s'.emptyWords = s.emptyWords ∧ s'.slots = s.slots ∧ s'.jobs = s.jobs ∧ (∀ n < 30, (s'.link n).state = 2)) ∧
      (s.boot.copyA.1 = false → s.boot.copyB.1 = true →
        (s.boot.down = [] → ∃ s' : State, bootTurn (bootTurn s) = s' ∧ s'.status = 2 ∧ s'.booterr = 0 ∧
          s'.fwVersion = s.boot.copyB.2 ∧ s'.decoders = s.boot.decodersB) ∧
        ∀ m, s.boot.down = [14 + m] → m < 16 → isSpare s m = false → ∃ s' : State, bootTurn (bootTurn s) = s' ∧ s'.status = 2 ∧
          (s'.link (14 + m)).state = 0 ∧
          ∀ x, x < 16 → isSpare s x = true → x % 2 = m % 2 → partnerOf s x = partnerOf s m →
            ∃ y ∈ s'.inService, isSpare s y = true ∧ y % 2 = m % 2 ∧ partnerOf s y = partnerOf s m)) ∧
    (s.images = [] → s.boot.copyA.1 = true → s.boot.copyB.1 = true → s.boot.copyA.2.toNat < s.fusedMin.toNat →
      s.boot.copyB.2.toNat < s.fusedMin.toNat → s.boot.mhlFails = 0 → s.booting = 1 → s.ready = false →
      ∃ s' : State, bootTurn s = s' ∧ s'.status = 3 ∧ s'.booterr = 2 ∧ s'.mhl = true ∧ s'.ready = false ∧ s'.booting = 0) ∧
    (s.images = [] → s.boot.copyA.1 = false → s.boot.copyB.1 = false → s.boot.mhlFails = 0 → s.booting = 1 → s.ready = false →
      ∃ s' : State, bootTurn s = s' ∧ s'.status = 3 ∧ s'.booterr = 1 ∧ s'.mhl = true ∧ s'.ready = false ∧ s'.booting = 0) ∧
    (∀ who, s.mhl = true → s.hostId = none ∨ s.hostId = some who →
      exec (.rstctlReset who 0x5A) s = exec .powerGood s ∧
      ∀ v, v ≠ 0x5A → exec (.rstctlReset who v) s = .next { s with hostId := some who }) ∧
    (s.mhl = false → 3 ≤ s.status.toNat → (s.mhlTried + 800000000 ≤ s.now →
        (s.boot.mhlFails = 0 → exec .mhlTrainRetry s = .next { s with mhl := true }) ∧
        (s.boot.mhlFails ≠ 0 → ∃ s' : State, exec .mhlTrainRetry s = .next s' ∧ s'.mhl = false ∧ s'.mhlTried = s.now ∧
          s'.status = s.status ∧ s'.boot.mhlFails = s.boot.mhlFails - 1)) ∧
      (s.now < s.mhlTried + 800000000 → exec .mhlTrainRetry s = .next s)) ∧
    (∀ i cause, (i = .thermalShutdown ∧ cause = 2) ∨ (i = .fatalError ∧ cause = 3) →
      (s.betweenHints = true → exec i s = .next (s.later (.halt cause))) ∧
      (s.betweenHints = false → ∃ s' : State, exec i s = .next s' ∧ s'.status = 4 ∧ s'.stopped = true ∧ s'.slots = s.slots ∧
        (s.snap = false → s.snapAt ≠ some s.now → s'.snap = true ∧ s'.snapLost = s.snapLost ∧
          s'.bytes (Place.control 0x10_0000) 24 = toBytes 8 (0x534E_4150 + 2 ^ 32) ++ toBytes 8 cause ++ toBytes 8 s.now) ∧
        (s.snap = true → s.snapAt ≠ some s.now → s'.snap = true ∧ s'.mem = s.mem ∧
          s'.snapLost = if s.snapLost = 15 then 15 else s.snapLost + 1) ∧
        (s.snapAt = some s.now → s'.snap = s.snap ∧ s'.mem = s.mem ∧ s'.snapLost = s.snapLost))) ∧
    (∀ die skip, die < 8 → exec (.thermalThrottle die skip) s =
      .next (s.setDie (s.modNum * 8 + die) { s.die (s.modNum * 8 + die) with skip := skip })) ∧
    (s.excessSince = none → exec .currentExcess s = .next { s with excessSince := some s.now }) ∧
    (∀ since, s.excessSince = some since → s.powerSkip ≠ 7 →
      (s.now < since + 1600000 → exec .powerLimitExpiry s = .next s) ∧
      (since + 1600000 ≤ s.now → ∃ s' : State, exec .powerLimitExpiry s = .next s' ∧ s'.excessSince = none ∧
        s.powerSkip.toNat < s'.powerSkip.toNat ∧ s'.mem = s.mem ∧ s'.slots = s.slots))

/-! ### The host -/

namespace Sys2Proof.Claims

/-- A request of type `ty` stands submitted in the request area (R53), and the bytes from `i` to 63 are zero. -/
structure Asked (s : State) (ty i : Nat) : Prop where
  go : s.mbxGo = true
  type : reqField s 0 8 = ty
  zero : ∀ j, i ≤ j → j < 64 → s.mem.byte (reqPlace j) = 0

/-- The request is served (R53): GO cleared, DONE set, the status in the reply. -/
def Replied (s' : State) (status : Word) : Prop :=
  s'.mbxGo = false ∧ s'.mbxDone = true ∧ s'.word (Place.control 0x2000) = status

end Sys2Proof.Claims

/-- R33 to R39, R43, R53, R54: the accepted host's writes to the control window submit a request, clear what they may, and fill the
request area; another host's change nothing. Its HBM aperture reads and
writes HBM once the module has booted (R49), each line a transfer (R58, R61), and poison comes with what is read; before that a
read gives all ones and a write does nothing. A well-formed sluice
write enters each item that passes its checks into the intake queue, its job's count raised, and counts those that do not; the queue's oldest item is
pushed. Every type of request is served in its STATE and answered, with its effect; one that its STATE does not allow is
refused with status 1 and no effect, an unknown type with status 2. R44 to R47, R159: a host write sets a ring's base, size and
enable, and nothing else of its descriptor; the intake thread of an enabled ring sees a new tail, drops a batch that has
overrun the ring, pushes the entry at its head, of the layout of R45, once its sequence number is the head, or counts it as
discarded where its push is refused, and then moves the head on, the head word written by an STL of 8 bytes (R346); a push that
finds no room waits, and one that has waited too long (R91) is withdrawn and its entry counted as discarded, which is the model's
reading (log entry 66); a fault at the ring stops it until the descriptor is rewritten. -/
def Obligations.HostRequestsComplete : Prop :=
  ∀ s : State,
    (∀ who, s.mhl = true → (s.hostId = none ∨ s.hostId = some who) → s.status = 2 →
      exec (.controlWindowWrite who 0x10 (toBytes 8 1)) s =
        .next { s with hostId := some who, mbxGo := s.mbxGo || !s.mbxDone } ∧
      exec (.controlWindowWrite who 0x10 (toBytes 8 2)) s = .next { s with hostId := some who, mbxDone := false } ∧
      exec (.controlWindowWrite who 0x8 (toBytes 8 0xF80)) s = .next { s with hostId := some who, snap := false, snapLost := 0 } ∧
      ∀ off bytes, 0x1000 ≤ off → off + bytes.length ≤ 0x2000 → 0 < bytes.length →
        exec (.controlWindowWrite who off bytes) s = .next (({ s with hostId := some who } : State).write (Place.control off) bytes)) ∧
    (∀ who off bytes, s.mhl = false ∨ (∃ h, s.hostId = some h ∧ h ≠ who) → exec (.controlWindowWrite who off bytes) s = .next s) ∧
    (∀ addr len bytes p, s.mhl = true → s.ready = true → p = Place.hbm s.modNum addr → s.arrived = [] →
      (addr + len ≤ 0x180_0000_0000 → exec (.hostApertureAccess addr len none) s =
        .next ((countTransfers { s with hostRead := s.bytes p len, hostPoison := s.poisonRead p len } p len).spendBad p len)) ∧
      (addr + bytes.length ≤ 0x180_0000_0000 → exec (.hostApertureAccess addr len (some bytes)) s =
        .next ((countTransfers s p bytes.length).store p bytes))) ∧
    (∀ addr len bytes, s.mhl = false ∨ s.ready = false → addr + len ≤ 0x180_0000_0000 →
      exec (.hostApertureAccess addr len none) s = .next { s with hostRead := List.replicate len 0xFF, hostPoison := false } ∧
      exec (.hostApertureAccess addr len (some bytes)) s = .next s) ∧
    (∀ w off (bytes : List Byte) item, s.mhl = true → s.ready = true → w < 64 → off / 0x1_0000 = w → off % 32 = 0 → bytes.length = 32 →
      item = itemOf (BitVec.ofNat 256 (ofBytes bytes)) →
      ((s.sluice w).en = true → item.cls < 4 → jobLive s item.job = true → (s.job item.job).count + 1 < 2 ^ 40 →
        ((s.sluice w).queue.length < 64 → exec (.sluiceWrite off bytes) s =
          .next ((s.setJob item.job { s.job item.job with count := (s.job item.job).count + 1 }).setSluice w
            { s.sluice w with queue := (s.sluice w).queue ++ [item] })) ∧
        (64 ≤ (s.sluice w).queue.length → exec (.sluiceWrite off bytes) s =
          .next (s.setSluice w { s.sluice w with dropCred := bumpWord (s.sluice w).dropCred }))) ∧
      ((s.sluice w).en = false ∨ 4 ≤ item.cls ∨ jobLive s item.job = false → exec (.sluiceWrite off bytes) s =
        .next (s.setSluice w { s.sluice w with dropItem := bumpWord (s.sluice w).dropItem }))) ∧
    (∀ off bytes, s.mhl = true → s.ready = true → off < 0x40_0000 → (bytes.length % 32 ≠ 0 ∨ bytes.length = 0 ∨ 256 < bytes.length ∨ off % 32 ≠ 0) →
      exec (.sluiceWrite off bytes) s = .next (s.setSluice (off / 0x1_0000)
        { s.sluice (off / 0x1_0000) with dropFmt := bumpWord (s.sluice (off / 0x1_0000)).dropFmt })) ∧
    (∀ w item rest s1, (s.sluice w).queue = item :: rest → (s.wl w).en = true → (doPush s ⟨w, item, .ioDie 0, true, false⟩).1 = some s1 →
      exec (.intakeQueueDrain w) s = .next (s1.setSluice w { s.sluice w with queue := rest })) ∧
    (Claims.Asked s 1 40 → s.status = 2 → s.topleft ≠ 0 → 1 < s.lowerLeft → ∃ s' : State, exec .attestation s = .next s' ∧ Claims.Replied s' 0 ∧
      s'.lowerLeft = s.lowerLeft - 1 ∧ s'.topleft = s.topleft ∧
      s'.bytes (Place.control 0x2008) 32 = s.bytes (Place.control 0x1008) 32) ∧
    (Claims.Asked s 1 40 → s.status = 2 → s.topleft = 0 → ∃ s' : State, exec .attestation s = .next s' ∧ Claims.Replied s' 3) ∧
    (Claims.Asked s 2 12 → s.status = 2 → s.fusedMin.toNat ≤ reqField s 8 4 → reqField s 8 4 ≤ s.fwVersion.toNat →
      ∃ s' : State, exec .raiseFusedMinimum s = .next s' ∧ Claims.Replied s' 0 ∧ s'.fusedMin.toNat = reqField s 8 4) ∧
    (Claims.Asked s 3 8 → s.status.toNat ≤ 4 → (s.betweenHints = true → exec .snapshotTrigger s = .next s) ∧
      (s.betweenHints = false → s.snapAt ≠ some s.now →
        ∃ s' : State, exec .snapshotTrigger s = .next s' ∧ Claims.Replied s' 0 ∧ s'.snap = true ∧ s'.status = s.status)) ∧
    (Claims.Asked s 4 11 → s.status = 2 → reqField s 8 2 < 1024 → reqField s 10 1 < 2 → ∃ s' : State, exec .armDebug s = .next s' ∧
      Claims.Replied s' 0 ∧ (s'.core (s.modNum * 1024 + reqField s 8 2)).debugArmed = decide (reqField s 10 1 = 1)) ∧
    (∀ t, Claims.Asked s 5 11 → s.status = 2 → reqField s 8 2 < 1024 → reqField s 10 1 < 16 →
      s.threadIn (s.modNum * 1024 + reqField s 8 2) (reqField s 10 1) = some t → t.halted = true →
      ∃ (s' : State) (u : Thread), exec .resumeHaltedThread s = .next s' ∧ Claims.Replied s' 0 ∧
        s'.threadIn (s.modNum * 1024 + reqField s 8 2) (reqField s 10 1) = some u ∧ u.halted = false ∧ u.pc = t.pc + 4 ∧ u.g = t.g) ∧
    (Claims.Asked s 6 16 → s.status = 2 → reqField s 8 2 < 1024 → 1 ≤ reqField s 10 2 → reqField s 12 4 = 1 →
      (s.core (s.modNum * 1024 + reqField s 8 2)).injection = none → ∃ s' : State, exec .armErrorInjection s = .next s' ∧
      Claims.Replied s' 0 ∧ (s'.core (s.modNum * 1024 + reqField s 8 2)).injection = some (reqField s 10 2)) ∧
    (Claims.Asked s 7 (16 + reqField s 12 4) → s.status = 2 ∨ s.status = 3 → reqField s 8 4 % 64 = 0 → 1 ≤ reqField s 12 4 → reqField s 12 4 ≤ 4080 →
      reqField s 8 4 + reqField s 12 4 ≤ 0x10_0000 → ∃ s' : State, exec .stageImageChunk s = .next s' ∧ Claims.Replied s' 0 ∧
      s'.bytes (Place.staging (reqField s 8 4)) (reqField s 12 4) = s.bytes (reqPlace 16) (reqField s 12 4)) ∧
    (Claims.Asked s 8 16 → s.status = 2 ∨ s.status = 3 → reqField s 8 1 < 3 → reqField s 9 1 = 0 → reqField s 10 2 = 0 → reqField s 12 4 ≤ 0x10_0000 →
      Config.imageVerifies (stagedImage s) = true → s.fusedMin.toNat ≤ (Config.imageVersion (stagedImage s)).toNat →
      ∃ s' : State, exec .commitStagedImage s = .next s' ∧ Claims.Replied s' 0 ∧
        NatMap.get s'.images (reqField s 8 1) [] = s.bytes (Place.staging 0) (reqField s 12 4)) ∧
    (∀ i, (i = .attestation ∧ Claims.Asked s 1 64) ∨ (i = .raiseFusedMinimum ∧ Claims.Asked s 2 64) ∨ (i = .armDebug ∧ Claims.Asked s 4 64) ∨
      (i = .resumeHaltedThread ∧ Claims.Asked s 5 64) ∨ (i = .armErrorInjection ∧ Claims.Asked s 6 64) → s.status ≠ 2 →
      ∃ s' : State, exec i s = .next s' ∧ Claims.Replied s' 1 ∧ s'.fusedMin = s.fusedMin ∧ s'.cores = s.cores ∧ s'.slots = s.slots ∧
        s'.lowerLeft = s.lowerLeft) ∧
    (∀ ty, Claims.Asked s ty 64 → ty = 0 ∨ 9 ≤ ty → ∃ s' : State, exec .unknownRequest s = .next s' ∧ Claims.Replied s' 2) ∧
    (∀ who n (bytes : List Byte), s.mhl = true → (s.hostId = none ∨ s.hostId = some who) → s.status = 2 → n < 16 → bytes.length = 32 →
      ∃ s' : State, exec (.controlWindowWrite who (0x4_0000 + 32 * n) bytes) s = .next s' ∧
        (∀ i < 9, s'.mem.byte (ringDescriptor n + i) = bytes.getD i 0) ∧
        s'.mem.byte (ringDescriptor n + 9) = bytes.getD 9 0 &&& 1 ∧
        (∀ i, 10 ≤ i → i < 32 → s'.mem.byte (ringDescriptor n + i) = s.mem.byte (ringDescriptor n + i)) ∧
        (s'.ring n).faulted = false ∧ (s'.ring n).head = (s.ring n).head) ∧
    (∀ n q, n < 16 → s.ready = true → s.stopped = false → s.ring n = q → q.faulted = false → q.pushing = none →
      ((s.mem.byte (ringDescriptor n + 9)).getLsbD 0 = false ∨ (s.mem.byte (ringDescriptor n + 8)).toNat = 0 ∨
        16 < (s.mem.byte (ringDescriptor n + 8)).toNat → ringStep s n = none) ∧
      ∀ size log, (s.mem.byte (ringDescriptor n + 9)).getLsbD 0 = true → log = (s.mem.byte (ringDescriptor n + 8)).toNat →
        1 ≤ log → log ≤ 16 → size = 2 ^ log →
        (∀ bytes s1 tail, q.head = q.seen → ringRead s (ringBaseOf s n) 4 = some (bytes, s1) →
          tail = BitVec.ofNat 32 (ofBytes bytes) →
          (tail = q.seen → ringStep s n = none) ∧
          (tail ≠ q.seen → (tail - q.head).toNat ≤ size → ringStep s n = some (s1.setRing n { q with seen := tail })) ∧
          (size < (tail - q.head).toNat → ringStep s n =
            some (moveHead (countDiscard (s1.setRing n { q with seen := tail }) n (tail - q.head).toNat) n tail))) ∧
        (ringRead s (ringBaseOf s n) 4 = none → q.head = q.seen →
          ringStep s n = some ((spentRead s 0 (ringBaseOf s n) 4).setRing n { q with faulted := true })) ∧
        ((blockWalk s 0 (ringBaseOf s n) true = none ∨ blockWalk s 0 (ringBaseOf s n) false = none) →
          ringRead s (ringBaseOf s n) 4 = none) ∧
        ∀ bytes s1 item m w, q.head ≠ q.seen → (blockWalk s 0 (ringBaseOf s n + 64) true).isSome = true →
          ringRead s (ringBaseOf s n + 128 + BitVec.ofNat 64 (64 * (q.head.toNat % size))) 64 = some (bytes, s1) →
          bytes.length = 64 → ofBytes ((bytes.drop 4).take 2) = 64 * m + w → w < 64 →
          item = itemOf (BitVec.ofNat 256 (ofBytes ((bytes.drop 8).take 32))) →
          (ofBytes (bytes.take 4) ≠ q.head.toNat → ringStep s n = none) ∧
          (ofBytes (bytes.take 4) = q.head.toNat →
            (8 ≤ m ∨ ofBytes ((bytes.drop 6).take 2) ≠ 0 ∨ ofBytes ((bytes.drop 40).take 24) ≠ 0 ∨ 4 ≤ item.cls ∨
              (m = s1.modNum ∧ (jobLive s1 item.job = false ∨ (s1.wl w).en = false)) → m = s1.modNum ∨ 8 ≤ m →
              ringStep s n = some (moveHead (countDiscard s1 n 1) n (q.head + 1))) ∧
            ∀ p s2 u, p = ⟨w, item, .thread (s.modNum * 1024), true, false⟩ → m = s1.modNum → m < 8 → ofBytes ((bytes.drop 6).take 2) = 0 → ofBytes ((bytes.drop 40).take 24) = 0 →
              item.cls < 4 → jobLive s1 item.job = true → (s1.wl w).en = true → (s1.job item.job).count + 1 < 2 ^ 40 →
              (makePush (s1.setJob item.job { s1.job item.job with count := (s1.job item.job).count + 1 }) (s.modNum * 1024) m p =
                  (some s2, u) → ringStep s n = some (moveHead s2 n (q.head + 1))) ∧
              (makePush (s1.setJob item.job { s1.job item.job with count := (s1.job item.job).count + 1 }) (s.modNum * 1024) m p =
                  (none, u) → ringStep s n = some (u.setRing n { q with pushing := some (m, p, s.now) })))) ∧
    (∀ n q m p since s1, n < 16 → s.ready = true → s.stopped = false → s.ring n = q → q.faulted = false →
      q.pushing = some (m, p, since) → (ringEntries s n).isSome = true →
      ((makePush s (s.modNum * 1024) m p).1 = some s1 → ringStep s n = some (moveHead s1 n (q.head + 1))) ∧
      ((makePush s (s.modNum * 1024) m p).1 = none → p.counted = true →
        ((∃ due, ringDeadline s m p since = some due ∧ due ≤ s.now) →
          ringStep s n = some (moveHead (countDiscard (countDown s p.item.job 1) n 1) n (q.head + 1))) ∧
        ((∀ due, ringDeadline s m p since = some due → s.now < due) → ringStep s n = none))) ∧
    ∀ n head at' s1, s1 = s.setRing n { s.ring n with head := head, pushing := none } →
      blockWalk s1 0 (ringBaseOf s n + 64) true = some at' →
      moveHead s n head = (deviceMark s1 0 (ringBaseOf s n + 64) true).blockWrite at' (toBytes 8 head.toNat)

/-! ### Rakes and proxies -/

/-- What placing an item whose template has been read comes to (R109, R110, R112): a reading that has failed, a template or a
need that does not pass, refuse it; a page that is away, or no room now, sends it back; else its gang is placed. -/
def Claims.Places (s : State) (die popper w : Nat) (item : Item) (r : TemplateRead)
    (out : Host.Outcome State Fault Refusal) : Prop :=
  (r = .none ∨ r = .bad → out = .next (refuseLaunch s die item)) ∧
  (r = .away → out = .next (pushBack s die popper w item)) ∧
  ∀ b t, r = .found b → t = templateOf b →
    (templateFormed b = false ∨ cannotHold s t item = true ∨ unreserved s t item = true → out = .next (refuseLaunch s die item)) ∧
    (templateFormed b = true → cannotHold s t item = false → unreserved s t item = false →
      (planGang s t (placementWalk s t item) = none → out = .next (pushBack s die popper w item)) ∧
      ∀ shares s3, planGang s t (placementWalk s t item) = some shares → placeGang s t w item popper shares = some s3 →
        out = .next s3)

/-- R107 to R112, R114: a rake that finds no worklist to serve does nothing. It reads the template of an item as it pops it, from
the job's table: of a class-0, ill-formed or out-of-range one it reads none (R105, R109). That a poisoned item is refused as
these are, and that no template and no image lies in the self alias, whose core the spec does not name for a rake, is the model's
reading (log entry 21). The item goes to the rake of its hinted die, or, hinted to its own, is placed
there. A refusal lowers the job's count, raises its errors and taints its verdict. An item is refused, placed as a gang, or, where it finds no room now, pushed back, and the two rakes refrain
from its worklist for 256 cycles. A thread starts in the state of R114. When its images have arrived, a gang's cores hold
them; a read that fails refuses the launch. -/
def Obligations.RakesPlaceGangs : Prop :=
  (∀ (s : State) (die key : Nat), die < 8 → key = s.modNum * 8 + die →
    (nextWorklist s (s.die key) = none → exec (.rakePop die) s = .next s) ∧
    (∀ w x b s1 r, nextWorklist s (s.die key) = some w →
      popAt (s.setDie key { s.die key with rakeLast := w }) w (8 * die) = (some (x, b), s1) → r = readTemplate s1 x →
      (hintDie x.item.hint ≠ die → exec (.rakePop die) s = .next (r.2.setDie (s.modNum * 8 + hintDie x.item.hint)
        { r.2.die (s.modNum * 8 + hintDie x.item.hint) with
          rakeIn := (r.2.die (s.modNum * 8 + hintDie x.item.hint)).rakeIn ++ [(die, w, x, r.1)] })) ∧
      (hintDie x.item.hint = die → Claims.Places r.2 die die w x.item r.1 (exec (.rakePop die) s))) ∧
    (∀ x : Entry,
      (x.poison = true ∨ x.item.cls = 0 ∨ x.item.payloadBytes 10 6 ≠ 0 ∨ (s.job x.item.job).ntempl ≤ x.item.payloadBytes 8 2 →
        readTemplate s x = (.none, s)) ∧
      ∀ s2 p, x.poison = false → x.item.cls ≠ 0 → x.item.payloadBytes 10 6 = 0 →
        x.item.payloadBytes 8 2 < (s.job x.item.job).ntempl →
        jobPlace s (s.job x.item.job) ((s.job x.item.job).table + BitVec.ofNat 64 (64 * x.item.payloadBytes 8 2)) 64 = .found s2 p →
        readTemplate s x = (.found (s2.bytes p 64), s2)) ∧
    (∀ x : Entry, ∀ s2, x.poison = false → x.item.cls ≠ 0 → x.item.payloadBytes 10 6 = 0 →
        x.item.payloadBytes 8 2 < (s.job x.item.job).ntempl →
        jobPlace s (s.job x.item.job) ((s.job x.item.job).table + BitVec.ofNat 64 (64 * x.item.payloadBytes 8 2)) 64 = .bad s2 →
        readTemplate s x = (.bad, s2)) ∧
    (∀ (j : Job) (va : Word) (n : Nat), va.toNat < 0x8_0000 → ∃ s2, jobPlace s j va n = .bad s2) ∧
    ((s.die key).rakeIn = [] → exec (.rakeHandoff die) s = .next s) ∧
    (∀ popper w x r rest s1, (s.die key).rakeIn = (popper, w, x, r) :: rest → s1 = s.setDie key { s.die key with rakeIn := rest } →
      Claims.Places s1 die popper w x.item r (exec (.rakeHandoff die) s)) ∧
    (∀ w, exec (.rakeBackoffExpiry die w) s = .next (s.setDie key { s.die key with
      backoff := (s.die key).backoff.filter fun e => !(decide (e.1 / 8 = w) && decide (e.2 ≤ s.now)) }))) ∧
  (∀ (s : State) (die : Nat) (item : Item), s.noteEn = false → 2 ≤ (s.job item.job).count →
    ((refuseLaunch s die item).job item.job).count = (s.job item.job).count - 1 ∧
      ((refuseLaunch s die item).job item.job).errors = (s.job item.job).errors + 1 ∧
      ((refuseLaunch s die item).job item.job).verdict = .tainted) ∧
  (∀ (uid gang index : Nat) (t : Template) (item : Item) (j : Job) (u : Thread), u = firstThread uid gang index t item j →
    u.g = [0, BitVec.ofNat 64 (item.payloadBytes 16 8), BitVec.ofNat 64 (item.payloadBytes 24 8), BitVec.ofNat 64 index,
      BitVec.ofNat 64 t.size] ++ List.replicate 27 0 ∧ u.gFull = BitVec.allOnes 32 ∧ u.v = List.replicate 16 0 ∧
    u.vFull = BitVec.allOnes 16 ∧ u.m1 = 0 ∧ u.m2 = 0 ∧ u.m3 = 0 ∧ u.acc.length = t.acc ∧ u.rnd = 0 ∧ u.fpst = 0 ∧ u.levels = [] ∧
    u.wab = 0 ∧ u.sv = j.sv ∧ u.psv = false ∧ u.hnd = false ∧ u.pair = t.pair ∧ u.epc = 0 ∧ u.trapc = 0 ∧ u.trapv = 0 ∧
    u.slpreq = 2 ∧ u.asid = j.asid ∧ u.port.en = false ∧ u.job = BitVec.ofNat 16 item.job ∧ u.gang = BitVec.ofNat 14 gang ∧
    u.index = BitVec.ofNat 14 index ∧ u.pc = BitVec.ofNat 19 t.entry ∧ u.park = none) ∧
  ∀ (s : State) (n : Nat) (x : Gang), s.gang? n = some x → x.loads ≠ [] →
    (∀ s1 b, readPages (s.job x.job) 4 s x.image x.len [] = .bytes s1 b → ∃ s' : State, exec (.imageLoadComplete n) s = .next s' ∧
      (∀ c, x.loads = [c] → x.starting = [] → s1.residents = [] → s1.inbound = [] → s'.bytes (Place.lm c x.loadOff) b.length = b)) ∧
    ∀ s1, readPages (s.job x.job) 4 s x.image x.len [] = .bad s1 → exec (.imageLoadComplete n) s =
      .next (refuseLaunch (releaseGang s1 n x) x.rakes.1 x.item)

/-- R75, R94, R95, R119, R122, R127: a queue of the forwarding engine leaves as one fabric write once it is due, its items in
order; where no path leads to its module for 1 ms its items are lost, and counted for their job. A proxied item raises its job's
count and is pushed, or, for a job that takes none, is pushed nowhere. That the 1 ms run from 512 cycles after the oldest entry
also for a queue that is due by its 64 items, and that an item of a disabled worklist or of class 4 and up is pushed nowhere, are
readings of the model (log entry 20). A flush request is answered with the items lost once nothing is in flight; lost items that another
module reports taint the job. -/
def Obligations.ProxiesForwardAndFlush : Prop :=
  (∀ (s : State) (io m w : Nat) (x : Io) (a : Item × Nat) (rest : List (Item × Nat)), x = s.io io → shadowQueue x m w = a :: rest →
    (rest.length < 63 → s.now < a.2 + 512 → exec (.proxyForward io m w) s = .next s) ∧
    (63 ≤ rest.length ∨ a.2 + 512 ≤ s.now → pathTo s (8 + io) (16 + m) = true → exec (.proxyForward io m w) s = .next
      { s.setIo io { x with shadows := x.shadows.filter fun e => decide ¬(e.1 = m ∧ e.2.1 = w) } with
        shadowOut := s.shadowOut ++ [(m, w, (a :: rest).map (·.1))] }) ∧
    (s.now < a.2 + 800512 → pathTo s (8 + io) (16 + m) = false → exec (.proxyForward io m w) s = .next s) ∧
    (a.2 + 800512 ≤ s.now → pathTo s (8 + io) (16 + m) = false → rest = [] →
      ∃ s' : State, exec (.proxyForward io m w) s = .next s' ∧ s'.shadowOut = s.shadowOut ∧
        NatMap.get (s'.io io).lost (m * 0x1_0000 + a.1.job) 0 = NatMap.get x.lost (m * 0x1_0000 + a.1.job) 0 + 1)) ∧
  (∀ (s : State) (io w : Nat) (b : BitVec 256) (item : Item), io < 2 → w < 64 → item = itemOf b →
    (jobLive s item.job = true → (s.job item.job).pod = true → item.cls < 4 → (s.wl w).en = true → (s.job item.job).count + 1 < 2 ^ 40 →
      exec (.proxyDelivery io w b) s = .next (devicePush (s.setJob item.job { s.job item.job with count := (s.job item.job).count + 1 })
        ⟨w, item, .ioDie io, true, false⟩)) ∧
    (jobLive s item.job = false ∨ (s.job item.job).pod = false ∨ 4 ≤ item.cls ∨ (s.wl w).en = false → s.noteEn = false →
      exec (.proxyDelivery io w b) s = .next s)) ∧
  (∀ (s : State) (m j : Nat), s.inPod m = true → m ≠ s.modNum → (∀ i < 2, ∀ e ∈ (s.io i).shadows, e.1 ≠ m) → parkedPushes s m j = [] →
    inFlight s m j = false → ∃ s' : State, exec (.jobFlushRequest m j) s = .next s' ∧
      s'.flushOut = s.flushOut ++ [(m, j, NatMap.get (s.io 0).lost (m * 0x1_0000 + j) 0 + NatMap.get (s.io 1).lost (m * 0x1_0000 + j) 0)] ∧
      (m, j) ∉ s'.flushAsked ∧ NatMap.get (s'.io 0).lost (m * 0x1_0000 + j) 0 = 0 ∧ NatMap.get (s'.io 1).lost (m * 0x1_0000 + j) 0 = 0) ∧
  ∀ (s : State) (m j lost : Nat), m ∈ (s.job j).flushing → (s.job j).count = 0 → (∃ x ∈ (s.job j).flushing, x ≠ m) →
    ∃ s' : State, exec (.jobFlushReply m j lost) s = .next s' ∧ (s'.job j).errors = (s.job j).errors + lost ∧
      (lost ≠ 0 → (s'.job j).verdict = .tainted) ∧ (lost = 0 → (s'.job j).verdict = (s.job j).verdict) ∧
      (∀ x, x ∈ (s'.job j).flushing ↔ x ∈ (s.job j).flushing ∧ x ≠ m)

/-! ### What holds of every step -/

/-- Every step answers a next state: no thread's word and no event of the device stops the machine. The one stop, the fault noThread,
is met only where the agenda names an instruction word as an event in a slot that holds no thread. -/
def Obligations.EveryStepAnswers : Prop :=
  (∀ (i : Instr) (s : State), i.isWord = false → (∀ w, i ≠ .illegalInstructionWord w) → ∃ s', exec i s = .next s') ∧
  (∀ (i : Instr) (s : State) (t : Thread), s.thread? = some t → ∃ s', exec i s = .next s') ∧
  (∀ (s : State), (∀ i rest, s.agenda = .event i :: rest → i.isWord = false ∧ ∀ w, i ≠ .illegalInstructionWord w) → StepOk s)

/-- The headline: whatever a step does, memory keeps its one canonical form (listed bytes in rising order, none of them in an open stretch and none equal to
what an unlisted byte reads as), so that equal memories are equal data. It holds at reset (`ResetValues`). -/
def Obligations.StepKeepsMemoryForm : Prop :=
  ∀ s s' : State, s.mem.wf = true → step s = .next s' → s'.mem.wf = true
end

