-- ==== Sys2Proof/Laws/State.lean ====
section
/-!
SUPPORT. One lemma for each field of State (and of Thread) and each plain update of it: the field after the update is
the field before it, but for the field that the update is there to change.
-/
namespace Sys2Proof.Machine

/-! ### State.putThread -/

@[simp] theorem State.putThread_cur (s : State) (t : Thread) : (s.putThread t).cur = s.cur := rfl
@[simp] theorem State.putThread_agenda (s : State) (t : Thread) : (s.putThread t).agenda = s.agenda := rfl
@[simp] theorem State.putThread_devTurn (s : State) (t : Thread) : (s.putThread t).devTurn = s.devTurn := rfl
@[simp] theorem State.putThread_turnNo (s : State) (t : Thread) : (s.putThread t).turnNo = s.turnNo := rfl
@[simp] theorem State.putThread_fresh (s : State) (t : Thread) : (s.putThread t).fresh = s.fresh := rfl
@[simp] theorem State.putThread_nextUid (s : State) (t : Thread) : (s.putThread t).nextUid = s.nextUid := rfl
@[simp] theorem State.putThread_todo (s : State) (t : Thread) : (s.putThread t).todo = s.todo := rfl
@[simp] theorem State.putThread_now (s : State) (t : Thread) : (s.putThread t).now = s.now := rfl
@[simp] theorem State.putThread_issueFrom (s : State) (t : Thread) : (s.putThread t).issueFrom = s.issueFrom := rfl
@[simp] theorem State.putThread_mem (s : State) (t : Thread) : (s.putThread t).mem = s.mem := rfl
@[simp] theorem State.putThread_emptyWords (s : State) (t : Thread) : (s.putThread t).emptyWords = s.emptyWords := rfl
@[simp] theorem State.putThread_poisoned (s : State) (t : Thread) : (s.putThread t).poisoned = s.poisoned := rfl
@[simp] theorem State.putThread_notReady (s : State) (t : Thread) : (s.putThread t).notReady = s.notReady := rfl
@[simp] theorem State.putThread_stores (s : State) (t : Thread) : (s.putThread t).stores = s.stores := rfl
@[simp] theorem State.putThread_seen (s : State) (t : Thread) : (s.putThread t).seen = s.seen := rfl
@[simp] theorem State.putThread_arrived (s : State) (t : Thread) : (s.putThread t).arrived = s.arrived := rfl
@[simp] theorem State.putThread_cores (s : State) (t : Thread) : (s.putThread t).cores = s.cores := rfl
@[simp] theorem State.putThread_dies (s : State) (t : Thread) : (s.putThread t).dies = s.dies := rfl
@[simp] theorem State.putThread_ios (s : State) (t : Thread) : (s.putThread t).ios = s.ios := rfl
@[simp] theorem State.putThread_channels (s : State) (t : Thread) : (s.putThread t).channels = s.channels := rfl
@[simp] theorem State.putThread_frames (s : State) (t : Thread) : (s.putThread t).frames = s.frames := rfl
@[simp] theorem State.putThread_links (s : State) (t : Thread) : (s.putThread t).links = s.links := rfl
@[simp] theorem State.putThread_carried (s : State) (t : Thread) : (s.putThread t).carried = s.carried := rfl
@[simp] theorem State.putThread_inbound (s : State) (t : Thread) : (s.putThread t).inbound = s.inbound := rfl
@[simp] theorem State.putThread_spareWires (s : State) (t : Thread) : (s.putThread t).spareWires = s.spareWires := rfl
@[simp] theorem State.putThread_inService (s : State) (t : Thread) : (s.putThread t).inService = s.inService := rfl
@[simp] theorem State.putThread_decoders (s : State) (t : Thread) : (s.putThread t).decoders = s.decoders := rfl
@[simp] theorem State.putThread_badTransfers (s : State) (t : Thread) : (s.putThread t).badTransfers = s.badTransfers := rfl
@[simp] theorem State.putThread_badReads (s : State) (t : Thread) : (s.putThread t).badReads = s.badReads := rfl
@[simp] theorem State.putThread_worklists (s : State) (t : Thread) : (s.putThread t).worklists = s.worklists := rfl
@[simp] theorem State.putThread_sluices (s : State) (t : Thread) : (s.putThread t).sluices = s.sluices := rfl
@[simp] theorem State.putThread_pushSeq (s : State) (t : Thread) : (s.putThread t).pushSeq = s.pushSeq := rfl
@[simp] theorem State.putThread_jobs (s : State) (t : Thread) : (s.putThread t).jobs = s.jobs := rfl
@[simp] theorem State.putThread_gangs (s : State) (t : Thread) : (s.putThread t).gangs = s.gangs := rfl
@[simp] theorem State.putThread_slotres (s : State) (t : Thread) : (s.putThread t).slotres = s.slotres := rfl
@[simp] theorem State.putThread_noteJob (s : State) (t : Thread) : (s.putThread t).noteJob = s.noteJob := rfl
@[simp] theorem State.putThread_noteWl (s : State) (t : Thread) : (s.putThread t).noteWl = s.noteWl := rfl
@[simp] theorem State.putThread_noteEn (s : State) (t : Thread) : (s.putThread t).noteEn = s.noteEn := rfl
@[simp] theorem State.putThread_asroot (s : State) (t : Thread) : (s.putThread t).asroot = s.asroot := rfl
@[simp] theorem State.putThread_copies (s : State) (t : Thread) : (s.putThread t).copies = s.copies := rfl
@[simp] theorem State.putThread_podTout (s : State) (t : Thread) : (s.putThread t).podTout = s.podTout := rfl
@[simp] theorem State.putThread_modNum (s : State) (t : Thread) : (s.putThread t).modNum = s.modNum := rfl
@[simp] theorem State.putThread_pod (s : State) (t : Thread) : (s.putThread t).pod = s.pod := rfl
@[simp] theorem State.putThread_shadowOut (s : State) (t : Thread) : (s.putThread t).shadowOut = s.shadowOut := rfl
@[simp] theorem State.putThread_flushAsked (s : State) (t : Thread) : (s.putThread t).flushAsked = s.flushAsked := rfl
@[simp] theorem State.putThread_flushOut (s : State) (t : Thread) : (s.putThread t).flushOut = s.flushOut := rfl
@[simp] theorem State.putThread_status (s : State) (t : Thread) : (s.putThread t).status = s.status := rfl
@[simp] theorem State.putThread_ready (s : State) (t : Thread) : (s.putThread t).ready = s.ready := rfl
@[simp] theorem State.putThread_booterr (s : State) (t : Thread) : (s.putThread t).booterr = s.booterr := rfl
@[simp] theorem State.putThread_snap (s : State) (t : Thread) : (s.putThread t).snap = s.snap := rfl
@[simp] theorem State.putThread_snapLost (s : State) (t : Thread) : (s.putThread t).snapLost = s.snapLost := rfl
@[simp] theorem State.putThread_snapAt (s : State) (t : Thread) : (s.putThread t).snapAt = s.snapAt := rfl
@[simp] theorem State.putThread_topleft (s : State) (t : Thread) : (s.putThread t).topleft = s.topleft := rfl
@[simp] theorem State.putThread_mbxGo (s : State) (t : Thread) : (s.putThread t).mbxGo = s.mbxGo := rfl
@[simp] theorem State.putThread_mbxDone (s : State) (t : Thread) : (s.putThread t).mbxDone = s.mbxDone := rfl
@[simp] theorem State.putThread_hostId (s : State) (t : Thread) : (s.putThread t).hostId = s.hostId := rfl
@[simp] theorem State.putThread_hostRead (s : State) (t : Thread) : (s.putThread t).hostRead = s.hostRead := rfl
@[simp] theorem State.putThread_hostPoison (s : State) (t : Thread) : (s.putThread t).hostPoison = s.hostPoison := rfl
@[simp] theorem State.putThread_fusedMin (s : State) (t : Thread) : (s.putThread t).fusedMin = s.fusedMin := rfl
@[simp] theorem State.putThread_fwVersion (s : State) (t : Thread) : (s.putThread t).fwVersion = s.fwVersion := rfl
@[simp] theorem State.putThread_lowerLeft (s : State) (t : Thread) : (s.putThread t).lowerLeft = s.lowerLeft := rfl
@[simp] theorem State.putThread_images (s : State) (t : Thread) : (s.putThread t).images = s.images := rfl
@[simp] theorem State.putThread_loaded (s : State) (t : Thread) : (s.putThread t).loaded = s.loaded := rfl
@[simp] theorem State.putThread_boot (s : State) (t : Thread) : (s.putThread t).boot = s.boot := rfl
@[simp] theorem State.putThread_rings (s : State) (t : Thread) : (s.putThread t).rings = s.rings := rfl
@[simp] theorem State.putThread_mhl (s : State) (t : Thread) : (s.putThread t).mhl = s.mhl := rfl
@[simp] theorem State.putThread_mhlTried (s : State) (t : Thread) : (s.putThread t).mhlTried = s.mhlTried := rfl
@[simp] theorem State.putThread_booting (s : State) (t : Thread) : (s.putThread t).booting = s.booting := rfl
@[simp] theorem State.putThread_excessSince (s : State) (t : Thread) : (s.putThread t).excessSince = s.excessSince := rfl
@[simp] theorem State.putThread_powerSkip (s : State) (t : Thread) : (s.putThread t).powerSkip = s.powerSkip := rfl
@[simp] theorem State.putThread_stopped (s : State) (t : Thread) : (s.putThread t).stopped = s.stopped := rfl

/-! ### State.setThread -/

@[simp] theorem State.setThread_cur (s : State) (c n : Nat) (t : Thread) : (s.setThread c n t).cur = s.cur := rfl
@[simp] theorem State.setThread_agenda (s : State) (c n : Nat) (t : Thread) : (s.setThread c n t).agenda = s.agenda := rfl
@[simp] theorem State.setThread_devTurn (s : State) (c n : Nat) (t : Thread) : (s.setThread c n t).devTurn = s.devTurn := rfl
@[simp] theorem State.setThread_turnNo (s : State) (c n : Nat) (t : Thread) : (s.setThread c n t).turnNo = s.turnNo := rfl
@[simp] theorem State.setThread_fresh (s : State) (c n : Nat) (t : Thread) : (s.setThread c n t).fresh = s.fresh := rfl
@[simp] theorem State.setThread_nextUid (s : State) (c n : Nat) (t : Thread) : (s.setThread c n t).nextUid = s.nextUid := rfl
@[simp] theorem State.setThread_todo (s : State) (c n : Nat) (t : Thread) : (s.setThread c n t).todo = s.todo := rfl
@[simp] theorem State.setThread_now (s : State) (c n : Nat) (t : Thread) : (s.setThread c n t).now = s.now := rfl
@[simp] theorem State.setThread_issueFrom (s : State) (c n : Nat) (t : Thread) : (s.setThread c n t).issueFrom = s.issueFrom := rfl
@[simp] theorem State.setThread_mem (s : State) (c n : Nat) (t : Thread) : (s.setThread c n t).mem = s.mem := rfl
@[simp] theorem State.setThread_emptyWords (s : State) (c n : Nat) (t : Thread) : (s.setThread c n t).emptyWords = s.emptyWords := rfl
@[simp] theorem State.setThread_poisoned (s : State) (c n : Nat) (t : Thread) : (s.setThread c n t).poisoned = s.poisoned := rfl
@[simp] theorem State.setThread_notReady (s : State) (c n : Nat) (t : Thread) : (s.setThread c n t).notReady = s.notReady := rfl
@[simp] theorem State.setThread_stores (s : State) (c n : Nat) (t : Thread) : (s.setThread c n t).stores = s.stores := rfl
@[simp] theorem State.setThread_seen (s : State) (c n : Nat) (t : Thread) : (s.setThread c n t).seen = s.seen := rfl
@[simp] theorem State.setThread_arrived (s : State) (c n : Nat) (t : Thread) : (s.setThread c n t).arrived = s.arrived := rfl
@[simp] theorem State.setThread_cores (s : State) (c n : Nat) (t : Thread) : (s.setThread c n t).cores = s.cores := rfl
@[simp] theorem State.setThread_dies (s : State) (c n : Nat) (t : Thread) : (s.setThread c n t).dies = s.dies := rfl
@[simp] theorem State.setThread_ios (s : State) (c n : Nat) (t : Thread) : (s.setThread c n t).ios = s.ios := rfl
@[simp] theorem State.setThread_channels (s : State) (c n : Nat) (t : Thread) : (s.setThread c n t).channels = s.channels := rfl
@[simp] theorem State.setThread_frames (s : State) (c n : Nat) (t : Thread) : (s.setThread c n t).frames = s.frames := rfl
@[simp] theorem State.setThread_links (s : State) (c n : Nat) (t : Thread) : (s.setThread c n t).links = s.links := rfl
@[simp] theorem State.setThread_carried (s : State) (c n : Nat) (t : Thread) : (s.setThread c n t).carried = s.carried := rfl
@[simp] theorem State.setThread_inbound (s : State) (c n : Nat) (t : Thread) : (s.setThread c n t).inbound = s.inbound := rfl
@[simp] theorem State.setThread_spareWires (s : State) (c n : Nat) (t : Thread) : (s.setThread c n t).spareWires = s.spareWires := rfl
@[simp] theorem State.setThread_inService (s : State) (c n : Nat) (t : Thread) : (s.setThread c n t).inService = s.inService := rfl
@[simp] theorem State.setThread_decoders (s : State) (c n : Nat) (t : Thread) : (s.setThread c n t).decoders = s.decoders := rfl
@[simp] theorem State.setThread_badTransfers (s : State) (c n : Nat) (t : Thread) : (s.setThread c n t).badTransfers = s.badTransfers := rfl
@[simp] theorem State.setThread_badReads (s : State) (c n : Nat) (t : Thread) : (s.setThread c n t).badReads = s.badReads := rfl
@[simp] theorem State.setThread_worklists (s : State) (c n : Nat) (t : Thread) : (s.setThread c n t).worklists = s.worklists := rfl
@[simp] theorem State.setThread_sluices (s : State) (c n : Nat) (t : Thread) : (s.setThread c n t).sluices = s.sluices := rfl
@[simp] theorem State.setThread_pushSeq (s : State) (c n : Nat) (t : Thread) : (s.setThread c n t).pushSeq = s.pushSeq := rfl
@[simp] theorem State.setThread_jobs (s : State) (c n : Nat) (t : Thread) : (s.setThread c n t).jobs = s.jobs := rfl
@[simp] theorem State.setThread_gangs (s : State) (c n : Nat) (t : Thread) : (s.setThread c n t).gangs = s.gangs := rfl
@[simp] theorem State.setThread_slotres (s : State) (c n : Nat) (t : Thread) : (s.setThread c n t).slotres = s.slotres := rfl
@[simp] theorem State.setThread_noteJob (s : State) (c n : Nat) (t : Thread) : (s.setThread c n t).noteJob = s.noteJob := rfl
@[simp] theorem State.setThread_noteWl (s : State) (c n : Nat) (t : Thread) : (s.setThread c n t).noteWl = s.noteWl := rfl
@[simp] theorem State.setThread_noteEn (s : State) (c n : Nat) (t : Thread) : (s.setThread c n t).noteEn = s.noteEn := rfl
@[simp] theorem State.setThread_asroot (s : State) (c n : Nat) (t : Thread) : (s.setThread c n t).asroot = s.asroot := rfl
@[simp] theorem State.setThread_copies (s : State) (c n : Nat) (t : Thread) : (s.setThread c n t).copies = s.copies := rfl
@[simp] theorem State.setThread_podTout (s : State) (c n : Nat) (t : Thread) : (s.setThread c n t).podTout = s.podTout := rfl
@[simp] theorem State.setThread_modNum (s : State) (c n : Nat) (t : Thread) : (s.setThread c n t).modNum = s.modNum := rfl
@[simp] theorem State.setThread_pod (s : State) (c n : Nat) (t : Thread) : (s.setThread c n t).pod = s.pod := rfl
@[simp] theorem State.setThread_shadowOut (s : State) (c n : Nat) (t : Thread) : (s.setThread c n t).shadowOut = s.shadowOut := rfl
@[simp] theorem State.setThread_flushAsked (s : State) (c n : Nat) (t : Thread) : (s.setThread c n t).flushAsked = s.flushAsked := rfl
@[simp] theorem State.setThread_flushOut (s : State) (c n : Nat) (t : Thread) : (s.setThread c n t).flushOut = s.flushOut := rfl
@[simp] theorem State.setThread_status (s : State) (c n : Nat) (t : Thread) : (s.setThread c n t).status = s.status := rfl
@[simp] theorem State.setThread_ready (s : State) (c n : Nat) (t : Thread) : (s.setThread c n t).ready = s.ready := rfl
@[simp] theorem State.setThread_booterr (s : State) (c n : Nat) (t : Thread) : (s.setThread c n t).booterr = s.booterr := rfl
@[simp] theorem State.setThread_snap (s : State) (c n : Nat) (t : Thread) : (s.setThread c n t).snap = s.snap := rfl
@[simp] theorem State.setThread_snapLost (s : State) (c n : Nat) (t : Thread) : (s.setThread c n t).snapLost = s.snapLost := rfl
@[simp] theorem State.setThread_snapAt (s : State) (c n : Nat) (t : Thread) : (s.setThread c n t).snapAt = s.snapAt := rfl
@[simp] theorem State.setThread_topleft (s : State) (c n : Nat) (t : Thread) : (s.setThread c n t).topleft = s.topleft := rfl
@[simp] theorem State.setThread_mbxGo (s : State) (c n : Nat) (t : Thread) : (s.setThread c n t).mbxGo = s.mbxGo := rfl
@[simp] theorem State.setThread_mbxDone (s : State) (c n : Nat) (t : Thread) : (s.setThread c n t).mbxDone = s.mbxDone := rfl
@[simp] theorem State.setThread_hostId (s : State) (c n : Nat) (t : Thread) : (s.setThread c n t).hostId = s.hostId := rfl
@[simp] theorem State.setThread_hostRead (s : State) (c n : Nat) (t : Thread) : (s.setThread c n t).hostRead = s.hostRead := rfl
@[simp] theorem State.setThread_hostPoison (s : State) (c n : Nat) (t : Thread) : (s.setThread c n t).hostPoison = s.hostPoison := rfl
@[simp] theorem State.setThread_fusedMin (s : State) (c n : Nat) (t : Thread) : (s.setThread c n t).fusedMin = s.fusedMin := rfl
@[simp] theorem State.setThread_fwVersion (s : State) (c n : Nat) (t : Thread) : (s.setThread c n t).fwVersion = s.fwVersion := rfl
@[simp] theorem State.setThread_lowerLeft (s : State) (c n : Nat) (t : Thread) : (s.setThread c n t).lowerLeft = s.lowerLeft := rfl
@[simp] theorem State.setThread_images (s : State) (c n : Nat) (t : Thread) : (s.setThread c n t).images = s.images := rfl
@[simp] theorem State.setThread_loaded (s : State) (c n : Nat) (t : Thread) : (s.setThread c n t).loaded = s.loaded := rfl
@[simp] theorem State.setThread_boot (s : State) (c n : Nat) (t : Thread) : (s.setThread c n t).boot = s.boot := rfl
@[simp] theorem State.setThread_rings (s : State) (c n : Nat) (t : Thread) : (s.setThread c n t).rings = s.rings := rfl
@[simp] theorem State.setThread_mhl (s : State) (c n : Nat) (t : Thread) : (s.setThread c n t).mhl = s.mhl := rfl
@[simp] theorem State.setThread_mhlTried (s : State) (c n : Nat) (t : Thread) : (s.setThread c n t).mhlTried = s.mhlTried := rfl
@[simp] theorem State.setThread_booting (s : State) (c n : Nat) (t : Thread) : (s.setThread c n t).booting = s.booting := rfl
@[simp] theorem State.setThread_excessSince (s : State) (c n : Nat) (t : Thread) : (s.setThread c n t).excessSince = s.excessSince := rfl
@[simp] theorem State.setThread_powerSkip (s : State) (c n : Nat) (t : Thread) : (s.setThread c n t).powerSkip = s.powerSkip := rfl
@[simp] theorem State.setThread_stopped (s : State) (c n : Nat) (t : Thread) : (s.setThread c n t).stopped = s.stopped := rfl

/-! ### State.setSlot -/

@[simp] theorem State.setSlot_cur (s : State) (c n : Nat) (v : Slot) : (s.setSlot c n v).cur = s.cur := rfl
@[simp] theorem State.setSlot_agenda (s : State) (c n : Nat) (v : Slot) : (s.setSlot c n v).agenda = s.agenda := rfl
@[simp] theorem State.setSlot_devTurn (s : State) (c n : Nat) (v : Slot) : (s.setSlot c n v).devTurn = s.devTurn := rfl
@[simp] theorem State.setSlot_turnNo (s : State) (c n : Nat) (v : Slot) : (s.setSlot c n v).turnNo = s.turnNo := rfl
@[simp] theorem State.setSlot_fresh (s : State) (c n : Nat) (v : Slot) : (s.setSlot c n v).fresh = s.fresh := rfl
@[simp] theorem State.setSlot_nextUid (s : State) (c n : Nat) (v : Slot) : (s.setSlot c n v).nextUid = s.nextUid := rfl
@[simp] theorem State.setSlot_todo (s : State) (c n : Nat) (v : Slot) : (s.setSlot c n v).todo = s.todo := rfl
@[simp] theorem State.setSlot_now (s : State) (c n : Nat) (v : Slot) : (s.setSlot c n v).now = s.now := rfl
@[simp] theorem State.setSlot_issueFrom (s : State) (c n : Nat) (v : Slot) : (s.setSlot c n v).issueFrom = s.issueFrom := rfl
@[simp] theorem State.setSlot_mem (s : State) (c n : Nat) (v : Slot) : (s.setSlot c n v).mem = s.mem := rfl
@[simp] theorem State.setSlot_emptyWords (s : State) (c n : Nat) (v : Slot) : (s.setSlot c n v).emptyWords = s.emptyWords := rfl
@[simp] theorem State.setSlot_poisoned (s : State) (c n : Nat) (v : Slot) : (s.setSlot c n v).poisoned = s.poisoned := rfl
@[simp] theorem State.setSlot_notReady (s : State) (c n : Nat) (v : Slot) : (s.setSlot c n v).notReady = s.notReady := rfl
@[simp] theorem State.setSlot_stores (s : State) (c n : Nat) (v : Slot) : (s.setSlot c n v).stores = s.stores := rfl
@[simp] theorem State.setSlot_seen (s : State) (c n : Nat) (v : Slot) : (s.setSlot c n v).seen = s.seen := rfl
@[simp] theorem State.setSlot_arrived (s : State) (c n : Nat) (v : Slot) : (s.setSlot c n v).arrived = s.arrived := rfl
@[simp] theorem State.setSlot_cores (s : State) (c n : Nat) (v : Slot) : (s.setSlot c n v).cores = s.cores := rfl
@[simp] theorem State.setSlot_dies (s : State) (c n : Nat) (v : Slot) : (s.setSlot c n v).dies = s.dies := rfl
@[simp] theorem State.setSlot_ios (s : State) (c n : Nat) (v : Slot) : (s.setSlot c n v).ios = s.ios := rfl
@[simp] theorem State.setSlot_channels (s : State) (c n : Nat) (v : Slot) : (s.setSlot c n v).channels = s.channels := rfl
@[simp] theorem State.setSlot_frames (s : State) (c n : Nat) (v : Slot) : (s.setSlot c n v).frames = s.frames := rfl
@[simp] theorem State.setSlot_links (s : State) (c n : Nat) (v : Slot) : (s.setSlot c n v).links = s.links := rfl
@[simp] theorem State.setSlot_carried (s : State) (c n : Nat) (v : Slot) : (s.setSlot c n v).carried = s.carried := rfl
@[simp] theorem State.setSlot_inbound (s : State) (c n : Nat) (v : Slot) : (s.setSlot c n v).inbound = s.inbound := rfl
@[simp] theorem State.setSlot_spareWires (s : State) (c n : Nat) (v : Slot) : (s.setSlot c n v).spareWires = s.spareWires := rfl
@[simp] theorem State.setSlot_inService (s : State) (c n : Nat) (v : Slot) : (s.setSlot c n v).inService = s.inService := rfl
@[simp] theorem State.setSlot_decoders (s : State) (c n : Nat) (v : Slot) : (s.setSlot c n v).decoders = s.decoders := rfl
@[simp] theorem State.setSlot_badTransfers (s : State) (c n : Nat) (v : Slot) : (s.setSlot c n v).badTransfers = s.badTransfers := rfl
@[simp] theorem State.setSlot_badReads (s : State) (c n : Nat) (v : Slot) : (s.setSlot c n v).badReads = s.badReads := rfl
@[simp] theorem State.setSlot_worklists (s : State) (c n : Nat) (v : Slot) : (s.setSlot c n v).worklists = s.worklists := rfl
@[simp] theorem State.setSlot_sluices (s : State) (c n : Nat) (v : Slot) : (s.setSlot c n v).sluices = s.sluices := rfl
@[simp] theorem State.setSlot_pushSeq (s : State) (c n : Nat) (v : Slot) : (s.setSlot c n v).pushSeq = s.pushSeq := rfl
@[simp] theorem State.setSlot_jobs (s : State) (c n : Nat) (v : Slot) : (s.setSlot c n v).jobs = s.jobs := rfl
@[simp] theorem State.setSlot_gangs (s : State) (c n : Nat) (v : Slot) : (s.setSlot c n v).gangs = s.gangs := rfl
@[simp] theorem State.setSlot_slotres (s : State) (c n : Nat) (v : Slot) : (s.setSlot c n v).slotres = s.slotres := rfl
@[simp] theorem State.setSlot_noteJob (s : State) (c n : Nat) (v : Slot) : (s.setSlot c n v).noteJob = s.noteJob := rfl
@[simp] theorem State.setSlot_noteWl (s : State) (c n : Nat) (v : Slot) : (s.setSlot c n v).noteWl = s.noteWl := rfl
@[simp] theorem State.setSlot_noteEn (s : State) (c n : Nat) (v : Slot) : (s.setSlot c n v).noteEn = s.noteEn := rfl
@[simp] theorem State.setSlot_asroot (s : State) (c n : Nat) (v : Slot) : (s.setSlot c n v).asroot = s.asroot := rfl
@[simp] theorem State.setSlot_copies (s : State) (c n : Nat) (v : Slot) : (s.setSlot c n v).copies = s.copies := rfl
@[simp] theorem State.setSlot_podTout (s : State) (c n : Nat) (v : Slot) : (s.setSlot c n v).podTout = s.podTout := rfl
@[simp] theorem State.setSlot_modNum (s : State) (c n : Nat) (v : Slot) : (s.setSlot c n v).modNum = s.modNum := rfl
@[simp] theorem State.setSlot_pod (s : State) (c n : Nat) (v : Slot) : (s.setSlot c n v).pod = s.pod := rfl
@[simp] theorem State.setSlot_shadowOut (s : State) (c n : Nat) (v : Slot) : (s.setSlot c n v).shadowOut = s.shadowOut := rfl
@[simp] theorem State.setSlot_flushAsked (s : State) (c n : Nat) (v : Slot) : (s.setSlot c n v).flushAsked = s.flushAsked := rfl
@[simp] theorem State.setSlot_flushOut (s : State) (c n : Nat) (v : Slot) : (s.setSlot c n v).flushOut = s.flushOut := rfl
@[simp] theorem State.setSlot_status (s : State) (c n : Nat) (v : Slot) : (s.setSlot c n v).status = s.status := rfl
@[simp] theorem State.setSlot_ready (s : State) (c n : Nat) (v : Slot) : (s.setSlot c n v).ready = s.ready := rfl
@[simp] theorem State.setSlot_booterr (s : State) (c n : Nat) (v : Slot) : (s.setSlot c n v).booterr = s.booterr := rfl
@[simp] theorem State.setSlot_snap (s : State) (c n : Nat) (v : Slot) : (s.setSlot c n v).snap = s.snap := rfl
@[simp] theorem State.setSlot_snapLost (s : State) (c n : Nat) (v : Slot) : (s.setSlot c n v).snapLost = s.snapLost := rfl
@[simp] theorem State.setSlot_snapAt (s : State) (c n : Nat) (v : Slot) : (s.setSlot c n v).snapAt = s.snapAt := rfl
@[simp] theorem State.setSlot_topleft (s : State) (c n : Nat) (v : Slot) : (s.setSlot c n v).topleft = s.topleft := rfl
@[simp] theorem State.setSlot_mbxGo (s : State) (c n : Nat) (v : Slot) : (s.setSlot c n v).mbxGo = s.mbxGo := rfl
@[simp] theorem State.setSlot_mbxDone (s : State) (c n : Nat) (v : Slot) : (s.setSlot c n v).mbxDone = s.mbxDone := rfl
@[simp] theorem State.setSlot_hostId (s : State) (c n : Nat) (v : Slot) : (s.setSlot c n v).hostId = s.hostId := rfl
@[simp] theorem State.setSlot_hostRead (s : State) (c n : Nat) (v : Slot) : (s.setSlot c n v).hostRead = s.hostRead := rfl
@[simp] theorem State.setSlot_hostPoison (s : State) (c n : Nat) (v : Slot) : (s.setSlot c n v).hostPoison = s.hostPoison := rfl
@[simp] theorem State.setSlot_fusedMin (s : State) (c n : Nat) (v : Slot) : (s.setSlot c n v).fusedMin = s.fusedMin := rfl
@[simp] theorem State.setSlot_fwVersion (s : State) (c n : Nat) (v : Slot) : (s.setSlot c n v).fwVersion = s.fwVersion := rfl
@[simp] theorem State.setSlot_lowerLeft (s : State) (c n : Nat) (v : Slot) : (s.setSlot c n v).lowerLeft = s.lowerLeft := rfl
@[simp] theorem State.setSlot_images (s : State) (c n : Nat) (v : Slot) : (s.setSlot c n v).images = s.images := rfl
@[simp] theorem State.setSlot_loaded (s : State) (c n : Nat) (v : Slot) : (s.setSlot c n v).loaded = s.loaded := rfl
@[simp] theorem State.setSlot_boot (s : State) (c n : Nat) (v : Slot) : (s.setSlot c n v).boot = s.boot := rfl
@[simp] theorem State.setSlot_rings (s : State) (c n : Nat) (v : Slot) : (s.setSlot c n v).rings = s.rings := rfl
@[simp] theorem State.setSlot_mhl (s : State) (c n : Nat) (v : Slot) : (s.setSlot c n v).mhl = s.mhl := rfl
@[simp] theorem State.setSlot_mhlTried (s : State) (c n : Nat) (v : Slot) : (s.setSlot c n v).mhlTried = s.mhlTried := rfl
@[simp] theorem State.setSlot_booting (s : State) (c n : Nat) (v : Slot) : (s.setSlot c n v).booting = s.booting := rfl
@[simp] theorem State.setSlot_excessSince (s : State) (c n : Nat) (v : Slot) : (s.setSlot c n v).excessSince = s.excessSince := rfl
@[simp] theorem State.setSlot_powerSkip (s : State) (c n : Nat) (v : Slot) : (s.setSlot c n v).powerSkip = s.powerSkip := rfl
@[simp] theorem State.setSlot_stopped (s : State) (c n : Nat) (v : Slot) : (s.setSlot c n v).stopped = s.stopped := rfl

/-! ### State.putSlot -/

@[simp] theorem State.putSlot_cur (s : State) (k : Nat) (t : Thread) : (s.putSlot k t).cur = s.cur := rfl
@[simp] theorem State.putSlot_agenda (s : State) (k : Nat) (t : Thread) : (s.putSlot k t).agenda = s.agenda := rfl
@[simp] theorem State.putSlot_devTurn (s : State) (k : Nat) (t : Thread) : (s.putSlot k t).devTurn = s.devTurn := rfl
@[simp] theorem State.putSlot_turnNo (s : State) (k : Nat) (t : Thread) : (s.putSlot k t).turnNo = s.turnNo := rfl
@[simp] theorem State.putSlot_fresh (s : State) (k : Nat) (t : Thread) : (s.putSlot k t).fresh = s.fresh := rfl
@[simp] theorem State.putSlot_nextUid (s : State) (k : Nat) (t : Thread) : (s.putSlot k t).nextUid = s.nextUid := rfl
@[simp] theorem State.putSlot_todo (s : State) (k : Nat) (t : Thread) : (s.putSlot k t).todo = s.todo := rfl
@[simp] theorem State.putSlot_now (s : State) (k : Nat) (t : Thread) : (s.putSlot k t).now = s.now := rfl
@[simp] theorem State.putSlot_issueFrom (s : State) (k : Nat) (t : Thread) : (s.putSlot k t).issueFrom = s.issueFrom := rfl
@[simp] theorem State.putSlot_mem (s : State) (k : Nat) (t : Thread) : (s.putSlot k t).mem = s.mem := rfl
@[simp] theorem State.putSlot_emptyWords (s : State) (k : Nat) (t : Thread) : (s.putSlot k t).emptyWords = s.emptyWords := rfl
@[simp] theorem State.putSlot_poisoned (s : State) (k : Nat) (t : Thread) : (s.putSlot k t).poisoned = s.poisoned := rfl
@[simp] theorem State.putSlot_notReady (s : State) (k : Nat) (t : Thread) : (s.putSlot k t).notReady = s.notReady := rfl
@[simp] theorem State.putSlot_stores (s : State) (k : Nat) (t : Thread) : (s.putSlot k t).stores = s.stores := rfl
@[simp] theorem State.putSlot_seen (s : State) (k : Nat) (t : Thread) : (s.putSlot k t).seen = s.seen := rfl
@[simp] theorem State.putSlot_arrived (s : State) (k : Nat) (t : Thread) : (s.putSlot k t).arrived = s.arrived := rfl
@[simp] theorem State.putSlot_cores (s : State) (k : Nat) (t : Thread) : (s.putSlot k t).cores = s.cores := rfl
@[simp] theorem State.putSlot_dies (s : State) (k : Nat) (t : Thread) : (s.putSlot k t).dies = s.dies := rfl
@[simp] theorem State.putSlot_ios (s : State) (k : Nat) (t : Thread) : (s.putSlot k t).ios = s.ios := rfl
@[simp] theorem State.putSlot_channels (s : State) (k : Nat) (t : Thread) : (s.putSlot k t).channels = s.channels := rfl
@[simp] theorem State.putSlot_frames (s : State) (k : Nat) (t : Thread) : (s.putSlot k t).frames = s.frames := rfl
@[simp] theorem State.putSlot_links (s : State) (k : Nat) (t : Thread) : (s.putSlot k t).links = s.links := rfl
@[simp] theorem State.putSlot_carried (s : State) (k : Nat) (t : Thread) : (s.putSlot k t).carried = s.carried := rfl
@[simp] theorem State.putSlot_inbound (s : State) (k : Nat) (t : Thread) : (s.putSlot k t).inbound = s.inbound := rfl
@[simp] theorem State.putSlot_spareWires (s : State) (k : Nat) (t : Thread) : (s.putSlot k t).spareWires = s.spareWires := rfl
@[simp] theorem State.putSlot_inService (s : State) (k : Nat) (t : Thread) : (s.putSlot k t).inService = s.inService := rfl
@[simp] theorem State.putSlot_decoders (s : State) (k : Nat) (t : Thread) : (s.putSlot k t).decoders = s.decoders := rfl
@[simp] theorem State.putSlot_badTransfers (s : State) (k : Nat) (t : Thread) : (s.putSlot k t).badTransfers = s.badTransfers := rfl
@[simp] theorem State.putSlot_badReads (s : State) (k : Nat) (t : Thread) : (s.putSlot k t).badReads = s.badReads := rfl
@[simp] theorem State.putSlot_worklists (s : State) (k : Nat) (t : Thread) : (s.putSlot k t).worklists = s.worklists := rfl
@[simp] theorem State.putSlot_sluices (s : State) (k : Nat) (t : Thread) : (s.putSlot k t).sluices = s.sluices := rfl
@[simp] theorem State.putSlot_pushSeq (s : State) (k : Nat) (t : Thread) : (s.putSlot k t).pushSeq = s.pushSeq := rfl
@[simp] theorem State.putSlot_jobs (s : State) (k : Nat) (t : Thread) : (s.putSlot k t).jobs = s.jobs := rfl
@[simp] theorem State.putSlot_gangs (s : State) (k : Nat) (t : Thread) : (s.putSlot k t).gangs = s.gangs := rfl
@[simp] theorem State.putSlot_slotres (s : State) (k : Nat) (t : Thread) : (s.putSlot k t).slotres = s.slotres := rfl
@[simp] theorem State.putSlot_noteJob (s : State) (k : Nat) (t : Thread) : (s.putSlot k t).noteJob = s.noteJob := rfl
@[simp] theorem State.putSlot_noteWl (s : State) (k : Nat) (t : Thread) : (s.putSlot k t).noteWl = s.noteWl := rfl
@[simp] theorem State.putSlot_noteEn (s : State) (k : Nat) (t : Thread) : (s.putSlot k t).noteEn = s.noteEn := rfl
@[simp] theorem State.putSlot_asroot (s : State) (k : Nat) (t : Thread) : (s.putSlot k t).asroot = s.asroot := rfl
@[simp] theorem State.putSlot_copies (s : State) (k : Nat) (t : Thread) : (s.putSlot k t).copies = s.copies := rfl
@[simp] theorem State.putSlot_podTout (s : State) (k : Nat) (t : Thread) : (s.putSlot k t).podTout = s.podTout := rfl
@[simp] theorem State.putSlot_modNum (s : State) (k : Nat) (t : Thread) : (s.putSlot k t).modNum = s.modNum := rfl
@[simp] theorem State.putSlot_pod (s : State) (k : Nat) (t : Thread) : (s.putSlot k t).pod = s.pod := rfl
@[simp] theorem State.putSlot_shadowOut (s : State) (k : Nat) (t : Thread) : (s.putSlot k t).shadowOut = s.shadowOut := rfl
@[simp] theorem State.putSlot_flushAsked (s : State) (k : Nat) (t : Thread) : (s.putSlot k t).flushAsked = s.flushAsked := rfl
@[simp] theorem State.putSlot_flushOut (s : State) (k : Nat) (t : Thread) : (s.putSlot k t).flushOut = s.flushOut := rfl
@[simp] theorem State.putSlot_status (s : State) (k : Nat) (t : Thread) : (s.putSlot k t).status = s.status := rfl
@[simp] theorem State.putSlot_ready (s : State) (k : Nat) (t : Thread) : (s.putSlot k t).ready = s.ready := rfl
@[simp] theorem State.putSlot_booterr (s : State) (k : Nat) (t : Thread) : (s.putSlot k t).booterr = s.booterr := rfl
@[simp] theorem State.putSlot_snap (s : State) (k : Nat) (t : Thread) : (s.putSlot k t).snap = s.snap := rfl
@[simp] theorem State.putSlot_snapLost (s : State) (k : Nat) (t : Thread) : (s.putSlot k t).snapLost = s.snapLost := rfl
@[simp] theorem State.putSlot_snapAt (s : State) (k : Nat) (t : Thread) : (s.putSlot k t).snapAt = s.snapAt := rfl
@[simp] theorem State.putSlot_topleft (s : State) (k : Nat) (t : Thread) : (s.putSlot k t).topleft = s.topleft := rfl
@[simp] theorem State.putSlot_mbxGo (s : State) (k : Nat) (t : Thread) : (s.putSlot k t).mbxGo = s.mbxGo := rfl
@[simp] theorem State.putSlot_mbxDone (s : State) (k : Nat) (t : Thread) : (s.putSlot k t).mbxDone = s.mbxDone := rfl
@[simp] theorem State.putSlot_hostId (s : State) (k : Nat) (t : Thread) : (s.putSlot k t).hostId = s.hostId := rfl
@[simp] theorem State.putSlot_hostRead (s : State) (k : Nat) (t : Thread) : (s.putSlot k t).hostRead = s.hostRead := rfl
@[simp] theorem State.putSlot_hostPoison (s : State) (k : Nat) (t : Thread) : (s.putSlot k t).hostPoison = s.hostPoison := rfl
@[simp] theorem State.putSlot_fusedMin (s : State) (k : Nat) (t : Thread) : (s.putSlot k t).fusedMin = s.fusedMin := rfl
@[simp] theorem State.putSlot_fwVersion (s : State) (k : Nat) (t : Thread) : (s.putSlot k t).fwVersion = s.fwVersion := rfl
@[simp] theorem State.putSlot_lowerLeft (s : State) (k : Nat) (t : Thread) : (s.putSlot k t).lowerLeft = s.lowerLeft := rfl
@[simp] theorem State.putSlot_images (s : State) (k : Nat) (t : Thread) : (s.putSlot k t).images = s.images := rfl
@[simp] theorem State.putSlot_loaded (s : State) (k : Nat) (t : Thread) : (s.putSlot k t).loaded = s.loaded := rfl
@[simp] theorem State.putSlot_boot (s : State) (k : Nat) (t : Thread) : (s.putSlot k t).boot = s.boot := rfl
@[simp] theorem State.putSlot_rings (s : State) (k : Nat) (t : Thread) : (s.putSlot k t).rings = s.rings := rfl
@[simp] theorem State.putSlot_mhl (s : State) (k : Nat) (t : Thread) : (s.putSlot k t).mhl = s.mhl := rfl
@[simp] theorem State.putSlot_mhlTried (s : State) (k : Nat) (t : Thread) : (s.putSlot k t).mhlTried = s.mhlTried := rfl
@[simp] theorem State.putSlot_booting (s : State) (k : Nat) (t : Thread) : (s.putSlot k t).booting = s.booting := rfl
@[simp] theorem State.putSlot_excessSince (s : State) (k : Nat) (t : Thread) : (s.putSlot k t).excessSince = s.excessSince := rfl
@[simp] theorem State.putSlot_powerSkip (s : State) (k : Nat) (t : Thread) : (s.putSlot k t).powerSkip = s.powerSkip := rfl
@[simp] theorem State.putSlot_stopped (s : State) (k : Nat) (t : Thread) : (s.putSlot k t).stopped = s.stopped := rfl

/-! ### State.write -/

@[simp] theorem State.write_cur (s : State) (p : Nat) (data : List Byte) : (s.write p data).cur = s.cur := rfl
@[simp] theorem State.write_agenda (s : State) (p : Nat) (data : List Byte) : (s.write p data).agenda = s.agenda := rfl
@[simp] theorem State.write_devTurn (s : State) (p : Nat) (data : List Byte) : (s.write p data).devTurn = s.devTurn := rfl
@[simp] theorem State.write_turnNo (s : State) (p : Nat) (data : List Byte) : (s.write p data).turnNo = s.turnNo := rfl
@[simp] theorem State.write_fresh (s : State) (p : Nat) (data : List Byte) : (s.write p data).fresh = s.fresh := rfl
@[simp] theorem State.write_nextUid (s : State) (p : Nat) (data : List Byte) : (s.write p data).nextUid = s.nextUid := rfl
@[simp] theorem State.write_todo (s : State) (p : Nat) (data : List Byte) : (s.write p data).todo = s.todo := rfl
@[simp] theorem State.write_now (s : State) (p : Nat) (data : List Byte) : (s.write p data).now = s.now := rfl
@[simp] theorem State.write_issueFrom (s : State) (p : Nat) (data : List Byte) : (s.write p data).issueFrom = s.issueFrom := rfl
@[simp] theorem State.write_emptyWords (s : State) (p : Nat) (data : List Byte) : (s.write p data).emptyWords = s.emptyWords := rfl
@[simp] theorem State.write_notReady (s : State) (p : Nat) (data : List Byte) : (s.write p data).notReady = s.notReady := rfl
@[simp] theorem State.write_stores (s : State) (p : Nat) (data : List Byte) : (s.write p data).stores = s.stores := rfl
@[simp] theorem State.write_seen (s : State) (p : Nat) (data : List Byte) : (s.write p data).seen = s.seen := rfl
@[simp] theorem State.write_arrived (s : State) (p : Nat) (data : List Byte) : (s.write p data).arrived = s.arrived := rfl
@[simp] theorem State.write_slots (s : State) (p : Nat) (data : List Byte) : (s.write p data).slots = s.slots := rfl
@[simp] theorem State.write_cores (s : State) (p : Nat) (data : List Byte) : (s.write p data).cores = s.cores := rfl
@[simp] theorem State.write_dies (s : State) (p : Nat) (data : List Byte) : (s.write p data).dies = s.dies := rfl
@[simp] theorem State.write_ios (s : State) (p : Nat) (data : List Byte) : (s.write p data).ios = s.ios := rfl
@[simp] theorem State.write_channels (s : State) (p : Nat) (data : List Byte) : (s.write p data).channels = s.channels := rfl
@[simp] theorem State.write_frames (s : State) (p : Nat) (data : List Byte) : (s.write p data).frames = s.frames := rfl
@[simp] theorem State.write_links (s : State) (p : Nat) (data : List Byte) : (s.write p data).links = s.links := rfl
@[simp] theorem State.write_carried (s : State) (p : Nat) (data : List Byte) : (s.write p data).carried = s.carried := rfl
@[simp] theorem State.write_inbound (s : State) (p : Nat) (data : List Byte) : (s.write p data).inbound = s.inbound := rfl
@[simp] theorem State.write_spareWires (s : State) (p : Nat) (data : List Byte) : (s.write p data).spareWires = s.spareWires := rfl
@[simp] theorem State.write_inService (s : State) (p : Nat) (data : List Byte) : (s.write p data).inService = s.inService := rfl
@[simp] theorem State.write_decoders (s : State) (p : Nat) (data : List Byte) : (s.write p data).decoders = s.decoders := rfl
@[simp] theorem State.write_badTransfers (s : State) (p : Nat) (data : List Byte) : (s.write p data).badTransfers = s.badTransfers := rfl
@[simp] theorem State.write_badReads (s : State) (p : Nat) (data : List Byte) : (s.write p data).badReads = s.badReads := rfl
@[simp] theorem State.write_worklists (s : State) (p : Nat) (data : List Byte) : (s.write p data).worklists = s.worklists := rfl
@[simp] theorem State.write_sluices (s : State) (p : Nat) (data : List Byte) : (s.write p data).sluices = s.sluices := rfl
@[simp] theorem State.write_pushSeq (s : State) (p : Nat) (data : List Byte) : (s.write p data).pushSeq = s.pushSeq := rfl
@[simp] theorem State.write_jobs (s : State) (p : Nat) (data : List Byte) : (s.write p data).jobs = s.jobs := rfl
@[simp] theorem State.write_gangs (s : State) (p : Nat) (data : List Byte) : (s.write p data).gangs = s.gangs := rfl
@[simp] theorem State.write_slotres (s : State) (p : Nat) (data : List Byte) : (s.write p data).slotres = s.slotres := rfl
@[simp] theorem State.write_noteJob (s : State) (p : Nat) (data : List Byte) : (s.write p data).noteJob = s.noteJob := rfl
@[simp] theorem State.write_noteWl (s : State) (p : Nat) (data : List Byte) : (s.write p data).noteWl = s.noteWl := rfl
@[simp] theorem State.write_noteEn (s : State) (p : Nat) (data : List Byte) : (s.write p data).noteEn = s.noteEn := rfl
@[simp] theorem State.write_asroot (s : State) (p : Nat) (data : List Byte) : (s.write p data).asroot = s.asroot := rfl
@[simp] theorem State.write_copies (s : State) (p : Nat) (data : List Byte) : (s.write p data).copies = s.copies := rfl
@[simp] theorem State.write_podTout (s : State) (p : Nat) (data : List Byte) : (s.write p data).podTout = s.podTout := rfl
@[simp] theorem State.write_modNum (s : State) (p : Nat) (data : List Byte) : (s.write p data).modNum = s.modNum := rfl
@[simp] theorem State.write_pod (s : State) (p : Nat) (data : List Byte) : (s.write p data).pod = s.pod := rfl
@[simp] theorem State.write_shadowOut (s : State) (p : Nat) (data : List Byte) : (s.write p data).shadowOut = s.shadowOut := rfl
@[simp] theorem State.write_flushAsked (s : State) (p : Nat) (data : List Byte) : (s.write p data).flushAsked = s.flushAsked := rfl
@[simp] theorem State.write_flushOut (s : State) (p : Nat) (data : List Byte) : (s.write p data).flushOut = s.flushOut := rfl
@[simp] theorem State.write_status (s : State) (p : Nat) (data : List Byte) : (s.write p data).status = s.status := rfl
@[simp] theorem State.write_ready (s : State) (p : Nat) (data : List Byte) : (s.write p data).ready = s.ready := rfl
@[simp] theorem State.write_booterr (s : State) (p : Nat) (data : List Byte) : (s.write p data).booterr = s.booterr := rfl
@[simp] theorem State.write_snap (s : State) (p : Nat) (data : List Byte) : (s.write p data).snap = s.snap := rfl
@[simp] theorem State.write_snapLost (s : State) (p : Nat) (data : List Byte) : (s.write p data).snapLost = s.snapLost := rfl
@[simp] theorem State.write_snapAt (s : State) (p : Nat) (data : List Byte) : (s.write p data).snapAt = s.snapAt := rfl
@[simp] theorem State.write_topleft (s : State) (p : Nat) (data : List Byte) : (s.write p data).topleft = s.topleft := rfl
@[simp] theorem State.write_mbxGo (s : State) (p : Nat) (data : List Byte) : (s.write p data).mbxGo = s.mbxGo := rfl
@[simp] theorem State.write_mbxDone (s : State) (p : Nat) (data : List Byte) : (s.write p data).mbxDone = s.mbxDone := rfl
@[simp] theorem State.write_hostId (s : State) (p : Nat) (data : List Byte) : (s.write p data).hostId = s.hostId := rfl
@[simp] theorem State.write_hostRead (s : State) (p : Nat) (data : List Byte) : (s.write p data).hostRead = s.hostRead := rfl
@[simp] theorem State.write_hostPoison (s : State) (p : Nat) (data : List Byte) : (s.write p data).hostPoison = s.hostPoison := rfl
@[simp] theorem State.write_fusedMin (s : State) (p : Nat) (data : List Byte) : (s.write p data).fusedMin = s.fusedMin := rfl
@[simp] theorem State.write_fwVersion (s : State) (p : Nat) (data : List Byte) : (s.write p data).fwVersion = s.fwVersion := rfl
@[simp] theorem State.write_lowerLeft (s : State) (p : Nat) (data : List Byte) : (s.write p data).lowerLeft = s.lowerLeft := rfl
@[simp] theorem State.write_images (s : State) (p : Nat) (data : List Byte) : (s.write p data).images = s.images := rfl
@[simp] theorem State.write_loaded (s : State) (p : Nat) (data : List Byte) : (s.write p data).loaded = s.loaded := rfl
@[simp] theorem State.write_boot (s : State) (p : Nat) (data : List Byte) : (s.write p data).boot = s.boot := rfl
@[simp] theorem State.write_rings (s : State) (p : Nat) (data : List Byte) : (s.write p data).rings = s.rings := rfl
@[simp] theorem State.write_mhl (s : State) (p : Nat) (data : List Byte) : (s.write p data).mhl = s.mhl := rfl
@[simp] theorem State.write_mhlTried (s : State) (p : Nat) (data : List Byte) : (s.write p data).mhlTried = s.mhlTried := rfl
@[simp] theorem State.write_booting (s : State) (p : Nat) (data : List Byte) : (s.write p data).booting = s.booting := rfl
@[simp] theorem State.write_excessSince (s : State) (p : Nat) (data : List Byte) : (s.write p data).excessSince = s.excessSince := rfl
@[simp] theorem State.write_powerSkip (s : State) (p : Nat) (data : List Byte) : (s.write p data).powerSkip = s.powerSkip := rfl
@[simp] theorem State.write_stopped (s : State) (p : Nat) (data : List Byte) : (s.write p data).stopped = s.stopped := rfl

/-! ### State.writeWord -/

@[simp] theorem State.writeWord_cur (s : State) (p : Nat) (w : Word) : (s.writeWord p w).cur = s.cur := rfl
@[simp] theorem State.writeWord_agenda (s : State) (p : Nat) (w : Word) : (s.writeWord p w).agenda = s.agenda := rfl
@[simp] theorem State.writeWord_devTurn (s : State) (p : Nat) (w : Word) : (s.writeWord p w).devTurn = s.devTurn := rfl
@[simp] theorem State.writeWord_turnNo (s : State) (p : Nat) (w : Word) : (s.writeWord p w).turnNo = s.turnNo := rfl
@[simp] theorem State.writeWord_fresh (s : State) (p : Nat) (w : Word) : (s.writeWord p w).fresh = s.fresh := rfl
@[simp] theorem State.writeWord_nextUid (s : State) (p : Nat) (w : Word) : (s.writeWord p w).nextUid = s.nextUid := rfl
@[simp] theorem State.writeWord_todo (s : State) (p : Nat) (w : Word) : (s.writeWord p w).todo = s.todo := rfl
@[simp] theorem State.writeWord_now (s : State) (p : Nat) (w : Word) : (s.writeWord p w).now = s.now := rfl
@[simp] theorem State.writeWord_issueFrom (s : State) (p : Nat) (w : Word) : (s.writeWord p w).issueFrom = s.issueFrom := rfl
@[simp] theorem State.writeWord_emptyWords (s : State) (p : Nat) (w : Word) : (s.writeWord p w).emptyWords = s.emptyWords := rfl
@[simp] theorem State.writeWord_notReady (s : State) (p : Nat) (w : Word) : (s.writeWord p w).notReady = s.notReady := rfl
@[simp] theorem State.writeWord_stores (s : State) (p : Nat) (w : Word) : (s.writeWord p w).stores = s.stores := rfl
@[simp] theorem State.writeWord_seen (s : State) (p : Nat) (w : Word) : (s.writeWord p w).seen = s.seen := rfl
@[simp] theorem State.writeWord_arrived (s : State) (p : Nat) (w : Word) : (s.writeWord p w).arrived = s.arrived := rfl
@[simp] theorem State.writeWord_slots (s : State) (p : Nat) (w : Word) : (s.writeWord p w).slots = s.slots := rfl
@[simp] theorem State.writeWord_cores (s : State) (p : Nat) (w : Word) : (s.writeWord p w).cores = s.cores := rfl
@[simp] theorem State.writeWord_dies (s : State) (p : Nat) (w : Word) : (s.writeWord p w).dies = s.dies := rfl
@[simp] theorem State.writeWord_ios (s : State) (p : Nat) (w : Word) : (s.writeWord p w).ios = s.ios := rfl
@[simp] theorem State.writeWord_channels (s : State) (p : Nat) (w : Word) : (s.writeWord p w).channels = s.channels := rfl
@[simp] theorem State.writeWord_frames (s : State) (p : Nat) (w : Word) : (s.writeWord p w).frames = s.frames := rfl
@[simp] theorem State.writeWord_links (s : State) (p : Nat) (w : Word) : (s.writeWord p w).links = s.links := rfl
@[simp] theorem State.writeWord_carried (s : State) (p : Nat) (w : Word) : (s.writeWord p w).carried = s.carried := rfl
@[simp] theorem State.writeWord_inbound (s : State) (p : Nat) (w : Word) : (s.writeWord p w).inbound = s.inbound := rfl
@[simp] theorem State.writeWord_spareWires (s : State) (p : Nat) (w : Word) : (s.writeWord p w).spareWires = s.spareWires := rfl
@[simp] theorem State.writeWord_inService (s : State) (p : Nat) (w : Word) : (s.writeWord p w).inService = s.inService := rfl
@[simp] theorem State.writeWord_decoders (s : State) (p : Nat) (w : Word) : (s.writeWord p w).decoders = s.decoders := rfl
@[simp] theorem State.writeWord_badTransfers (s : State) (p : Nat) (w : Word) : (s.writeWord p w).badTransfers = s.badTransfers := rfl
@[simp] theorem State.writeWord_badReads (s : State) (p : Nat) (w : Word) : (s.writeWord p w).badReads = s.badReads := rfl
@[simp] theorem State.writeWord_worklists (s : State) (p : Nat) (w : Word) : (s.writeWord p w).worklists = s.worklists := rfl
@[simp] theorem State.writeWord_sluices (s : State) (p : Nat) (w : Word) : (s.writeWord p w).sluices = s.sluices := rfl
@[simp] theorem State.writeWord_pushSeq (s : State) (p : Nat) (w : Word) : (s.writeWord p w).pushSeq = s.pushSeq := rfl
@[simp] theorem State.writeWord_jobs (s : State) (p : Nat) (w : Word) : (s.writeWord p w).jobs = s.jobs := rfl
@[simp] theorem State.writeWord_gangs (s : State) (p : Nat) (w : Word) : (s.writeWord p w).gangs = s.gangs := rfl
@[simp] theorem State.writeWord_slotres (s : State) (p : Nat) (w : Word) : (s.writeWord p w).slotres = s.slotres := rfl
@[simp] theorem State.writeWord_noteJob (s : State) (p : Nat) (w : Word) : (s.writeWord p w).noteJob = s.noteJob := rfl
@[simp] theorem State.writeWord_noteWl (s : State) (p : Nat) (w : Word) : (s.writeWord p w).noteWl = s.noteWl := rfl
@[simp] theorem State.writeWord_noteEn (s : State) (p : Nat) (w : Word) : (s.writeWord p w).noteEn = s.noteEn := rfl
@[simp] theorem State.writeWord_asroot (s : State) (p : Nat) (w : Word) : (s.writeWord p w).asroot = s.asroot := rfl
@[simp] theorem State.writeWord_copies (s : State) (p : Nat) (w : Word) : (s.writeWord p w).copies = s.copies := rfl
@[simp] theorem State.writeWord_podTout (s : State) (p : Nat) (w : Word) : (s.writeWord p w).podTout = s.podTout := rfl
@[simp] theorem State.writeWord_modNum (s : State) (p : Nat) (w : Word) : (s.writeWord p w).modNum = s.modNum := rfl
@[simp] theorem State.writeWord_pod (s : State) (p : Nat) (w : Word) : (s.writeWord p w).pod = s.pod := rfl
@[simp] theorem State.writeWord_shadowOut (s : State) (p : Nat) (w : Word) : (s.writeWord p w).shadowOut = s.shadowOut := rfl
@[simp] theorem State.writeWord_flushAsked (s : State) (p : Nat) (w : Word) : (s.writeWord p w).flushAsked = s.flushAsked := rfl
@[simp] theorem State.writeWord_flushOut (s : State) (p : Nat) (w : Word) : (s.writeWord p w).flushOut = s.flushOut := rfl
@[simp] theorem State.writeWord_status (s : State) (p : Nat) (w : Word) : (s.writeWord p w).status = s.status := rfl
@[simp] theorem State.writeWord_ready (s : State) (p : Nat) (w : Word) : (s.writeWord p w).ready = s.ready := rfl
@[simp] theorem State.writeWord_booterr (s : State) (p : Nat) (w : Word) : (s.writeWord p w).booterr = s.booterr := rfl
@[simp] theorem State.writeWord_snap (s : State) (p : Nat) (w : Word) : (s.writeWord p w).snap = s.snap := rfl
@[simp] theorem State.writeWord_snapLost (s : State) (p : Nat) (w : Word) : (s.writeWord p w).snapLost = s.snapLost := rfl
@[simp] theorem State.writeWord_snapAt (s : State) (p : Nat) (w : Word) : (s.writeWord p w).snapAt = s.snapAt := rfl
@[simp] theorem State.writeWord_topleft (s : State) (p : Nat) (w : Word) : (s.writeWord p w).topleft = s.topleft := rfl
@[simp] theorem State.writeWord_mbxGo (s : State) (p : Nat) (w : Word) : (s.writeWord p w).mbxGo = s.mbxGo := rfl
@[simp] theorem State.writeWord_mbxDone (s : State) (p : Nat) (w : Word) : (s.writeWord p w).mbxDone = s.mbxDone := rfl
@[simp] theorem State.writeWord_hostId (s : State) (p : Nat) (w : Word) : (s.writeWord p w).hostId = s.hostId := rfl
@[simp] theorem State.writeWord_hostRead (s : State) (p : Nat) (w : Word) : (s.writeWord p w).hostRead = s.hostRead := rfl
@[simp] theorem State.writeWord_hostPoison (s : State) (p : Nat) (w : Word) : (s.writeWord p w).hostPoison = s.hostPoison := rfl
@[simp] theorem State.writeWord_fusedMin (s : State) (p : Nat) (w : Word) : (s.writeWord p w).fusedMin = s.fusedMin := rfl
@[simp] theorem State.writeWord_fwVersion (s : State) (p : Nat) (w : Word) : (s.writeWord p w).fwVersion = s.fwVersion := rfl
@[simp] theorem State.writeWord_lowerLeft (s : State) (p : Nat) (w : Word) : (s.writeWord p w).lowerLeft = s.lowerLeft := rfl
@[simp] theorem State.writeWord_images (s : State) (p : Nat) (w : Word) : (s.writeWord p w).images = s.images := rfl
@[simp] theorem State.writeWord_loaded (s : State) (p : Nat) (w : Word) : (s.writeWord p w).loaded = s.loaded := rfl
@[simp] theorem State.writeWord_boot (s : State) (p : Nat) (w : Word) : (s.writeWord p w).boot = s.boot := rfl
@[simp] theorem State.writeWord_rings (s : State) (p : Nat) (w : Word) : (s.writeWord p w).rings = s.rings := rfl
@[simp] theorem State.writeWord_mhl (s : State) (p : Nat) (w : Word) : (s.writeWord p w).mhl = s.mhl := rfl
@[simp] theorem State.writeWord_mhlTried (s : State) (p : Nat) (w : Word) : (s.writeWord p w).mhlTried = s.mhlTried := rfl
@[simp] theorem State.writeWord_booting (s : State) (p : Nat) (w : Word) : (s.writeWord p w).booting = s.booting := rfl
@[simp] theorem State.writeWord_excessSince (s : State) (p : Nat) (w : Word) : (s.writeWord p w).excessSince = s.excessSince := rfl
@[simp] theorem State.writeWord_powerSkip (s : State) (p : Nat) (w : Word) : (s.writeWord p w).powerSkip = s.powerSkip := rfl
@[simp] theorem State.writeWord_stopped (s : State) (p : Nat) (w : Word) : (s.writeWord p w).stopped = s.stopped := rfl

/-! ### State.setPoison -/

@[simp] theorem State.setPoison_cur (s : State) (p : Nat) : (s.setPoison p).cur = s.cur := rfl
@[simp] theorem State.setPoison_agenda (s : State) (p : Nat) : (s.setPoison p).agenda = s.agenda := rfl
@[simp] theorem State.setPoison_devTurn (s : State) (p : Nat) : (s.setPoison p).devTurn = s.devTurn := rfl
@[simp] theorem State.setPoison_turnNo (s : State) (p : Nat) : (s.setPoison p).turnNo = s.turnNo := rfl
@[simp] theorem State.setPoison_fresh (s : State) (p : Nat) : (s.setPoison p).fresh = s.fresh := rfl
@[simp] theorem State.setPoison_nextUid (s : State) (p : Nat) : (s.setPoison p).nextUid = s.nextUid := rfl
@[simp] theorem State.setPoison_todo (s : State) (p : Nat) : (s.setPoison p).todo = s.todo := rfl
@[simp] theorem State.setPoison_now (s : State) (p : Nat) : (s.setPoison p).now = s.now := rfl
@[simp] theorem State.setPoison_issueFrom (s : State) (p : Nat) : (s.setPoison p).issueFrom = s.issueFrom := rfl
@[simp] theorem State.setPoison_mem (s : State) (p : Nat) : (s.setPoison p).mem = s.mem := rfl
@[simp] theorem State.setPoison_emptyWords (s : State) (p : Nat) : (s.setPoison p).emptyWords = s.emptyWords := rfl
@[simp] theorem State.setPoison_notReady (s : State) (p : Nat) : (s.setPoison p).notReady = s.notReady := rfl
@[simp] theorem State.setPoison_stores (s : State) (p : Nat) : (s.setPoison p).stores = s.stores := rfl
@[simp] theorem State.setPoison_seen (s : State) (p : Nat) : (s.setPoison p).seen = s.seen := rfl
@[simp] theorem State.setPoison_arrived (s : State) (p : Nat) : (s.setPoison p).arrived = s.arrived := rfl
@[simp] theorem State.setPoison_slots (s : State) (p : Nat) : (s.setPoison p).slots = s.slots := rfl
@[simp] theorem State.setPoison_cores (s : State) (p : Nat) : (s.setPoison p).cores = s.cores := rfl
@[simp] theorem State.setPoison_dies (s : State) (p : Nat) : (s.setPoison p).dies = s.dies := rfl
@[simp] theorem State.setPoison_ios (s : State) (p : Nat) : (s.setPoison p).ios = s.ios := rfl
@[simp] theorem State.setPoison_channels (s : State) (p : Nat) : (s.setPoison p).channels = s.channels := rfl
@[simp] theorem State.setPoison_frames (s : State) (p : Nat) : (s.setPoison p).frames = s.frames := rfl
@[simp] theorem State.setPoison_links (s : State) (p : Nat) : (s.setPoison p).links = s.links := rfl
@[simp] theorem State.setPoison_carried (s : State) (p : Nat) : (s.setPoison p).carried = s.carried := rfl
@[simp] theorem State.setPoison_inbound (s : State) (p : Nat) : (s.setPoison p).inbound = s.inbound := rfl
@[simp] theorem State.setPoison_spareWires (s : State) (p : Nat) : (s.setPoison p).spareWires = s.spareWires := rfl
@[simp] theorem State.setPoison_inService (s : State) (p : Nat) : (s.setPoison p).inService = s.inService := rfl
@[simp] theorem State.setPoison_decoders (s : State) (p : Nat) : (s.setPoison p).decoders = s.decoders := rfl
@[simp] theorem State.setPoison_badTransfers (s : State) (p : Nat) : (s.setPoison p).badTransfers = s.badTransfers := rfl
@[simp] theorem State.setPoison_badReads (s : State) (p : Nat) : (s.setPoison p).badReads = s.badReads := rfl
@[simp] theorem State.setPoison_worklists (s : State) (p : Nat) : (s.setPoison p).worklists = s.worklists := rfl
@[simp] theorem State.setPoison_sluices (s : State) (p : Nat) : (s.setPoison p).sluices = s.sluices := rfl
@[simp] theorem State.setPoison_pushSeq (s : State) (p : Nat) : (s.setPoison p).pushSeq = s.pushSeq := rfl
@[simp] theorem State.setPoison_jobs (s : State) (p : Nat) : (s.setPoison p).jobs = s.jobs := rfl
@[simp] theorem State.setPoison_gangs (s : State) (p : Nat) : (s.setPoison p).gangs = s.gangs := rfl
@[simp] theorem State.setPoison_slotres (s : State) (p : Nat) : (s.setPoison p).slotres = s.slotres := rfl
@[simp] theorem State.setPoison_noteJob (s : State) (p : Nat) : (s.setPoison p).noteJob = s.noteJob := rfl
@[simp] theorem State.setPoison_noteWl (s : State) (p : Nat) : (s.setPoison p).noteWl = s.noteWl := rfl
@[simp] theorem State.setPoison_noteEn (s : State) (p : Nat) : (s.setPoison p).noteEn = s.noteEn := rfl
@[simp] theorem State.setPoison_asroot (s : State) (p : Nat) : (s.setPoison p).asroot = s.asroot := rfl
@[simp] theorem State.setPoison_copies (s : State) (p : Nat) : (s.setPoison p).copies = s.copies := rfl
@[simp] theorem State.setPoison_podTout (s : State) (p : Nat) : (s.setPoison p).podTout = s.podTout := rfl
@[simp] theorem State.setPoison_modNum (s : State) (p : Nat) : (s.setPoison p).modNum = s.modNum := rfl
@[simp] theorem State.setPoison_pod (s : State) (p : Nat) : (s.setPoison p).pod = s.pod := rfl
@[simp] theorem State.setPoison_shadowOut (s : State) (p : Nat) : (s.setPoison p).shadowOut = s.shadowOut := rfl
@[simp] theorem State.setPoison_flushAsked (s : State) (p : Nat) : (s.setPoison p).flushAsked = s.flushAsked := rfl
@[simp] theorem State.setPoison_flushOut (s : State) (p : Nat) : (s.setPoison p).flushOut = s.flushOut := rfl
@[simp] theorem State.setPoison_status (s : State) (p : Nat) : (s.setPoison p).status = s.status := rfl
@[simp] theorem State.setPoison_ready (s : State) (p : Nat) : (s.setPoison p).ready = s.ready := rfl
@[simp] theorem State.setPoison_booterr (s : State) (p : Nat) : (s.setPoison p).booterr = s.booterr := rfl
@[simp] theorem State.setPoison_snap (s : State) (p : Nat) : (s.setPoison p).snap = s.snap := rfl
@[simp] theorem State.setPoison_snapLost (s : State) (p : Nat) : (s.setPoison p).snapLost = s.snapLost := rfl
@[simp] theorem State.setPoison_snapAt (s : State) (p : Nat) : (s.setPoison p).snapAt = s.snapAt := rfl
@[simp] theorem State.setPoison_topleft (s : State) (p : Nat) : (s.setPoison p).topleft = s.topleft := rfl
@[simp] theorem State.setPoison_mbxGo (s : State) (p : Nat) : (s.setPoison p).mbxGo = s.mbxGo := rfl
@[simp] theorem State.setPoison_mbxDone (s : State) (p : Nat) : (s.setPoison p).mbxDone = s.mbxDone := rfl
@[simp] theorem State.setPoison_hostId (s : State) (p : Nat) : (s.setPoison p).hostId = s.hostId := rfl
@[simp] theorem State.setPoison_hostRead (s : State) (p : Nat) : (s.setPoison p).hostRead = s.hostRead := rfl
@[simp] theorem State.setPoison_hostPoison (s : State) (p : Nat) : (s.setPoison p).hostPoison = s.hostPoison := rfl
@[simp] theorem State.setPoison_fusedMin (s : State) (p : Nat) : (s.setPoison p).fusedMin = s.fusedMin := rfl
@[simp] theorem State.setPoison_fwVersion (s : State) (p : Nat) : (s.setPoison p).fwVersion = s.fwVersion := rfl
@[simp] theorem State.setPoison_lowerLeft (s : State) (p : Nat) : (s.setPoison p).lowerLeft = s.lowerLeft := rfl
@[simp] theorem State.setPoison_images (s : State) (p : Nat) : (s.setPoison p).images = s.images := rfl
@[simp] theorem State.setPoison_loaded (s : State) (p : Nat) : (s.setPoison p).loaded = s.loaded := rfl
@[simp] theorem State.setPoison_boot (s : State) (p : Nat) : (s.setPoison p).boot = s.boot := rfl
@[simp] theorem State.setPoison_rings (s : State) (p : Nat) : (s.setPoison p).rings = s.rings := rfl
@[simp] theorem State.setPoison_mhl (s : State) (p : Nat) : (s.setPoison p).mhl = s.mhl := rfl
@[simp] theorem State.setPoison_mhlTried (s : State) (p : Nat) : (s.setPoison p).mhlTried = s.mhlTried := rfl
@[simp] theorem State.setPoison_booting (s : State) (p : Nat) : (s.setPoison p).booting = s.booting := rfl
@[simp] theorem State.setPoison_excessSince (s : State) (p : Nat) : (s.setPoison p).excessSince = s.excessSince := rfl
@[simp] theorem State.setPoison_powerSkip (s : State) (p : Nat) : (s.setPoison p).powerSkip = s.powerSkip := rfl
@[simp] theorem State.setPoison_stopped (s : State) (p : Nat) : (s.setPoison p).stopped = s.stopped := rfl

/-! ### State.setFull -/

@[simp] theorem State.setFull_cur (s : State) (p : Nat) (f : Bool) : (s.setFull p f).cur = s.cur := rfl
@[simp] theorem State.setFull_agenda (s : State) (p : Nat) (f : Bool) : (s.setFull p f).agenda = s.agenda := rfl
@[simp] theorem State.setFull_devTurn (s : State) (p : Nat) (f : Bool) : (s.setFull p f).devTurn = s.devTurn := rfl
@[simp] theorem State.setFull_turnNo (s : State) (p : Nat) (f : Bool) : (s.setFull p f).turnNo = s.turnNo := rfl
@[simp] theorem State.setFull_fresh (s : State) (p : Nat) (f : Bool) : (s.setFull p f).fresh = s.fresh := rfl
@[simp] theorem State.setFull_nextUid (s : State) (p : Nat) (f : Bool) : (s.setFull p f).nextUid = s.nextUid := rfl
@[simp] theorem State.setFull_todo (s : State) (p : Nat) (f : Bool) : (s.setFull p f).todo = s.todo := rfl
@[simp] theorem State.setFull_now (s : State) (p : Nat) (f : Bool) : (s.setFull p f).now = s.now := rfl
@[simp] theorem State.setFull_issueFrom (s : State) (p : Nat) (f : Bool) : (s.setFull p f).issueFrom = s.issueFrom := rfl
@[simp] theorem State.setFull_mem (s : State) (p : Nat) (f : Bool) : (s.setFull p f).mem = s.mem := rfl
@[simp] theorem State.setFull_poisoned (s : State) (p : Nat) (f : Bool) : (s.setFull p f).poisoned = s.poisoned := rfl
@[simp] theorem State.setFull_notReady (s : State) (p : Nat) (f : Bool) : (s.setFull p f).notReady = s.notReady := rfl
@[simp] theorem State.setFull_stores (s : State) (p : Nat) (f : Bool) : (s.setFull p f).stores = s.stores := rfl
@[simp] theorem State.setFull_seen (s : State) (p : Nat) (f : Bool) : (s.setFull p f).seen = s.seen := rfl
@[simp] theorem State.setFull_arrived (s : State) (p : Nat) (f : Bool) : (s.setFull p f).arrived = s.arrived := rfl
@[simp] theorem State.setFull_slots (s : State) (p : Nat) (f : Bool) : (s.setFull p f).slots = s.slots := rfl
@[simp] theorem State.setFull_cores (s : State) (p : Nat) (f : Bool) : (s.setFull p f).cores = s.cores := rfl
@[simp] theorem State.setFull_dies (s : State) (p : Nat) (f : Bool) : (s.setFull p f).dies = s.dies := rfl
@[simp] theorem State.setFull_ios (s : State) (p : Nat) (f : Bool) : (s.setFull p f).ios = s.ios := rfl
@[simp] theorem State.setFull_channels (s : State) (p : Nat) (f : Bool) : (s.setFull p f).channels = s.channels := rfl
@[simp] theorem State.setFull_frames (s : State) (p : Nat) (f : Bool) : (s.setFull p f).frames = s.frames := rfl
@[simp] theorem State.setFull_links (s : State) (p : Nat) (f : Bool) : (s.setFull p f).links = s.links := rfl
@[simp] theorem State.setFull_carried (s : State) (p : Nat) (f : Bool) : (s.setFull p f).carried = s.carried := rfl
@[simp] theorem State.setFull_inbound (s : State) (p : Nat) (f : Bool) : (s.setFull p f).inbound = s.inbound := rfl
@[simp] theorem State.setFull_spareWires (s : State) (p : Nat) (f : Bool) : (s.setFull p f).spareWires = s.spareWires := rfl
@[simp] theorem State.setFull_inService (s : State) (p : Nat) (f : Bool) : (s.setFull p f).inService = s.inService := rfl
@[simp] theorem State.setFull_decoders (s : State) (p : Nat) (f : Bool) : (s.setFull p f).decoders = s.decoders := rfl
@[simp] theorem State.setFull_badTransfers (s : State) (p : Nat) (f : Bool) : (s.setFull p f).badTransfers = s.badTransfers := rfl
@[simp] theorem State.setFull_badReads (s : State) (p : Nat) (f : Bool) : (s.setFull p f).badReads = s.badReads := rfl
@[simp] theorem State.setFull_worklists (s : State) (p : Nat) (f : Bool) : (s.setFull p f).worklists = s.worklists := rfl
@[simp] theorem State.setFull_sluices (s : State) (p : Nat) (f : Bool) : (s.setFull p f).sluices = s.sluices := rfl
@[simp] theorem State.setFull_pushSeq (s : State) (p : Nat) (f : Bool) : (s.setFull p f).pushSeq = s.pushSeq := rfl
@[simp] theorem State.setFull_jobs (s : State) (p : Nat) (f : Bool) : (s.setFull p f).jobs = s.jobs := rfl
@[simp] theorem State.setFull_gangs (s : State) (p : Nat) (f : Bool) : (s.setFull p f).gangs = s.gangs := rfl
@[simp] theorem State.setFull_slotres (s : State) (p : Nat) (f : Bool) : (s.setFull p f).slotres = s.slotres := rfl
@[simp] theorem State.setFull_noteJob (s : State) (p : Nat) (f : Bool) : (s.setFull p f).noteJob = s.noteJob := rfl
@[simp] theorem State.setFull_noteWl (s : State) (p : Nat) (f : Bool) : (s.setFull p f).noteWl = s.noteWl := rfl
@[simp] theorem State.setFull_noteEn (s : State) (p : Nat) (f : Bool) : (s.setFull p f).noteEn = s.noteEn := rfl
@[simp] theorem State.setFull_asroot (s : State) (p : Nat) (f : Bool) : (s.setFull p f).asroot = s.asroot := rfl
@[simp] theorem State.setFull_copies (s : State) (p : Nat) (f : Bool) : (s.setFull p f).copies = s.copies := rfl
@[simp] theorem State.setFull_podTout (s : State) (p : Nat) (f : Bool) : (s.setFull p f).podTout = s.podTout := rfl
@[simp] theorem State.setFull_modNum (s : State) (p : Nat) (f : Bool) : (s.setFull p f).modNum = s.modNum := rfl
@[simp] theorem State.setFull_pod (s : State) (p : Nat) (f : Bool) : (s.setFull p f).pod = s.pod := rfl
@[simp] theorem State.setFull_shadowOut (s : State) (p : Nat) (f : Bool) : (s.setFull p f).shadowOut = s.shadowOut := rfl
@[simp] theorem State.setFull_flushAsked (s : State) (p : Nat) (f : Bool) : (s.setFull p f).flushAsked = s.flushAsked := rfl
@[simp] theorem State.setFull_flushOut (s : State) (p : Nat) (f : Bool) : (s.setFull p f).flushOut = s.flushOut := rfl
@[simp] theorem State.setFull_status (s : State) (p : Nat) (f : Bool) : (s.setFull p f).status = s.status := rfl
@[simp] theorem State.setFull_ready (s : State) (p : Nat) (f : Bool) : (s.setFull p f).ready = s.ready := rfl
@[simp] theorem State.setFull_booterr (s : State) (p : Nat) (f : Bool) : (s.setFull p f).booterr = s.booterr := rfl
@[simp] theorem State.setFull_snap (s : State) (p : Nat) (f : Bool) : (s.setFull p f).snap = s.snap := rfl
@[simp] theorem State.setFull_snapLost (s : State) (p : Nat) (f : Bool) : (s.setFull p f).snapLost = s.snapLost := rfl
@[simp] theorem State.setFull_snapAt (s : State) (p : Nat) (f : Bool) : (s.setFull p f).snapAt = s.snapAt := rfl
@[simp] theorem State.setFull_topleft (s : State) (p : Nat) (f : Bool) : (s.setFull p f).topleft = s.topleft := rfl
@[simp] theorem State.setFull_mbxGo (s : State) (p : Nat) (f : Bool) : (s.setFull p f).mbxGo = s.mbxGo := rfl
@[simp] theorem State.setFull_mbxDone (s : State) (p : Nat) (f : Bool) : (s.setFull p f).mbxDone = s.mbxDone := rfl
@[simp] theorem State.setFull_hostId (s : State) (p : Nat) (f : Bool) : (s.setFull p f).hostId = s.hostId := rfl
@[simp] theorem State.setFull_hostRead (s : State) (p : Nat) (f : Bool) : (s.setFull p f).hostRead = s.hostRead := rfl
@[simp] theorem State.setFull_hostPoison (s : State) (p : Nat) (f : Bool) : (s.setFull p f).hostPoison = s.hostPoison := rfl
@[simp] theorem State.setFull_fusedMin (s : State) (p : Nat) (f : Bool) : (s.setFull p f).fusedMin = s.fusedMin := rfl
@[simp] theorem State.setFull_fwVersion (s : State) (p : Nat) (f : Bool) : (s.setFull p f).fwVersion = s.fwVersion := rfl
@[simp] theorem State.setFull_lowerLeft (s : State) (p : Nat) (f : Bool) : (s.setFull p f).lowerLeft = s.lowerLeft := rfl
@[simp] theorem State.setFull_images (s : State) (p : Nat) (f : Bool) : (s.setFull p f).images = s.images := rfl
@[simp] theorem State.setFull_loaded (s : State) (p : Nat) (f : Bool) : (s.setFull p f).loaded = s.loaded := rfl
@[simp] theorem State.setFull_boot (s : State) (p : Nat) (f : Bool) : (s.setFull p f).boot = s.boot := rfl
@[simp] theorem State.setFull_rings (s : State) (p : Nat) (f : Bool) : (s.setFull p f).rings = s.rings := rfl
@[simp] theorem State.setFull_mhl (s : State) (p : Nat) (f : Bool) : (s.setFull p f).mhl = s.mhl := rfl
@[simp] theorem State.setFull_mhlTried (s : State) (p : Nat) (f : Bool) : (s.setFull p f).mhlTried = s.mhlTried := rfl
@[simp] theorem State.setFull_booting (s : State) (p : Nat) (f : Bool) : (s.setFull p f).booting = s.booting := rfl
@[simp] theorem State.setFull_excessSince (s : State) (p : Nat) (f : Bool) : (s.setFull p f).excessSince = s.excessSince := rfl
@[simp] theorem State.setFull_powerSkip (s : State) (p : Nat) (f : Bool) : (s.setFull p f).powerSkip = s.powerSkip := rfl
@[simp] theorem State.setFull_stopped (s : State) (p : Nat) (f : Bool) : (s.setFull p f).stopped = s.stopped := rfl

/-! ### State.fillWords -/

@[simp] theorem State.fillWords_cur (s : State) (p n : Nat) : (s.fillWords p n).cur = s.cur := rfl
@[simp] theorem State.fillWords_agenda (s : State) (p n : Nat) : (s.fillWords p n).agenda = s.agenda := rfl
@[simp] theorem State.fillWords_devTurn (s : State) (p n : Nat) : (s.fillWords p n).devTurn = s.devTurn := rfl
@[simp] theorem State.fillWords_turnNo (s : State) (p n : Nat) : (s.fillWords p n).turnNo = s.turnNo := rfl
@[simp] theorem State.fillWords_fresh (s : State) (p n : Nat) : (s.fillWords p n).fresh = s.fresh := rfl
@[simp] theorem State.fillWords_nextUid (s : State) (p n : Nat) : (s.fillWords p n).nextUid = s.nextUid := rfl
@[simp] theorem State.fillWords_todo (s : State) (p n : Nat) : (s.fillWords p n).todo = s.todo := rfl
@[simp] theorem State.fillWords_now (s : State) (p n : Nat) : (s.fillWords p n).now = s.now := rfl
@[simp] theorem State.fillWords_issueFrom (s : State) (p n : Nat) : (s.fillWords p n).issueFrom = s.issueFrom := rfl
@[simp] theorem State.fillWords_mem (s : State) (p n : Nat) : (s.fillWords p n).mem = s.mem := rfl
@[simp] theorem State.fillWords_poisoned (s : State) (p n : Nat) : (s.fillWords p n).poisoned = s.poisoned := rfl
@[simp] theorem State.fillWords_notReady (s : State) (p n : Nat) : (s.fillWords p n).notReady = s.notReady := rfl
@[simp] theorem State.fillWords_stores (s : State) (p n : Nat) : (s.fillWords p n).stores = s.stores := rfl
@[simp] theorem State.fillWords_seen (s : State) (p n : Nat) : (s.fillWords p n).seen = s.seen := rfl
@[simp] theorem State.fillWords_arrived (s : State) (p n : Nat) : (s.fillWords p n).arrived = s.arrived := rfl
@[simp] theorem State.fillWords_slots (s : State) (p n : Nat) : (s.fillWords p n).slots = s.slots := rfl
@[simp] theorem State.fillWords_cores (s : State) (p n : Nat) : (s.fillWords p n).cores = s.cores := rfl
@[simp] theorem State.fillWords_dies (s : State) (p n : Nat) : (s.fillWords p n).dies = s.dies := rfl
@[simp] theorem State.fillWords_ios (s : State) (p n : Nat) : (s.fillWords p n).ios = s.ios := rfl
@[simp] theorem State.fillWords_channels (s : State) (p n : Nat) : (s.fillWords p n).channels = s.channels := rfl
@[simp] theorem State.fillWords_frames (s : State) (p n : Nat) : (s.fillWords p n).frames = s.frames := rfl
@[simp] theorem State.fillWords_links (s : State) (p n : Nat) : (s.fillWords p n).links = s.links := rfl
@[simp] theorem State.fillWords_carried (s : State) (p n : Nat) : (s.fillWords p n).carried = s.carried := rfl
@[simp] theorem State.fillWords_inbound (s : State) (p n : Nat) : (s.fillWords p n).inbound = s.inbound := rfl
@[simp] theorem State.fillWords_spareWires (s : State) (p n : Nat) : (s.fillWords p n).spareWires = s.spareWires := rfl
@[simp] theorem State.fillWords_inService (s : State) (p n : Nat) : (s.fillWords p n).inService = s.inService := rfl
@[simp] theorem State.fillWords_decoders (s : State) (p n : Nat) : (s.fillWords p n).decoders = s.decoders := rfl
@[simp] theorem State.fillWords_badTransfers (s : State) (p n : Nat) : (s.fillWords p n).badTransfers = s.badTransfers := rfl
@[simp] theorem State.fillWords_badReads (s : State) (p n : Nat) : (s.fillWords p n).badReads = s.badReads := rfl
@[simp] theorem State.fillWords_worklists (s : State) (p n : Nat) : (s.fillWords p n).worklists = s.worklists := rfl
@[simp] theorem State.fillWords_sluices (s : State) (p n : Nat) : (s.fillWords p n).sluices = s.sluices := rfl
@[simp] theorem State.fillWords_pushSeq (s : State) (p n : Nat) : (s.fillWords p n).pushSeq = s.pushSeq := rfl
@[simp] theorem State.fillWords_jobs (s : State) (p n : Nat) : (s.fillWords p n).jobs = s.jobs := rfl
@[simp] theorem State.fillWords_gangs (s : State) (p n : Nat) : (s.fillWords p n).gangs = s.gangs := rfl
@[simp] theorem State.fillWords_slotres (s : State) (p n : Nat) : (s.fillWords p n).slotres = s.slotres := rfl
@[simp] theorem State.fillWords_noteJob (s : State) (p n : Nat) : (s.fillWords p n).noteJob = s.noteJob := rfl
@[simp] theorem State.fillWords_noteWl (s : State) (p n : Nat) : (s.fillWords p n).noteWl = s.noteWl := rfl
@[simp] theorem State.fillWords_noteEn (s : State) (p n : Nat) : (s.fillWords p n).noteEn = s.noteEn := rfl
@[simp] theorem State.fillWords_asroot (s : State) (p n : Nat) : (s.fillWords p n).asroot = s.asroot := rfl
@[simp] theorem State.fillWords_copies (s : State) (p n : Nat) : (s.fillWords p n).copies = s.copies := rfl
@[simp] theorem State.fillWords_podTout (s : State) (p n : Nat) : (s.fillWords p n).podTout = s.podTout := rfl
@[simp] theorem State.fillWords_modNum (s : State) (p n : Nat) : (s.fillWords p n).modNum = s.modNum := rfl
@[simp] theorem State.fillWords_pod (s : State) (p n : Nat) : (s.fillWords p n).pod = s.pod := rfl
@[simp] theorem State.fillWords_shadowOut (s : State) (p n : Nat) : (s.fillWords p n).shadowOut = s.shadowOut := rfl
@[simp] theorem State.fillWords_flushAsked (s : State) (p n : Nat) : (s.fillWords p n).flushAsked = s.flushAsked := rfl
@[simp] theorem State.fillWords_flushOut (s : State) (p n : Nat) : (s.fillWords p n).flushOut = s.flushOut := rfl
@[simp] theorem State.fillWords_status (s : State) (p n : Nat) : (s.fillWords p n).status = s.status := rfl
@[simp] theorem State.fillWords_ready (s : State) (p n : Nat) : (s.fillWords p n).ready = s.ready := rfl
@[simp] theorem State.fillWords_booterr (s : State) (p n : Nat) : (s.fillWords p n).booterr = s.booterr := rfl
@[simp] theorem State.fillWords_snap (s : State) (p n : Nat) : (s.fillWords p n).snap = s.snap := rfl
@[simp] theorem State.fillWords_snapLost (s : State) (p n : Nat) : (s.fillWords p n).snapLost = s.snapLost := rfl
@[simp] theorem State.fillWords_snapAt (s : State) (p n : Nat) : (s.fillWords p n).snapAt = s.snapAt := rfl
@[simp] theorem State.fillWords_topleft (s : State) (p n : Nat) : (s.fillWords p n).topleft = s.topleft := rfl
@[simp] theorem State.fillWords_mbxGo (s : State) (p n : Nat) : (s.fillWords p n).mbxGo = s.mbxGo := rfl
@[simp] theorem State.fillWords_mbxDone (s : State) (p n : Nat) : (s.fillWords p n).mbxDone = s.mbxDone := rfl
@[simp] theorem State.fillWords_hostId (s : State) (p n : Nat) : (s.fillWords p n).hostId = s.hostId := rfl
@[simp] theorem State.fillWords_hostRead (s : State) (p n : Nat) : (s.fillWords p n).hostRead = s.hostRead := rfl
@[simp] theorem State.fillWords_hostPoison (s : State) (p n : Nat) : (s.fillWords p n).hostPoison = s.hostPoison := rfl
@[simp] theorem State.fillWords_fusedMin (s : State) (p n : Nat) : (s.fillWords p n).fusedMin = s.fusedMin := rfl
@[simp] theorem State.fillWords_fwVersion (s : State) (p n : Nat) : (s.fillWords p n).fwVersion = s.fwVersion := rfl
@[simp] theorem State.fillWords_lowerLeft (s : State) (p n : Nat) : (s.fillWords p n).lowerLeft = s.lowerLeft := rfl
@[simp] theorem State.fillWords_images (s : State) (p n : Nat) : (s.fillWords p n).images = s.images := rfl
@[simp] theorem State.fillWords_loaded (s : State) (p n : Nat) : (s.fillWords p n).loaded = s.loaded := rfl
@[simp] theorem State.fillWords_boot (s : State) (p n : Nat) : (s.fillWords p n).boot = s.boot := rfl
@[simp] theorem State.fillWords_rings (s : State) (p n : Nat) : (s.fillWords p n).rings = s.rings := rfl
@[simp] theorem State.fillWords_mhl (s : State) (p n : Nat) : (s.fillWords p n).mhl = s.mhl := rfl
@[simp] theorem State.fillWords_mhlTried (s : State) (p n : Nat) : (s.fillWords p n).mhlTried = s.mhlTried := rfl
@[simp] theorem State.fillWords_booting (s : State) (p n : Nat) : (s.fillWords p n).booting = s.booting := rfl
@[simp] theorem State.fillWords_excessSince (s : State) (p n : Nat) : (s.fillWords p n).excessSince = s.excessSince := rfl
@[simp] theorem State.fillWords_powerSkip (s : State) (p n : Nat) : (s.fillWords p n).powerSkip = s.powerSkip := rfl
@[simp] theorem State.fillWords_stopped (s : State) (p n : Nat) : (s.fillWords p n).stopped = s.stopped := rfl

/-! ### State.openUp -/

@[simp] theorem State.openUp_cur (s : State) (p n : Nat) : (s.openUp p n).cur = s.cur := rfl
@[simp] theorem State.openUp_agenda (s : State) (p n : Nat) : (s.openUp p n).agenda = s.agenda := rfl
@[simp] theorem State.openUp_devTurn (s : State) (p n : Nat) : (s.openUp p n).devTurn = s.devTurn := rfl
@[simp] theorem State.openUp_turnNo (s : State) (p n : Nat) : (s.openUp p n).turnNo = s.turnNo := rfl
@[simp] theorem State.openUp_nextUid (s : State) (p n : Nat) : (s.openUp p n).nextUid = s.nextUid := rfl
@[simp] theorem State.openUp_todo (s : State) (p n : Nat) : (s.openUp p n).todo = s.todo := rfl
@[simp] theorem State.openUp_now (s : State) (p n : Nat) : (s.openUp p n).now = s.now := rfl
@[simp] theorem State.openUp_issueFrom (s : State) (p n : Nat) : (s.openUp p n).issueFrom = s.issueFrom := rfl
@[simp] theorem State.openUp_emptyWords (s : State) (p n : Nat) : (s.openUp p n).emptyWords = s.emptyWords := rfl
@[simp] theorem State.openUp_poisoned (s : State) (p n : Nat) : (s.openUp p n).poisoned = s.poisoned := rfl
@[simp] theorem State.openUp_notReady (s : State) (p n : Nat) : (s.openUp p n).notReady = s.notReady := rfl
@[simp] theorem State.openUp_stores (s : State) (p n : Nat) : (s.openUp p n).stores = s.stores := rfl
@[simp] theorem State.openUp_seen (s : State) (p n : Nat) : (s.openUp p n).seen = s.seen := rfl
@[simp] theorem State.openUp_arrived (s : State) (p n : Nat) : (s.openUp p n).arrived = s.arrived := rfl
@[simp] theorem State.openUp_slots (s : State) (p n : Nat) : (s.openUp p n).slots = s.slots := rfl
@[simp] theorem State.openUp_cores (s : State) (p n : Nat) : (s.openUp p n).cores = s.cores := rfl
@[simp] theorem State.openUp_dies (s : State) (p n : Nat) : (s.openUp p n).dies = s.dies := rfl
@[simp] theorem State.openUp_ios (s : State) (p n : Nat) : (s.openUp p n).ios = s.ios := rfl
@[simp] theorem State.openUp_channels (s : State) (p n : Nat) : (s.openUp p n).channels = s.channels := rfl
@[simp] theorem State.openUp_frames (s : State) (p n : Nat) : (s.openUp p n).frames = s.frames := rfl
@[simp] theorem State.openUp_links (s : State) (p n : Nat) : (s.openUp p n).links = s.links := rfl
@[simp] theorem State.openUp_carried (s : State) (p n : Nat) : (s.openUp p n).carried = s.carried := rfl
@[simp] theorem State.openUp_inbound (s : State) (p n : Nat) : (s.openUp p n).inbound = s.inbound := rfl
@[simp] theorem State.openUp_spareWires (s : State) (p n : Nat) : (s.openUp p n).spareWires = s.spareWires := rfl
@[simp] theorem State.openUp_inService (s : State) (p n : Nat) : (s.openUp p n).inService = s.inService := rfl
@[simp] theorem State.openUp_decoders (s : State) (p n : Nat) : (s.openUp p n).decoders = s.decoders := rfl
@[simp] theorem State.openUp_badTransfers (s : State) (p n : Nat) : (s.openUp p n).badTransfers = s.badTransfers := rfl
@[simp] theorem State.openUp_badReads (s : State) (p n : Nat) : (s.openUp p n).badReads = s.badReads := rfl
@[simp] theorem State.openUp_worklists (s : State) (p n : Nat) : (s.openUp p n).worklists = s.worklists := rfl
@[simp] theorem State.openUp_sluices (s : State) (p n : Nat) : (s.openUp p n).sluices = s.sluices := rfl
@[simp] theorem State.openUp_pushSeq (s : State) (p n : Nat) : (s.openUp p n).pushSeq = s.pushSeq := rfl
@[simp] theorem State.openUp_jobs (s : State) (p n : Nat) : (s.openUp p n).jobs = s.jobs := rfl
@[simp] theorem State.openUp_gangs (s : State) (p n : Nat) : (s.openUp p n).gangs = s.gangs := rfl
@[simp] theorem State.openUp_slotres (s : State) (p n : Nat) : (s.openUp p n).slotres = s.slotres := rfl
@[simp] theorem State.openUp_noteJob (s : State) (p n : Nat) : (s.openUp p n).noteJob = s.noteJob := rfl
@[simp] theorem State.openUp_noteWl (s : State) (p n : Nat) : (s.openUp p n).noteWl = s.noteWl := rfl
@[simp] theorem State.openUp_noteEn (s : State) (p n : Nat) : (s.openUp p n).noteEn = s.noteEn := rfl
@[simp] theorem State.openUp_asroot (s : State) (p n : Nat) : (s.openUp p n).asroot = s.asroot := rfl
@[simp] theorem State.openUp_copies (s : State) (p n : Nat) : (s.openUp p n).copies = s.copies := rfl
@[simp] theorem State.openUp_podTout (s : State) (p n : Nat) : (s.openUp p n).podTout = s.podTout := rfl
@[simp] theorem State.openUp_modNum (s : State) (p n : Nat) : (s.openUp p n).modNum = s.modNum := rfl
@[simp] theorem State.openUp_pod (s : State) (p n : Nat) : (s.openUp p n).pod = s.pod := rfl
@[simp] theorem State.openUp_shadowOut (s : State) (p n : Nat) : (s.openUp p n).shadowOut = s.shadowOut := rfl
@[simp] theorem State.openUp_flushAsked (s : State) (p n : Nat) : (s.openUp p n).flushAsked = s.flushAsked := rfl
@[simp] theorem State.openUp_flushOut (s : State) (p n : Nat) : (s.openUp p n).flushOut = s.flushOut := rfl
@[simp] theorem State.openUp_status (s : State) (p n : Nat) : (s.openUp p n).status = s.status := rfl
@[simp] theorem State.openUp_ready (s : State) (p n : Nat) : (s.openUp p n).ready = s.ready := rfl
@[simp] theorem State.openUp_booterr (s : State) (p n : Nat) : (s.openUp p n).booterr = s.booterr := rfl
@[simp] theorem State.openUp_snap (s : State) (p n : Nat) : (s.openUp p n).snap = s.snap := rfl
@[simp] theorem State.openUp_snapLost (s : State) (p n : Nat) : (s.openUp p n).snapLost = s.snapLost := rfl
@[simp] theorem State.openUp_snapAt (s : State) (p n : Nat) : (s.openUp p n).snapAt = s.snapAt := rfl
@[simp] theorem State.openUp_topleft (s : State) (p n : Nat) : (s.openUp p n).topleft = s.topleft := rfl
@[simp] theorem State.openUp_mbxGo (s : State) (p n : Nat) : (s.openUp p n).mbxGo = s.mbxGo := rfl
@[simp] theorem State.openUp_mbxDone (s : State) (p n : Nat) : (s.openUp p n).mbxDone = s.mbxDone := rfl
@[simp] theorem State.openUp_hostId (s : State) (p n : Nat) : (s.openUp p n).hostId = s.hostId := rfl
@[simp] theorem State.openUp_hostRead (s : State) (p n : Nat) : (s.openUp p n).hostRead = s.hostRead := rfl
@[simp] theorem State.openUp_hostPoison (s : State) (p n : Nat) : (s.openUp p n).hostPoison = s.hostPoison := rfl
@[simp] theorem State.openUp_fusedMin (s : State) (p n : Nat) : (s.openUp p n).fusedMin = s.fusedMin := rfl
@[simp] theorem State.openUp_fwVersion (s : State) (p n : Nat) : (s.openUp p n).fwVersion = s.fwVersion := rfl
@[simp] theorem State.openUp_lowerLeft (s : State) (p n : Nat) : (s.openUp p n).lowerLeft = s.lowerLeft := rfl
@[simp] theorem State.openUp_images (s : State) (p n : Nat) : (s.openUp p n).images = s.images := rfl
@[simp] theorem State.openUp_loaded (s : State) (p n : Nat) : (s.openUp p n).loaded = s.loaded := rfl
@[simp] theorem State.openUp_boot (s : State) (p n : Nat) : (s.openUp p n).boot = s.boot := rfl
@[simp] theorem State.openUp_rings (s : State) (p n : Nat) : (s.openUp p n).rings = s.rings := rfl
@[simp] theorem State.openUp_mhl (s : State) (p n : Nat) : (s.openUp p n).mhl = s.mhl := rfl
@[simp] theorem State.openUp_mhlTried (s : State) (p n : Nat) : (s.openUp p n).mhlTried = s.mhlTried := rfl
@[simp] theorem State.openUp_booting (s : State) (p n : Nat) : (s.openUp p n).booting = s.booting := rfl
@[simp] theorem State.openUp_excessSince (s : State) (p n : Nat) : (s.openUp p n).excessSince = s.excessSince := rfl
@[simp] theorem State.openUp_powerSkip (s : State) (p n : Nat) : (s.openUp p n).powerSkip = s.powerSkip := rfl
@[simp] theorem State.openUp_stopped (s : State) (p n : Nat) : (s.openUp p n).stopped = s.stopped := rfl

/-! ### State.setCore -/

@[simp] theorem State.setCore_cur (s : State) (c : Nat) (v : Core) : (s.setCore c v).cur = s.cur := rfl
@[simp] theorem State.setCore_agenda (s : State) (c : Nat) (v : Core) : (s.setCore c v).agenda = s.agenda := rfl
@[simp] theorem State.setCore_devTurn (s : State) (c : Nat) (v : Core) : (s.setCore c v).devTurn = s.devTurn := rfl
@[simp] theorem State.setCore_turnNo (s : State) (c : Nat) (v : Core) : (s.setCore c v).turnNo = s.turnNo := rfl
@[simp] theorem State.setCore_fresh (s : State) (c : Nat) (v : Core) : (s.setCore c v).fresh = s.fresh := rfl
@[simp] theorem State.setCore_nextUid (s : State) (c : Nat) (v : Core) : (s.setCore c v).nextUid = s.nextUid := rfl
@[simp] theorem State.setCore_todo (s : State) (c : Nat) (v : Core) : (s.setCore c v).todo = s.todo := rfl
@[simp] theorem State.setCore_now (s : State) (c : Nat) (v : Core) : (s.setCore c v).now = s.now := rfl
@[simp] theorem State.setCore_issueFrom (s : State) (c : Nat) (v : Core) : (s.setCore c v).issueFrom = s.issueFrom := rfl
@[simp] theorem State.setCore_mem (s : State) (c : Nat) (v : Core) : (s.setCore c v).mem = s.mem := rfl
@[simp] theorem State.setCore_emptyWords (s : State) (c : Nat) (v : Core) : (s.setCore c v).emptyWords = s.emptyWords := rfl
@[simp] theorem State.setCore_poisoned (s : State) (c : Nat) (v : Core) : (s.setCore c v).poisoned = s.poisoned := rfl
@[simp] theorem State.setCore_notReady (s : State) (c : Nat) (v : Core) : (s.setCore c v).notReady = s.notReady := rfl
@[simp] theorem State.setCore_stores (s : State) (c : Nat) (v : Core) : (s.setCore c v).stores = s.stores := rfl
@[simp] theorem State.setCore_seen (s : State) (c : Nat) (v : Core) : (s.setCore c v).seen = s.seen := rfl
@[simp] theorem State.setCore_arrived (s : State) (c : Nat) (v : Core) : (s.setCore c v).arrived = s.arrived := rfl
@[simp] theorem State.setCore_slots (s : State) (c : Nat) (v : Core) : (s.setCore c v).slots = s.slots := rfl
@[simp] theorem State.setCore_dies (s : State) (c : Nat) (v : Core) : (s.setCore c v).dies = s.dies := rfl
@[simp] theorem State.setCore_ios (s : State) (c : Nat) (v : Core) : (s.setCore c v).ios = s.ios := rfl
@[simp] theorem State.setCore_channels (s : State) (c : Nat) (v : Core) : (s.setCore c v).channels = s.channels := rfl
@[simp] theorem State.setCore_frames (s : State) (c : Nat) (v : Core) : (s.setCore c v).frames = s.frames := rfl
@[simp] theorem State.setCore_links (s : State) (c : Nat) (v : Core) : (s.setCore c v).links = s.links := rfl
@[simp] theorem State.setCore_carried (s : State) (c : Nat) (v : Core) : (s.setCore c v).carried = s.carried := rfl
@[simp] theorem State.setCore_inbound (s : State) (c : Nat) (v : Core) : (s.setCore c v).inbound = s.inbound := rfl
@[simp] theorem State.setCore_spareWires (s : State) (c : Nat) (v : Core) : (s.setCore c v).spareWires = s.spareWires := rfl
@[simp] theorem State.setCore_inService (s : State) (c : Nat) (v : Core) : (s.setCore c v).inService = s.inService := rfl
@[simp] theorem State.setCore_decoders (s : State) (c : Nat) (v : Core) : (s.setCore c v).decoders = s.decoders := rfl
@[simp] theorem State.setCore_badTransfers (s : State) (c : Nat) (v : Core) : (s.setCore c v).badTransfers = s.badTransfers := rfl
@[simp] theorem State.setCore_badReads (s : State) (c : Nat) (v : Core) : (s.setCore c v).badReads = s.badReads := rfl
@[simp] theorem State.setCore_worklists (s : State) (c : Nat) (v : Core) : (s.setCore c v).worklists = s.worklists := rfl
@[simp] theorem State.setCore_sluices (s : State) (c : Nat) (v : Core) : (s.setCore c v).sluices = s.sluices := rfl
@[simp] theorem State.setCore_pushSeq (s : State) (c : Nat) (v : Core) : (s.setCore c v).pushSeq = s.pushSeq := rfl
@[simp] theorem State.setCore_jobs (s : State) (c : Nat) (v : Core) : (s.setCore c v).jobs = s.jobs := rfl
@[simp] theorem State.setCore_gangs (s : State) (c : Nat) (v : Core) : (s.setCore c v).gangs = s.gangs := rfl
@[simp] theorem State.setCore_slotres (s : State) (c : Nat) (v : Core) : (s.setCore c v).slotres = s.slotres := rfl
@[simp] theorem State.setCore_noteJob (s : State) (c : Nat) (v : Core) : (s.setCore c v).noteJob = s.noteJob := rfl
@[simp] theorem State.setCore_noteWl (s : State) (c : Nat) (v : Core) : (s.setCore c v).noteWl = s.noteWl := rfl
@[simp] theorem State.setCore_noteEn (s : State) (c : Nat) (v : Core) : (s.setCore c v).noteEn = s.noteEn := rfl
@[simp] theorem State.setCore_asroot (s : State) (c : Nat) (v : Core) : (s.setCore c v).asroot = s.asroot := rfl
@[simp] theorem State.setCore_copies (s : State) (c : Nat) (v : Core) : (s.setCore c v).copies = s.copies := rfl
@[simp] theorem State.setCore_podTout (s : State) (c : Nat) (v : Core) : (s.setCore c v).podTout = s.podTout := rfl
@[simp] theorem State.setCore_modNum (s : State) (c : Nat) (v : Core) : (s.setCore c v).modNum = s.modNum := rfl
@[simp] theorem State.setCore_pod (s : State) (c : Nat) (v : Core) : (s.setCore c v).pod = s.pod := rfl
@[simp] theorem State.setCore_shadowOut (s : State) (c : Nat) (v : Core) : (s.setCore c v).shadowOut = s.shadowOut := rfl
@[simp] theorem State.setCore_flushAsked (s : State) (c : Nat) (v : Core) : (s.setCore c v).flushAsked = s.flushAsked := rfl
@[simp] theorem State.setCore_flushOut (s : State) (c : Nat) (v : Core) : (s.setCore c v).flushOut = s.flushOut := rfl
@[simp] theorem State.setCore_status (s : State) (c : Nat) (v : Core) : (s.setCore c v).status = s.status := rfl
@[simp] theorem State.setCore_ready (s : State) (c : Nat) (v : Core) : (s.setCore c v).ready = s.ready := rfl
@[simp] theorem State.setCore_booterr (s : State) (c : Nat) (v : Core) : (s.setCore c v).booterr = s.booterr := rfl
@[simp] theorem State.setCore_snap (s : State) (c : Nat) (v : Core) : (s.setCore c v).snap = s.snap := rfl
@[simp] theorem State.setCore_snapLost (s : State) (c : Nat) (v : Core) : (s.setCore c v).snapLost = s.snapLost := rfl
@[simp] theorem State.setCore_snapAt (s : State) (c : Nat) (v : Core) : (s.setCore c v).snapAt = s.snapAt := rfl
@[simp] theorem State.setCore_topleft (s : State) (c : Nat) (v : Core) : (s.setCore c v).topleft = s.topleft := rfl
@[simp] theorem State.setCore_mbxGo (s : State) (c : Nat) (v : Core) : (s.setCore c v).mbxGo = s.mbxGo := rfl
@[simp] theorem State.setCore_mbxDone (s : State) (c : Nat) (v : Core) : (s.setCore c v).mbxDone = s.mbxDone := rfl
@[simp] theorem State.setCore_hostId (s : State) (c : Nat) (v : Core) : (s.setCore c v).hostId = s.hostId := rfl
@[simp] theorem State.setCore_hostRead (s : State) (c : Nat) (v : Core) : (s.setCore c v).hostRead = s.hostRead := rfl
@[simp] theorem State.setCore_hostPoison (s : State) (c : Nat) (v : Core) : (s.setCore c v).hostPoison = s.hostPoison := rfl
@[simp] theorem State.setCore_fusedMin (s : State) (c : Nat) (v : Core) : (s.setCore c v).fusedMin = s.fusedMin := rfl
@[simp] theorem State.setCore_fwVersion (s : State) (c : Nat) (v : Core) : (s.setCore c v).fwVersion = s.fwVersion := rfl
@[simp] theorem State.setCore_lowerLeft (s : State) (c : Nat) (v : Core) : (s.setCore c v).lowerLeft = s.lowerLeft := rfl
@[simp] theorem State.setCore_images (s : State) (c : Nat) (v : Core) : (s.setCore c v).images = s.images := rfl
@[simp] theorem State.setCore_loaded (s : State) (c : Nat) (v : Core) : (s.setCore c v).loaded = s.loaded := rfl
@[simp] theorem State.setCore_boot (s : State) (c : Nat) (v : Core) : (s.setCore c v).boot = s.boot := rfl
@[simp] theorem State.setCore_rings (s : State) (c : Nat) (v : Core) : (s.setCore c v).rings = s.rings := rfl
@[simp] theorem State.setCore_mhl (s : State) (c : Nat) (v : Core) : (s.setCore c v).mhl = s.mhl := rfl
@[simp] theorem State.setCore_mhlTried (s : State) (c : Nat) (v : Core) : (s.setCore c v).mhlTried = s.mhlTried := rfl
@[simp] theorem State.setCore_booting (s : State) (c : Nat) (v : Core) : (s.setCore c v).booting = s.booting := rfl
@[simp] theorem State.setCore_excessSince (s : State) (c : Nat) (v : Core) : (s.setCore c v).excessSince = s.excessSince := rfl
@[simp] theorem State.setCore_powerSkip (s : State) (c : Nat) (v : Core) : (s.setCore c v).powerSkip = s.powerSkip := rfl
@[simp] theorem State.setCore_stopped (s : State) (c : Nat) (v : Core) : (s.setCore c v).stopped = s.stopped := rfl

/-! ### State.modCore -/

@[simp] theorem State.modCore_cur (s : State) (c : Nat) (f : Core → Core) : (s.modCore c f).cur = s.cur := rfl
@[simp] theorem State.modCore_agenda (s : State) (c : Nat) (f : Core → Core) : (s.modCore c f).agenda = s.agenda := rfl
@[simp] theorem State.modCore_devTurn (s : State) (c : Nat) (f : Core → Core) : (s.modCore c f).devTurn = s.devTurn := rfl
@[simp] theorem State.modCore_turnNo (s : State) (c : Nat) (f : Core → Core) : (s.modCore c f).turnNo = s.turnNo := rfl
@[simp] theorem State.modCore_fresh (s : State) (c : Nat) (f : Core → Core) : (s.modCore c f).fresh = s.fresh := rfl
@[simp] theorem State.modCore_nextUid (s : State) (c : Nat) (f : Core → Core) : (s.modCore c f).nextUid = s.nextUid := rfl
@[simp] theorem State.modCore_todo (s : State) (c : Nat) (f : Core → Core) : (s.modCore c f).todo = s.todo := rfl
@[simp] theorem State.modCore_now (s : State) (c : Nat) (f : Core → Core) : (s.modCore c f).now = s.now := rfl
@[simp] theorem State.modCore_issueFrom (s : State) (c : Nat) (f : Core → Core) : (s.modCore c f).issueFrom = s.issueFrom := rfl
@[simp] theorem State.modCore_mem (s : State) (c : Nat) (f : Core → Core) : (s.modCore c f).mem = s.mem := rfl
@[simp] theorem State.modCore_emptyWords (s : State) (c : Nat) (f : Core → Core) : (s.modCore c f).emptyWords = s.emptyWords := rfl
@[simp] theorem State.modCore_poisoned (s : State) (c : Nat) (f : Core → Core) : (s.modCore c f).poisoned = s.poisoned := rfl
@[simp] theorem State.modCore_notReady (s : State) (c : Nat) (f : Core → Core) : (s.modCore c f).notReady = s.notReady := rfl
@[simp] theorem State.modCore_stores (s : State) (c : Nat) (f : Core → Core) : (s.modCore c f).stores = s.stores := rfl
@[simp] theorem State.modCore_seen (s : State) (c : Nat) (f : Core → Core) : (s.modCore c f).seen = s.seen := rfl
@[simp] theorem State.modCore_arrived (s : State) (c : Nat) (f : Core → Core) : (s.modCore c f).arrived = s.arrived := rfl
@[simp] theorem State.modCore_slots (s : State) (c : Nat) (f : Core → Core) : (s.modCore c f).slots = s.slots := rfl
@[simp] theorem State.modCore_dies (s : State) (c : Nat) (f : Core → Core) : (s.modCore c f).dies = s.dies := rfl
@[simp] theorem State.modCore_ios (s : State) (c : Nat) (f : Core → Core) : (s.modCore c f).ios = s.ios := rfl
@[simp] theorem State.modCore_channels (s : State) (c : Nat) (f : Core → Core) : (s.modCore c f).channels = s.channels := rfl
@[simp] theorem State.modCore_frames (s : State) (c : Nat) (f : Core → Core) : (s.modCore c f).frames = s.frames := rfl
@[simp] theorem State.modCore_links (s : State) (c : Nat) (f : Core → Core) : (s.modCore c f).links = s.links := rfl
@[simp] theorem State.modCore_carried (s : State) (c : Nat) (f : Core → Core) : (s.modCore c f).carried = s.carried := rfl
@[simp] theorem State.modCore_inbound (s : State) (c : Nat) (f : Core → Core) : (s.modCore c f).inbound = s.inbound := rfl
@[simp] theorem State.modCore_spareWires (s : State) (c : Nat) (f : Core → Core) : (s.modCore c f).spareWires = s.spareWires := rfl
@[simp] theorem State.modCore_inService (s : State) (c : Nat) (f : Core → Core) : (s.modCore c f).inService = s.inService := rfl
@[simp] theorem State.modCore_decoders (s : State) (c : Nat) (f : Core → Core) : (s.modCore c f).decoders = s.decoders := rfl
@[simp] theorem State.modCore_badTransfers (s : State) (c : Nat) (f : Core → Core) : (s.modCore c f).badTransfers = s.badTransfers := rfl
@[simp] theorem State.modCore_badReads (s : State) (c : Nat) (f : Core → Core) : (s.modCore c f).badReads = s.badReads := rfl
@[simp] theorem State.modCore_worklists (s : State) (c : Nat) (f : Core → Core) : (s.modCore c f).worklists = s.worklists := rfl
@[simp] theorem State.modCore_sluices (s : State) (c : Nat) (f : Core → Core) : (s.modCore c f).sluices = s.sluices := rfl
@[simp] theorem State.modCore_pushSeq (s : State) (c : Nat) (f : Core → Core) : (s.modCore c f).pushSeq = s.pushSeq := rfl
@[simp] theorem State.modCore_jobs (s : State) (c : Nat) (f : Core → Core) : (s.modCore c f).jobs = s.jobs := rfl
@[simp] theorem State.modCore_gangs (s : State) (c : Nat) (f : Core → Core) : (s.modCore c f).gangs = s.gangs := rfl
@[simp] theorem State.modCore_slotres (s : State) (c : Nat) (f : Core → Core) : (s.modCore c f).slotres = s.slotres := rfl
@[simp] theorem State.modCore_noteJob (s : State) (c : Nat) (f : Core → Core) : (s.modCore c f).noteJob = s.noteJob := rfl
@[simp] theorem State.modCore_noteWl (s : State) (c : Nat) (f : Core → Core) : (s.modCore c f).noteWl = s.noteWl := rfl
@[simp] theorem State.modCore_noteEn (s : State) (c : Nat) (f : Core → Core) : (s.modCore c f).noteEn = s.noteEn := rfl
@[simp] theorem State.modCore_asroot (s : State) (c : Nat) (f : Core → Core) : (s.modCore c f).asroot = s.asroot := rfl
@[simp] theorem State.modCore_copies (s : State) (c : Nat) (f : Core → Core) : (s.modCore c f).copies = s.copies := rfl
@[simp] theorem State.modCore_podTout (s : State) (c : Nat) (f : Core → Core) : (s.modCore c f).podTout = s.podTout := rfl
@[simp] theorem State.modCore_modNum (s : State) (c : Nat) (f : Core → Core) : (s.modCore c f).modNum = s.modNum := rfl
@[simp] theorem State.modCore_pod (s : State) (c : Nat) (f : Core → Core) : (s.modCore c f).pod = s.pod := rfl
@[simp] theorem State.modCore_shadowOut (s : State) (c : Nat) (f : Core → Core) : (s.modCore c f).shadowOut = s.shadowOut := rfl
@[simp] theorem State.modCore_flushAsked (s : State) (c : Nat) (f : Core → Core) : (s.modCore c f).flushAsked = s.flushAsked := rfl
@[simp] theorem State.modCore_flushOut (s : State) (c : Nat) (f : Core → Core) : (s.modCore c f).flushOut = s.flushOut := rfl
@[simp] theorem State.modCore_status (s : State) (c : Nat) (f : Core → Core) : (s.modCore c f).status = s.status := rfl
@[simp] theorem State.modCore_ready (s : State) (c : Nat) (f : Core → Core) : (s.modCore c f).ready = s.ready := rfl
@[simp] theorem State.modCore_booterr (s : State) (c : Nat) (f : Core → Core) : (s.modCore c f).booterr = s.booterr := rfl
@[simp] theorem State.modCore_snap (s : State) (c : Nat) (f : Core → Core) : (s.modCore c f).snap = s.snap := rfl
@[simp] theorem State.modCore_snapLost (s : State) (c : Nat) (f : Core → Core) : (s.modCore c f).snapLost = s.snapLost := rfl
@[simp] theorem State.modCore_snapAt (s : State) (c : Nat) (f : Core → Core) : (s.modCore c f).snapAt = s.snapAt := rfl
@[simp] theorem State.modCore_topleft (s : State) (c : Nat) (f : Core → Core) : (s.modCore c f).topleft = s.topleft := rfl
@[simp] theorem State.modCore_mbxGo (s : State) (c : Nat) (f : Core → Core) : (s.modCore c f).mbxGo = s.mbxGo := rfl
@[simp] theorem State.modCore_mbxDone (s : State) (c : Nat) (f : Core → Core) : (s.modCore c f).mbxDone = s.mbxDone := rfl
@[simp] theorem State.modCore_hostId (s : State) (c : Nat) (f : Core → Core) : (s.modCore c f).hostId = s.hostId := rfl
@[simp] theorem State.modCore_hostRead (s : State) (c : Nat) (f : Core → Core) : (s.modCore c f).hostRead = s.hostRead := rfl
@[simp] theorem State.modCore_hostPoison (s : State) (c : Nat) (f : Core → Core) : (s.modCore c f).hostPoison = s.hostPoison := rfl
@[simp] theorem State.modCore_fusedMin (s : State) (c : Nat) (f : Core → Core) : (s.modCore c f).fusedMin = s.fusedMin := rfl
@[simp] theorem State.modCore_fwVersion (s : State) (c : Nat) (f : Core → Core) : (s.modCore c f).fwVersion = s.fwVersion := rfl
@[simp] theorem State.modCore_lowerLeft (s : State) (c : Nat) (f : Core → Core) : (s.modCore c f).lowerLeft = s.lowerLeft := rfl
@[simp] theorem State.modCore_images (s : State) (c : Nat) (f : Core → Core) : (s.modCore c f).images = s.images := rfl
@[simp] theorem State.modCore_loaded (s : State) (c : Nat) (f : Core → Core) : (s.modCore c f).loaded = s.loaded := rfl
@[simp] theorem State.modCore_boot (s : State) (c : Nat) (f : Core → Core) : (s.modCore c f).boot = s.boot := rfl
@[simp] theorem State.modCore_rings (s : State) (c : Nat) (f : Core → Core) : (s.modCore c f).rings = s.rings := rfl
@[simp] theorem State.modCore_mhl (s : State) (c : Nat) (f : Core → Core) : (s.modCore c f).mhl = s.mhl := rfl
@[simp] theorem State.modCore_mhlTried (s : State) (c : Nat) (f : Core → Core) : (s.modCore c f).mhlTried = s.mhlTried := rfl
@[simp] theorem State.modCore_booting (s : State) (c : Nat) (f : Core → Core) : (s.modCore c f).booting = s.booting := rfl
@[simp] theorem State.modCore_excessSince (s : State) (c : Nat) (f : Core → Core) : (s.modCore c f).excessSince = s.excessSince := rfl
@[simp] theorem State.modCore_powerSkip (s : State) (c : Nat) (f : Core → Core) : (s.modCore c f).powerSkip = s.powerSkip := rfl
@[simp] theorem State.modCore_stopped (s : State) (c : Nat) (f : Core → Core) : (s.modCore c f).stopped = s.stopped := rfl

/-! ### State.setDie -/

@[simp] theorem State.setDie_cur (s : State) (d : Nat) (v : Die) : (s.setDie d v).cur = s.cur := rfl
@[simp] theorem State.setDie_agenda (s : State) (d : Nat) (v : Die) : (s.setDie d v).agenda = s.agenda := rfl
@[simp] theorem State.setDie_devTurn (s : State) (d : Nat) (v : Die) : (s.setDie d v).devTurn = s.devTurn := rfl
@[simp] theorem State.setDie_turnNo (s : State) (d : Nat) (v : Die) : (s.setDie d v).turnNo = s.turnNo := rfl
@[simp] theorem State.setDie_fresh (s : State) (d : Nat) (v : Die) : (s.setDie d v).fresh = s.fresh := rfl
@[simp] theorem State.setDie_nextUid (s : State) (d : Nat) (v : Die) : (s.setDie d v).nextUid = s.nextUid := rfl
@[simp] theorem State.setDie_todo (s : State) (d : Nat) (v : Die) : (s.setDie d v).todo = s.todo := rfl
@[simp] theorem State.setDie_now (s : State) (d : Nat) (v : Die) : (s.setDie d v).now = s.now := rfl
@[simp] theorem State.setDie_issueFrom (s : State) (d : Nat) (v : Die) : (s.setDie d v).issueFrom = s.issueFrom := rfl
@[simp] theorem State.setDie_mem (s : State) (d : Nat) (v : Die) : (s.setDie d v).mem = s.mem := rfl
@[simp] theorem State.setDie_emptyWords (s : State) (d : Nat) (v : Die) : (s.setDie d v).emptyWords = s.emptyWords := rfl
@[simp] theorem State.setDie_poisoned (s : State) (d : Nat) (v : Die) : (s.setDie d v).poisoned = s.poisoned := rfl
@[simp] theorem State.setDie_notReady (s : State) (d : Nat) (v : Die) : (s.setDie d v).notReady = s.notReady := rfl
@[simp] theorem State.setDie_stores (s : State) (d : Nat) (v : Die) : (s.setDie d v).stores = s.stores := rfl
@[simp] theorem State.setDie_seen (s : State) (d : Nat) (v : Die) : (s.setDie d v).seen = s.seen := rfl
@[simp] theorem State.setDie_arrived (s : State) (d : Nat) (v : Die) : (s.setDie d v).arrived = s.arrived := rfl
@[simp] theorem State.setDie_slots (s : State) (d : Nat) (v : Die) : (s.setDie d v).slots = s.slots := rfl
@[simp] theorem State.setDie_cores (s : State) (d : Nat) (v : Die) : (s.setDie d v).cores = s.cores := rfl
@[simp] theorem State.setDie_ios (s : State) (d : Nat) (v : Die) : (s.setDie d v).ios = s.ios := rfl
@[simp] theorem State.setDie_channels (s : State) (d : Nat) (v : Die) : (s.setDie d v).channels = s.channels := rfl
@[simp] theorem State.setDie_frames (s : State) (d : Nat) (v : Die) : (s.setDie d v).frames = s.frames := rfl
@[simp] theorem State.setDie_links (s : State) (d : Nat) (v : Die) : (s.setDie d v).links = s.links := rfl
@[simp] theorem State.setDie_carried (s : State) (d : Nat) (v : Die) : (s.setDie d v).carried = s.carried := rfl
@[simp] theorem State.setDie_inbound (s : State) (d : Nat) (v : Die) : (s.setDie d v).inbound = s.inbound := rfl
@[simp] theorem State.setDie_spareWires (s : State) (d : Nat) (v : Die) : (s.setDie d v).spareWires = s.spareWires := rfl
@[simp] theorem State.setDie_inService (s : State) (d : Nat) (v : Die) : (s.setDie d v).inService = s.inService := rfl
@[simp] theorem State.setDie_decoders (s : State) (d : Nat) (v : Die) : (s.setDie d v).decoders = s.decoders := rfl
@[simp] theorem State.setDie_badTransfers (s : State) (d : Nat) (v : Die) : (s.setDie d v).badTransfers = s.badTransfers := rfl
@[simp] theorem State.setDie_badReads (s : State) (d : Nat) (v : Die) : (s.setDie d v).badReads = s.badReads := rfl
@[simp] theorem State.setDie_worklists (s : State) (d : Nat) (v : Die) : (s.setDie d v).worklists = s.worklists := rfl
@[simp] theorem State.setDie_sluices (s : State) (d : Nat) (v : Die) : (s.setDie d v).sluices = s.sluices := rfl
@[simp] theorem State.setDie_pushSeq (s : State) (d : Nat) (v : Die) : (s.setDie d v).pushSeq = s.pushSeq := rfl
@[simp] theorem State.setDie_jobs (s : State) (d : Nat) (v : Die) : (s.setDie d v).jobs = s.jobs := rfl
@[simp] theorem State.setDie_gangs (s : State) (d : Nat) (v : Die) : (s.setDie d v).gangs = s.gangs := rfl
@[simp] theorem State.setDie_slotres (s : State) (d : Nat) (v : Die) : (s.setDie d v).slotres = s.slotres := rfl
@[simp] theorem State.setDie_noteJob (s : State) (d : Nat) (v : Die) : (s.setDie d v).noteJob = s.noteJob := rfl
@[simp] theorem State.setDie_noteWl (s : State) (d : Nat) (v : Die) : (s.setDie d v).noteWl = s.noteWl := rfl
@[simp] theorem State.setDie_noteEn (s : State) (d : Nat) (v : Die) : (s.setDie d v).noteEn = s.noteEn := rfl
@[simp] theorem State.setDie_asroot (s : State) (d : Nat) (v : Die) : (s.setDie d v).asroot = s.asroot := rfl
@[simp] theorem State.setDie_copies (s : State) (d : Nat) (v : Die) : (s.setDie d v).copies = s.copies := rfl
@[simp] theorem State.setDie_podTout (s : State) (d : Nat) (v : Die) : (s.setDie d v).podTout = s.podTout := rfl
@[simp] theorem State.setDie_modNum (s : State) (d : Nat) (v : Die) : (s.setDie d v).modNum = s.modNum := rfl
@[simp] theorem State.setDie_pod (s : State) (d : Nat) (v : Die) : (s.setDie d v).pod = s.pod := rfl
@[simp] theorem State.setDie_shadowOut (s : State) (d : Nat) (v : Die) : (s.setDie d v).shadowOut = s.shadowOut := rfl
@[simp] theorem State.setDie_flushAsked (s : State) (d : Nat) (v : Die) : (s.setDie d v).flushAsked = s.flushAsked := rfl
@[simp] theorem State.setDie_flushOut (s : State) (d : Nat) (v : Die) : (s.setDie d v).flushOut = s.flushOut := rfl
@[simp] theorem State.setDie_status (s : State) (d : Nat) (v : Die) : (s.setDie d v).status = s.status := rfl
@[simp] theorem State.setDie_ready (s : State) (d : Nat) (v : Die) : (s.setDie d v).ready = s.ready := rfl
@[simp] theorem State.setDie_booterr (s : State) (d : Nat) (v : Die) : (s.setDie d v).booterr = s.booterr := rfl
@[simp] theorem State.setDie_snap (s : State) (d : Nat) (v : Die) : (s.setDie d v).snap = s.snap := rfl
@[simp] theorem State.setDie_snapLost (s : State) (d : Nat) (v : Die) : (s.setDie d v).snapLost = s.snapLost := rfl
@[simp] theorem State.setDie_snapAt (s : State) (d : Nat) (v : Die) : (s.setDie d v).snapAt = s.snapAt := rfl
@[simp] theorem State.setDie_topleft (s : State) (d : Nat) (v : Die) : (s.setDie d v).topleft = s.topleft := rfl
@[simp] theorem State.setDie_mbxGo (s : State) (d : Nat) (v : Die) : (s.setDie d v).mbxGo = s.mbxGo := rfl
@[simp] theorem State.setDie_mbxDone (s : State) (d : Nat) (v : Die) : (s.setDie d v).mbxDone = s.mbxDone := rfl
@[simp] theorem State.setDie_hostId (s : State) (d : Nat) (v : Die) : (s.setDie d v).hostId = s.hostId := rfl
@[simp] theorem State.setDie_hostRead (s : State) (d : Nat) (v : Die) : (s.setDie d v).hostRead = s.hostRead := rfl
@[simp] theorem State.setDie_hostPoison (s : State) (d : Nat) (v : Die) : (s.setDie d v).hostPoison = s.hostPoison := rfl
@[simp] theorem State.setDie_fusedMin (s : State) (d : Nat) (v : Die) : (s.setDie d v).fusedMin = s.fusedMin := rfl
@[simp] theorem State.setDie_fwVersion (s : State) (d : Nat) (v : Die) : (s.setDie d v).fwVersion = s.fwVersion := rfl
@[simp] theorem State.setDie_lowerLeft (s : State) (d : Nat) (v : Die) : (s.setDie d v).lowerLeft = s.lowerLeft := rfl
@[simp] theorem State.setDie_images (s : State) (d : Nat) (v : Die) : (s.setDie d v).images = s.images := rfl
@[simp] theorem State.setDie_loaded (s : State) (d : Nat) (v : Die) : (s.setDie d v).loaded = s.loaded := rfl
@[simp] theorem State.setDie_boot (s : State) (d : Nat) (v : Die) : (s.setDie d v).boot = s.boot := rfl
@[simp] theorem State.setDie_rings (s : State) (d : Nat) (v : Die) : (s.setDie d v).rings = s.rings := rfl
@[simp] theorem State.setDie_mhl (s : State) (d : Nat) (v : Die) : (s.setDie d v).mhl = s.mhl := rfl
@[simp] theorem State.setDie_mhlTried (s : State) (d : Nat) (v : Die) : (s.setDie d v).mhlTried = s.mhlTried := rfl
@[simp] theorem State.setDie_booting (s : State) (d : Nat) (v : Die) : (s.setDie d v).booting = s.booting := rfl
@[simp] theorem State.setDie_excessSince (s : State) (d : Nat) (v : Die) : (s.setDie d v).excessSince = s.excessSince := rfl
@[simp] theorem State.setDie_powerSkip (s : State) (d : Nat) (v : Die) : (s.setDie d v).powerSkip = s.powerSkip := rfl
@[simp] theorem State.setDie_stopped (s : State) (d : Nat) (v : Die) : (s.setDie d v).stopped = s.stopped := rfl

/-! ### State.modDie -/

@[simp] theorem State.modDie_cur (s : State) (d : Nat) (f : Die → Die) : (s.modDie d f).cur = s.cur := rfl
@[simp] theorem State.modDie_agenda (s : State) (d : Nat) (f : Die → Die) : (s.modDie d f).agenda = s.agenda := rfl
@[simp] theorem State.modDie_devTurn (s : State) (d : Nat) (f : Die → Die) : (s.modDie d f).devTurn = s.devTurn := rfl
@[simp] theorem State.modDie_turnNo (s : State) (d : Nat) (f : Die → Die) : (s.modDie d f).turnNo = s.turnNo := rfl
@[simp] theorem State.modDie_fresh (s : State) (d : Nat) (f : Die → Die) : (s.modDie d f).fresh = s.fresh := rfl
@[simp] theorem State.modDie_nextUid (s : State) (d : Nat) (f : Die → Die) : (s.modDie d f).nextUid = s.nextUid := rfl
@[simp] theorem State.modDie_todo (s : State) (d : Nat) (f : Die → Die) : (s.modDie d f).todo = s.todo := rfl
@[simp] theorem State.modDie_now (s : State) (d : Nat) (f : Die → Die) : (s.modDie d f).now = s.now := rfl
@[simp] theorem State.modDie_issueFrom (s : State) (d : Nat) (f : Die → Die) : (s.modDie d f).issueFrom = s.issueFrom := rfl
@[simp] theorem State.modDie_mem (s : State) (d : Nat) (f : Die → Die) : (s.modDie d f).mem = s.mem := rfl
@[simp] theorem State.modDie_emptyWords (s : State) (d : Nat) (f : Die → Die) : (s.modDie d f).emptyWords = s.emptyWords := rfl
@[simp] theorem State.modDie_poisoned (s : State) (d : Nat) (f : Die → Die) : (s.modDie d f).poisoned = s.poisoned := rfl
@[simp] theorem State.modDie_notReady (s : State) (d : Nat) (f : Die → Die) : (s.modDie d f).notReady = s.notReady := rfl
@[simp] theorem State.modDie_stores (s : State) (d : Nat) (f : Die → Die) : (s.modDie d f).stores = s.stores := rfl
@[simp] theorem State.modDie_seen (s : State) (d : Nat) (f : Die → Die) : (s.modDie d f).seen = s.seen := rfl
@[simp] theorem State.modDie_arrived (s : State) (d : Nat) (f : Die → Die) : (s.modDie d f).arrived = s.arrived := rfl
@[simp] theorem State.modDie_slots (s : State) (d : Nat) (f : Die → Die) : (s.modDie d f).slots = s.slots := rfl
@[simp] theorem State.modDie_cores (s : State) (d : Nat) (f : Die → Die) : (s.modDie d f).cores = s.cores := rfl
@[simp] theorem State.modDie_ios (s : State) (d : Nat) (f : Die → Die) : (s.modDie d f).ios = s.ios := rfl
@[simp] theorem State.modDie_channels (s : State) (d : Nat) (f : Die → Die) : (s.modDie d f).channels = s.channels := rfl
@[simp] theorem State.modDie_frames (s : State) (d : Nat) (f : Die → Die) : (s.modDie d f).frames = s.frames := rfl
@[simp] theorem State.modDie_links (s : State) (d : Nat) (f : Die → Die) : (s.modDie d f).links = s.links := rfl
@[simp] theorem State.modDie_carried (s : State) (d : Nat) (f : Die → Die) : (s.modDie d f).carried = s.carried := rfl
@[simp] theorem State.modDie_inbound (s : State) (d : Nat) (f : Die → Die) : (s.modDie d f).inbound = s.inbound := rfl
@[simp] theorem State.modDie_spareWires (s : State) (d : Nat) (f : Die → Die) : (s.modDie d f).spareWires = s.spareWires := rfl
@[simp] theorem State.modDie_inService (s : State) (d : Nat) (f : Die → Die) : (s.modDie d f).inService = s.inService := rfl
@[simp] theorem State.modDie_decoders (s : State) (d : Nat) (f : Die → Die) : (s.modDie d f).decoders = s.decoders := rfl
@[simp] theorem State.modDie_badTransfers (s : State) (d : Nat) (f : Die → Die) : (s.modDie d f).badTransfers = s.badTransfers := rfl
@[simp] theorem State.modDie_badReads (s : State) (d : Nat) (f : Die → Die) : (s.modDie d f).badReads = s.badReads := rfl
@[simp] theorem State.modDie_worklists (s : State) (d : Nat) (f : Die → Die) : (s.modDie d f).worklists = s.worklists := rfl
@[simp] theorem State.modDie_sluices (s : State) (d : Nat) (f : Die → Die) : (s.modDie d f).sluices = s.sluices := rfl
@[simp] theorem State.modDie_pushSeq (s : State) (d : Nat) (f : Die → Die) : (s.modDie d f).pushSeq = s.pushSeq := rfl
@[simp] theorem State.modDie_jobs (s : State) (d : Nat) (f : Die → Die) : (s.modDie d f).jobs = s.jobs := rfl
@[simp] theorem State.modDie_gangs (s : State) (d : Nat) (f : Die → Die) : (s.modDie d f).gangs = s.gangs := rfl
@[simp] theorem State.modDie_slotres (s : State) (d : Nat) (f : Die → Die) : (s.modDie d f).slotres = s.slotres := rfl
@[simp] theorem State.modDie_noteJob (s : State) (d : Nat) (f : Die → Die) : (s.modDie d f).noteJob = s.noteJob := rfl
@[simp] theorem State.modDie_noteWl (s : State) (d : Nat) (f : Die → Die) : (s.modDie d f).noteWl = s.noteWl := rfl
@[simp] theorem State.modDie_noteEn (s : State) (d : Nat) (f : Die → Die) : (s.modDie d f).noteEn = s.noteEn := rfl
@[simp] theorem State.modDie_asroot (s : State) (d : Nat) (f : Die → Die) : (s.modDie d f).asroot = s.asroot := rfl
@[simp] theorem State.modDie_copies (s : State) (d : Nat) (f : Die → Die) : (s.modDie d f).copies = s.copies := rfl
@[simp] theorem State.modDie_podTout (s : State) (d : Nat) (f : Die → Die) : (s.modDie d f).podTout = s.podTout := rfl
@[simp] theorem State.modDie_modNum (s : State) (d : Nat) (f : Die → Die) : (s.modDie d f).modNum = s.modNum := rfl
@[simp] theorem State.modDie_pod (s : State) (d : Nat) (f : Die → Die) : (s.modDie d f).pod = s.pod := rfl
@[simp] theorem State.modDie_shadowOut (s : State) (d : Nat) (f : Die → Die) : (s.modDie d f).shadowOut = s.shadowOut := rfl
@[simp] theorem State.modDie_flushAsked (s : State) (d : Nat) (f : Die → Die) : (s.modDie d f).flushAsked = s.flushAsked := rfl
@[simp] theorem State.modDie_flushOut (s : State) (d : Nat) (f : Die → Die) : (s.modDie d f).flushOut = s.flushOut := rfl
@[simp] theorem State.modDie_status (s : State) (d : Nat) (f : Die → Die) : (s.modDie d f).status = s.status := rfl
@[simp] theorem State.modDie_ready (s : State) (d : Nat) (f : Die → Die) : (s.modDie d f).ready = s.ready := rfl
@[simp] theorem State.modDie_booterr (s : State) (d : Nat) (f : Die → Die) : (s.modDie d f).booterr = s.booterr := rfl
@[simp] theorem State.modDie_snap (s : State) (d : Nat) (f : Die → Die) : (s.modDie d f).snap = s.snap := rfl
@[simp] theorem State.modDie_snapLost (s : State) (d : Nat) (f : Die → Die) : (s.modDie d f).snapLost = s.snapLost := rfl
@[simp] theorem State.modDie_snapAt (s : State) (d : Nat) (f : Die → Die) : (s.modDie d f).snapAt = s.snapAt := rfl
@[simp] theorem State.modDie_topleft (s : State) (d : Nat) (f : Die → Die) : (s.modDie d f).topleft = s.topleft := rfl
@[simp] theorem State.modDie_mbxGo (s : State) (d : Nat) (f : Die → Die) : (s.modDie d f).mbxGo = s.mbxGo := rfl
@[simp] theorem State.modDie_mbxDone (s : State) (d : Nat) (f : Die → Die) : (s.modDie d f).mbxDone = s.mbxDone := rfl
@[simp] theorem State.modDie_hostId (s : State) (d : Nat) (f : Die → Die) : (s.modDie d f).hostId = s.hostId := rfl
@[simp] theorem State.modDie_hostRead (s : State) (d : Nat) (f : Die → Die) : (s.modDie d f).hostRead = s.hostRead := rfl
@[simp] theorem State.modDie_hostPoison (s : State) (d : Nat) (f : Die → Die) : (s.modDie d f).hostPoison = s.hostPoison := rfl
@[simp] theorem State.modDie_fusedMin (s : State) (d : Nat) (f : Die → Die) : (s.modDie d f).fusedMin = s.fusedMin := rfl
@[simp] theorem State.modDie_fwVersion (s : State) (d : Nat) (f : Die → Die) : (s.modDie d f).fwVersion = s.fwVersion := rfl
@[simp] theorem State.modDie_lowerLeft (s : State) (d : Nat) (f : Die → Die) : (s.modDie d f).lowerLeft = s.lowerLeft := rfl
@[simp] theorem State.modDie_images (s : State) (d : Nat) (f : Die → Die) : (s.modDie d f).images = s.images := rfl
@[simp] theorem State.modDie_loaded (s : State) (d : Nat) (f : Die → Die) : (s.modDie d f).loaded = s.loaded := rfl
@[simp] theorem State.modDie_boot (s : State) (d : Nat) (f : Die → Die) : (s.modDie d f).boot = s.boot := rfl
@[simp] theorem State.modDie_rings (s : State) (d : Nat) (f : Die → Die) : (s.modDie d f).rings = s.rings := rfl
@[simp] theorem State.modDie_mhl (s : State) (d : Nat) (f : Die → Die) : (s.modDie d f).mhl = s.mhl := rfl
@[simp] theorem State.modDie_mhlTried (s : State) (d : Nat) (f : Die → Die) : (s.modDie d f).mhlTried = s.mhlTried := rfl
@[simp] theorem State.modDie_booting (s : State) (d : Nat) (f : Die → Die) : (s.modDie d f).booting = s.booting := rfl
@[simp] theorem State.modDie_excessSince (s : State) (d : Nat) (f : Die → Die) : (s.modDie d f).excessSince = s.excessSince := rfl
@[simp] theorem State.modDie_powerSkip (s : State) (d : Nat) (f : Die → Die) : (s.modDie d f).powerSkip = s.powerSkip := rfl
@[simp] theorem State.modDie_stopped (s : State) (d : Nat) (f : Die → Die) : (s.modDie d f).stopped = s.stopped := rfl

/-! ### State.setIo -/

@[simp] theorem State.setIo_cur (s : State) (i : Nat) (v : Io) : (s.setIo i v).cur = s.cur := rfl
@[simp] theorem State.setIo_agenda (s : State) (i : Nat) (v : Io) : (s.setIo i v).agenda = s.agenda := rfl
@[simp] theorem State.setIo_devTurn (s : State) (i : Nat) (v : Io) : (s.setIo i v).devTurn = s.devTurn := rfl
@[simp] theorem State.setIo_turnNo (s : State) (i : Nat) (v : Io) : (s.setIo i v).turnNo = s.turnNo := rfl
@[simp] theorem State.setIo_fresh (s : State) (i : Nat) (v : Io) : (s.setIo i v).fresh = s.fresh := rfl
@[simp] theorem State.setIo_nextUid (s : State) (i : Nat) (v : Io) : (s.setIo i v).nextUid = s.nextUid := rfl
@[simp] theorem State.setIo_todo (s : State) (i : Nat) (v : Io) : (s.setIo i v).todo = s.todo := rfl
@[simp] theorem State.setIo_now (s : State) (i : Nat) (v : Io) : (s.setIo i v).now = s.now := rfl
@[simp] theorem State.setIo_issueFrom (s : State) (i : Nat) (v : Io) : (s.setIo i v).issueFrom = s.issueFrom := rfl
@[simp] theorem State.setIo_mem (s : State) (i : Nat) (v : Io) : (s.setIo i v).mem = s.mem := rfl
@[simp] theorem State.setIo_emptyWords (s : State) (i : Nat) (v : Io) : (s.setIo i v).emptyWords = s.emptyWords := rfl
@[simp] theorem State.setIo_poisoned (s : State) (i : Nat) (v : Io) : (s.setIo i v).poisoned = s.poisoned := rfl
@[simp] theorem State.setIo_notReady (s : State) (i : Nat) (v : Io) : (s.setIo i v).notReady = s.notReady := rfl
@[simp] theorem State.setIo_stores (s : State) (i : Nat) (v : Io) : (s.setIo i v).stores = s.stores := rfl
@[simp] theorem State.setIo_seen (s : State) (i : Nat) (v : Io) : (s.setIo i v).seen = s.seen := rfl
@[simp] theorem State.setIo_arrived (s : State) (i : Nat) (v : Io) : (s.setIo i v).arrived = s.arrived := rfl
@[simp] theorem State.setIo_slots (s : State) (i : Nat) (v : Io) : (s.setIo i v).slots = s.slots := rfl
@[simp] theorem State.setIo_cores (s : State) (i : Nat) (v : Io) : (s.setIo i v).cores = s.cores := rfl
@[simp] theorem State.setIo_dies (s : State) (i : Nat) (v : Io) : (s.setIo i v).dies = s.dies := rfl
@[simp] theorem State.setIo_channels (s : State) (i : Nat) (v : Io) : (s.setIo i v).channels = s.channels := rfl
@[simp] theorem State.setIo_frames (s : State) (i : Nat) (v : Io) : (s.setIo i v).frames = s.frames := rfl
@[simp] theorem State.setIo_links (s : State) (i : Nat) (v : Io) : (s.setIo i v).links = s.links := rfl
@[simp] theorem State.setIo_carried (s : State) (i : Nat) (v : Io) : (s.setIo i v).carried = s.carried := rfl
@[simp] theorem State.setIo_inbound (s : State) (i : Nat) (v : Io) : (s.setIo i v).inbound = s.inbound := rfl
@[simp] theorem State.setIo_spareWires (s : State) (i : Nat) (v : Io) : (s.setIo i v).spareWires = s.spareWires := rfl
@[simp] theorem State.setIo_inService (s : State) (i : Nat) (v : Io) : (s.setIo i v).inService = s.inService := rfl
@[simp] theorem State.setIo_decoders (s : State) (i : Nat) (v : Io) : (s.setIo i v).decoders = s.decoders := rfl
@[simp] theorem State.setIo_badTransfers (s : State) (i : Nat) (v : Io) : (s.setIo i v).badTransfers = s.badTransfers := rfl
@[simp] theorem State.setIo_badReads (s : State) (i : Nat) (v : Io) : (s.setIo i v).badReads = s.badReads := rfl
@[simp] theorem State.setIo_worklists (s : State) (i : Nat) (v : Io) : (s.setIo i v).worklists = s.worklists := rfl
@[simp] theorem State.setIo_sluices (s : State) (i : Nat) (v : Io) : (s.setIo i v).sluices = s.sluices := rfl
@[simp] theorem State.setIo_pushSeq (s : State) (i : Nat) (v : Io) : (s.setIo i v).pushSeq = s.pushSeq := rfl
@[simp] theorem State.setIo_jobs (s : State) (i : Nat) (v : Io) : (s.setIo i v).jobs = s.jobs := rfl
@[simp] theorem State.setIo_gangs (s : State) (i : Nat) (v : Io) : (s.setIo i v).gangs = s.gangs := rfl
@[simp] theorem State.setIo_slotres (s : State) (i : Nat) (v : Io) : (s.setIo i v).slotres = s.slotres := rfl
@[simp] theorem State.setIo_noteJob (s : State) (i : Nat) (v : Io) : (s.setIo i v).noteJob = s.noteJob := rfl
@[simp] theorem State.setIo_noteWl (s : State) (i : Nat) (v : Io) : (s.setIo i v).noteWl = s.noteWl := rfl
@[simp] theorem State.setIo_noteEn (s : State) (i : Nat) (v : Io) : (s.setIo i v).noteEn = s.noteEn := rfl
@[simp] theorem State.setIo_asroot (s : State) (i : Nat) (v : Io) : (s.setIo i v).asroot = s.asroot := rfl
@[simp] theorem State.setIo_copies (s : State) (i : Nat) (v : Io) : (s.setIo i v).copies = s.copies := rfl
@[simp] theorem State.setIo_podTout (s : State) (i : Nat) (v : Io) : (s.setIo i v).podTout = s.podTout := rfl
@[simp] theorem State.setIo_modNum (s : State) (i : Nat) (v : Io) : (s.setIo i v).modNum = s.modNum := rfl
@[simp] theorem State.setIo_pod (s : State) (i : Nat) (v : Io) : (s.setIo i v).pod = s.pod := rfl
@[simp] theorem State.setIo_shadowOut (s : State) (i : Nat) (v : Io) : (s.setIo i v).shadowOut = s.shadowOut := rfl
@[simp] theorem State.setIo_flushAsked (s : State) (i : Nat) (v : Io) : (s.setIo i v).flushAsked = s.flushAsked := rfl
@[simp] theorem State.setIo_flushOut (s : State) (i : Nat) (v : Io) : (s.setIo i v).flushOut = s.flushOut := rfl
@[simp] theorem State.setIo_status (s : State) (i : Nat) (v : Io) : (s.setIo i v).status = s.status := rfl
@[simp] theorem State.setIo_ready (s : State) (i : Nat) (v : Io) : (s.setIo i v).ready = s.ready := rfl
@[simp] theorem State.setIo_booterr (s : State) (i : Nat) (v : Io) : (s.setIo i v).booterr = s.booterr := rfl
@[simp] theorem State.setIo_snap (s : State) (i : Nat) (v : Io) : (s.setIo i v).snap = s.snap := rfl
@[simp] theorem State.setIo_snapLost (s : State) (i : Nat) (v : Io) : (s.setIo i v).snapLost = s.snapLost := rfl
@[simp] theorem State.setIo_snapAt (s : State) (i : Nat) (v : Io) : (s.setIo i v).snapAt = s.snapAt := rfl
@[simp] theorem State.setIo_topleft (s : State) (i : Nat) (v : Io) : (s.setIo i v).topleft = s.topleft := rfl
@[simp] theorem State.setIo_mbxGo (s : State) (i : Nat) (v : Io) : (s.setIo i v).mbxGo = s.mbxGo := rfl
@[simp] theorem State.setIo_mbxDone (s : State) (i : Nat) (v : Io) : (s.setIo i v).mbxDone = s.mbxDone := rfl
@[simp] theorem State.setIo_hostId (s : State) (i : Nat) (v : Io) : (s.setIo i v).hostId = s.hostId := rfl
@[simp] theorem State.setIo_hostRead (s : State) (i : Nat) (v : Io) : (s.setIo i v).hostRead = s.hostRead := rfl
@[simp] theorem State.setIo_hostPoison (s : State) (i : Nat) (v : Io) : (s.setIo i v).hostPoison = s.hostPoison := rfl
@[simp] theorem State.setIo_fusedMin (s : State) (i : Nat) (v : Io) : (s.setIo i v).fusedMin = s.fusedMin := rfl
@[simp] theorem State.setIo_fwVersion (s : State) (i : Nat) (v : Io) : (s.setIo i v).fwVersion = s.fwVersion := rfl
@[simp] theorem State.setIo_lowerLeft (s : State) (i : Nat) (v : Io) : (s.setIo i v).lowerLeft = s.lowerLeft := rfl
@[simp] theorem State.setIo_images (s : State) (i : Nat) (v : Io) : (s.setIo i v).images = s.images := rfl
@[simp] theorem State.setIo_loaded (s : State) (i : Nat) (v : Io) : (s.setIo i v).loaded = s.loaded := rfl
@[simp] theorem State.setIo_boot (s : State) (i : Nat) (v : Io) : (s.setIo i v).boot = s.boot := rfl
@[simp] theorem State.setIo_rings (s : State) (i : Nat) (v : Io) : (s.setIo i v).rings = s.rings := rfl
@[simp] theorem State.setIo_mhl (s : State) (i : Nat) (v : Io) : (s.setIo i v).mhl = s.mhl := rfl
@[simp] theorem State.setIo_mhlTried (s : State) (i : Nat) (v : Io) : (s.setIo i v).mhlTried = s.mhlTried := rfl
@[simp] theorem State.setIo_booting (s : State) (i : Nat) (v : Io) : (s.setIo i v).booting = s.booting := rfl
@[simp] theorem State.setIo_excessSince (s : State) (i : Nat) (v : Io) : (s.setIo i v).excessSince = s.excessSince := rfl
@[simp] theorem State.setIo_powerSkip (s : State) (i : Nat) (v : Io) : (s.setIo i v).powerSkip = s.powerSkip := rfl
@[simp] theorem State.setIo_stopped (s : State) (i : Nat) (v : Io) : (s.setIo i v).stopped = s.stopped := rfl

/-! ### State.modIo -/

@[simp] theorem State.modIo_cur (s : State) (i : Nat) (f : Io → Io) : (s.modIo i f).cur = s.cur := rfl
@[simp] theorem State.modIo_agenda (s : State) (i : Nat) (f : Io → Io) : (s.modIo i f).agenda = s.agenda := rfl
@[simp] theorem State.modIo_devTurn (s : State) (i : Nat) (f : Io → Io) : (s.modIo i f).devTurn = s.devTurn := rfl
@[simp] theorem State.modIo_turnNo (s : State) (i : Nat) (f : Io → Io) : (s.modIo i f).turnNo = s.turnNo := rfl
@[simp] theorem State.modIo_fresh (s : State) (i : Nat) (f : Io → Io) : (s.modIo i f).fresh = s.fresh := rfl
@[simp] theorem State.modIo_nextUid (s : State) (i : Nat) (f : Io → Io) : (s.modIo i f).nextUid = s.nextUid := rfl
@[simp] theorem State.modIo_todo (s : State) (i : Nat) (f : Io → Io) : (s.modIo i f).todo = s.todo := rfl
@[simp] theorem State.modIo_now (s : State) (i : Nat) (f : Io → Io) : (s.modIo i f).now = s.now := rfl
@[simp] theorem State.modIo_issueFrom (s : State) (i : Nat) (f : Io → Io) : (s.modIo i f).issueFrom = s.issueFrom := rfl
@[simp] theorem State.modIo_mem (s : State) (i : Nat) (f : Io → Io) : (s.modIo i f).mem = s.mem := rfl
@[simp] theorem State.modIo_emptyWords (s : State) (i : Nat) (f : Io → Io) : (s.modIo i f).emptyWords = s.emptyWords := rfl
@[simp] theorem State.modIo_poisoned (s : State) (i : Nat) (f : Io → Io) : (s.modIo i f).poisoned = s.poisoned := rfl
@[simp] theorem State.modIo_notReady (s : State) (i : Nat) (f : Io → Io) : (s.modIo i f).notReady = s.notReady := rfl
@[simp] theorem State.modIo_stores (s : State) (i : Nat) (f : Io → Io) : (s.modIo i f).stores = s.stores := rfl
@[simp] theorem State.modIo_seen (s : State) (i : Nat) (f : Io → Io) : (s.modIo i f).seen = s.seen := rfl
@[simp] theorem State.modIo_arrived (s : State) (i : Nat) (f : Io → Io) : (s.modIo i f).arrived = s.arrived := rfl
@[simp] theorem State.modIo_slots (s : State) (i : Nat) (f : Io → Io) : (s.modIo i f).slots = s.slots := rfl
@[simp] theorem State.modIo_cores (s : State) (i : Nat) (f : Io → Io) : (s.modIo i f).cores = s.cores := rfl
@[simp] theorem State.modIo_dies (s : State) (i : Nat) (f : Io → Io) : (s.modIo i f).dies = s.dies := rfl
@[simp] theorem State.modIo_channels (s : State) (i : Nat) (f : Io → Io) : (s.modIo i f).channels = s.channels := rfl
@[simp] theorem State.modIo_frames (s : State) (i : Nat) (f : Io → Io) : (s.modIo i f).frames = s.frames := rfl
@[simp] theorem State.modIo_links (s : State) (i : Nat) (f : Io → Io) : (s.modIo i f).links = s.links := rfl
@[simp] theorem State.modIo_carried (s : State) (i : Nat) (f : Io → Io) : (s.modIo i f).carried = s.carried := rfl
@[simp] theorem State.modIo_inbound (s : State) (i : Nat) (f : Io → Io) : (s.modIo i f).inbound = s.inbound := rfl
@[simp] theorem State.modIo_spareWires (s : State) (i : Nat) (f : Io → Io) : (s.modIo i f).spareWires = s.spareWires := rfl
@[simp] theorem State.modIo_inService (s : State) (i : Nat) (f : Io → Io) : (s.modIo i f).inService = s.inService := rfl
@[simp] theorem State.modIo_decoders (s : State) (i : Nat) (f : Io → Io) : (s.modIo i f).decoders = s.decoders := rfl
@[simp] theorem State.modIo_badTransfers (s : State) (i : Nat) (f : Io → Io) : (s.modIo i f).badTransfers = s.badTransfers := rfl
@[simp] theorem State.modIo_badReads (s : State) (i : Nat) (f : Io → Io) : (s.modIo i f).badReads = s.badReads := rfl
@[simp] theorem State.modIo_worklists (s : State) (i : Nat) (f : Io → Io) : (s.modIo i f).worklists = s.worklists := rfl
@[simp] theorem State.modIo_sluices (s : State) (i : Nat) (f : Io → Io) : (s.modIo i f).sluices = s.sluices := rfl
@[simp] theorem State.modIo_pushSeq (s : State) (i : Nat) (f : Io → Io) : (s.modIo i f).pushSeq = s.pushSeq := rfl
@[simp] theorem State.modIo_jobs (s : State) (i : Nat) (f : Io → Io) : (s.modIo i f).jobs = s.jobs := rfl
@[simp] theorem State.modIo_gangs (s : State) (i : Nat) (f : Io → Io) : (s.modIo i f).gangs = s.gangs := rfl
@[simp] theorem State.modIo_slotres (s : State) (i : Nat) (f : Io → Io) : (s.modIo i f).slotres = s.slotres := rfl
@[simp] theorem State.modIo_noteJob (s : State) (i : Nat) (f : Io → Io) : (s.modIo i f).noteJob = s.noteJob := rfl
@[simp] theorem State.modIo_noteWl (s : State) (i : Nat) (f : Io → Io) : (s.modIo i f).noteWl = s.noteWl := rfl
@[simp] theorem State.modIo_noteEn (s : State) (i : Nat) (f : Io → Io) : (s.modIo i f).noteEn = s.noteEn := rfl
@[simp] theorem State.modIo_asroot (s : State) (i : Nat) (f : Io → Io) : (s.modIo i f).asroot = s.asroot := rfl
@[simp] theorem State.modIo_copies (s : State) (i : Nat) (f : Io → Io) : (s.modIo i f).copies = s.copies := rfl
@[simp] theorem State.modIo_podTout (s : State) (i : Nat) (f : Io → Io) : (s.modIo i f).podTout = s.podTout := rfl
@[simp] theorem State.modIo_modNum (s : State) (i : Nat) (f : Io → Io) : (s.modIo i f).modNum = s.modNum := rfl
@[simp] theorem State.modIo_pod (s : State) (i : Nat) (f : Io → Io) : (s.modIo i f).pod = s.pod := rfl
@[simp] theorem State.modIo_shadowOut (s : State) (i : Nat) (f : Io → Io) : (s.modIo i f).shadowOut = s.shadowOut := rfl
@[simp] theorem State.modIo_flushAsked (s : State) (i : Nat) (f : Io → Io) : (s.modIo i f).flushAsked = s.flushAsked := rfl
@[simp] theorem State.modIo_flushOut (s : State) (i : Nat) (f : Io → Io) : (s.modIo i f).flushOut = s.flushOut := rfl
@[simp] theorem State.modIo_status (s : State) (i : Nat) (f : Io → Io) : (s.modIo i f).status = s.status := rfl
@[simp] theorem State.modIo_ready (s : State) (i : Nat) (f : Io → Io) : (s.modIo i f).ready = s.ready := rfl
@[simp] theorem State.modIo_booterr (s : State) (i : Nat) (f : Io → Io) : (s.modIo i f).booterr = s.booterr := rfl
@[simp] theorem State.modIo_snap (s : State) (i : Nat) (f : Io → Io) : (s.modIo i f).snap = s.snap := rfl
@[simp] theorem State.modIo_snapLost (s : State) (i : Nat) (f : Io → Io) : (s.modIo i f).snapLost = s.snapLost := rfl
@[simp] theorem State.modIo_snapAt (s : State) (i : Nat) (f : Io → Io) : (s.modIo i f).snapAt = s.snapAt := rfl
@[simp] theorem State.modIo_topleft (s : State) (i : Nat) (f : Io → Io) : (s.modIo i f).topleft = s.topleft := rfl
@[simp] theorem State.modIo_mbxGo (s : State) (i : Nat) (f : Io → Io) : (s.modIo i f).mbxGo = s.mbxGo := rfl
@[simp] theorem State.modIo_mbxDone (s : State) (i : Nat) (f : Io → Io) : (s.modIo i f).mbxDone = s.mbxDone := rfl
@[simp] theorem State.modIo_hostId (s : State) (i : Nat) (f : Io → Io) : (s.modIo i f).hostId = s.hostId := rfl
@[simp] theorem State.modIo_hostRead (s : State) (i : Nat) (f : Io → Io) : (s.modIo i f).hostRead = s.hostRead := rfl
@[simp] theorem State.modIo_hostPoison (s : State) (i : Nat) (f : Io → Io) : (s.modIo i f).hostPoison = s.hostPoison := rfl
@[simp] theorem State.modIo_fusedMin (s : State) (i : Nat) (f : Io → Io) : (s.modIo i f).fusedMin = s.fusedMin := rfl
@[simp] theorem State.modIo_fwVersion (s : State) (i : Nat) (f : Io → Io) : (s.modIo i f).fwVersion = s.fwVersion := rfl
@[simp] theorem State.modIo_lowerLeft (s : State) (i : Nat) (f : Io → Io) : (s.modIo i f).lowerLeft = s.lowerLeft := rfl
@[simp] theorem State.modIo_images (s : State) (i : Nat) (f : Io → Io) : (s.modIo i f).images = s.images := rfl
@[simp] theorem State.modIo_loaded (s : State) (i : Nat) (f : Io → Io) : (s.modIo i f).loaded = s.loaded := rfl
@[simp] theorem State.modIo_boot (s : State) (i : Nat) (f : Io → Io) : (s.modIo i f).boot = s.boot := rfl
@[simp] theorem State.modIo_rings (s : State) (i : Nat) (f : Io → Io) : (s.modIo i f).rings = s.rings := rfl
@[simp] theorem State.modIo_mhl (s : State) (i : Nat) (f : Io → Io) : (s.modIo i f).mhl = s.mhl := rfl
@[simp] theorem State.modIo_mhlTried (s : State) (i : Nat) (f : Io → Io) : (s.modIo i f).mhlTried = s.mhlTried := rfl
@[simp] theorem State.modIo_booting (s : State) (i : Nat) (f : Io → Io) : (s.modIo i f).booting = s.booting := rfl
@[simp] theorem State.modIo_excessSince (s : State) (i : Nat) (f : Io → Io) : (s.modIo i f).excessSince = s.excessSince := rfl
@[simp] theorem State.modIo_powerSkip (s : State) (i : Nat) (f : Io → Io) : (s.modIo i f).powerSkip = s.powerSkip := rfl
@[simp] theorem State.modIo_stopped (s : State) (i : Nat) (f : Io → Io) : (s.modIo i f).stopped = s.stopped := rfl

/-! ### State.setWl -/

@[simp] theorem State.setWl_cur (s : State) (w : Nat) (v : Worklist) : (s.setWl w v).cur = s.cur := rfl
@[simp] theorem State.setWl_agenda (s : State) (w : Nat) (v : Worklist) : (s.setWl w v).agenda = s.agenda := rfl
@[simp] theorem State.setWl_devTurn (s : State) (w : Nat) (v : Worklist) : (s.setWl w v).devTurn = s.devTurn := rfl
@[simp] theorem State.setWl_turnNo (s : State) (w : Nat) (v : Worklist) : (s.setWl w v).turnNo = s.turnNo := rfl
@[simp] theorem State.setWl_fresh (s : State) (w : Nat) (v : Worklist) : (s.setWl w v).fresh = s.fresh := rfl
@[simp] theorem State.setWl_nextUid (s : State) (w : Nat) (v : Worklist) : (s.setWl w v).nextUid = s.nextUid := rfl
@[simp] theorem State.setWl_todo (s : State) (w : Nat) (v : Worklist) : (s.setWl w v).todo = s.todo := rfl
@[simp] theorem State.setWl_now (s : State) (w : Nat) (v : Worklist) : (s.setWl w v).now = s.now := rfl
@[simp] theorem State.setWl_issueFrom (s : State) (w : Nat) (v : Worklist) : (s.setWl w v).issueFrom = s.issueFrom := rfl
@[simp] theorem State.setWl_mem (s : State) (w : Nat) (v : Worklist) : (s.setWl w v).mem = s.mem := rfl
@[simp] theorem State.setWl_emptyWords (s : State) (w : Nat) (v : Worklist) : (s.setWl w v).emptyWords = s.emptyWords := rfl
@[simp] theorem State.setWl_poisoned (s : State) (w : Nat) (v : Worklist) : (s.setWl w v).poisoned = s.poisoned := rfl
@[simp] theorem State.setWl_notReady (s : State) (w : Nat) (v : Worklist) : (s.setWl w v).notReady = s.notReady := rfl
@[simp] theorem State.setWl_stores (s : State) (w : Nat) (v : Worklist) : (s.setWl w v).stores = s.stores := rfl
@[simp] theorem State.setWl_seen (s : State) (w : Nat) (v : Worklist) : (s.setWl w v).seen = s.seen := rfl
@[simp] theorem State.setWl_arrived (s : State) (w : Nat) (v : Worklist) : (s.setWl w v).arrived = s.arrived := rfl
@[simp] theorem State.setWl_slots (s : State) (w : Nat) (v : Worklist) : (s.setWl w v).slots = s.slots := rfl
@[simp] theorem State.setWl_cores (s : State) (w : Nat) (v : Worklist) : (s.setWl w v).cores = s.cores := rfl
@[simp] theorem State.setWl_dies (s : State) (w : Nat) (v : Worklist) : (s.setWl w v).dies = s.dies := rfl
@[simp] theorem State.setWl_ios (s : State) (w : Nat) (v : Worklist) : (s.setWl w v).ios = s.ios := rfl
@[simp] theorem State.setWl_channels (s : State) (w : Nat) (v : Worklist) : (s.setWl w v).channels = s.channels := rfl
@[simp] theorem State.setWl_frames (s : State) (w : Nat) (v : Worklist) : (s.setWl w v).frames = s.frames := rfl
@[simp] theorem State.setWl_links (s : State) (w : Nat) (v : Worklist) : (s.setWl w v).links = s.links := rfl
@[simp] theorem State.setWl_carried (s : State) (w : Nat) (v : Worklist) : (s.setWl w v).carried = s.carried := rfl
@[simp] theorem State.setWl_inbound (s : State) (w : Nat) (v : Worklist) : (s.setWl w v).inbound = s.inbound := rfl
@[simp] theorem State.setWl_spareWires (s : State) (w : Nat) (v : Worklist) : (s.setWl w v).spareWires = s.spareWires := rfl
@[simp] theorem State.setWl_inService (s : State) (w : Nat) (v : Worklist) : (s.setWl w v).inService = s.inService := rfl
@[simp] theorem State.setWl_decoders (s : State) (w : Nat) (v : Worklist) : (s.setWl w v).decoders = s.decoders := rfl
@[simp] theorem State.setWl_badTransfers (s : State) (w : Nat) (v : Worklist) : (s.setWl w v).badTransfers = s.badTransfers := rfl
@[simp] theorem State.setWl_badReads (s : State) (w : Nat) (v : Worklist) : (s.setWl w v).badReads = s.badReads := rfl
@[simp] theorem State.setWl_sluices (s : State) (w : Nat) (v : Worklist) : (s.setWl w v).sluices = s.sluices := rfl
@[simp] theorem State.setWl_pushSeq (s : State) (w : Nat) (v : Worklist) : (s.setWl w v).pushSeq = s.pushSeq := rfl
@[simp] theorem State.setWl_jobs (s : State) (w : Nat) (v : Worklist) : (s.setWl w v).jobs = s.jobs := rfl
@[simp] theorem State.setWl_gangs (s : State) (w : Nat) (v : Worklist) : (s.setWl w v).gangs = s.gangs := rfl
@[simp] theorem State.setWl_slotres (s : State) (w : Nat) (v : Worklist) : (s.setWl w v).slotres = s.slotres := rfl
@[simp] theorem State.setWl_noteJob (s : State) (w : Nat) (v : Worklist) : (s.setWl w v).noteJob = s.noteJob := rfl
@[simp] theorem State.setWl_noteWl (s : State) (w : Nat) (v : Worklist) : (s.setWl w v).noteWl = s.noteWl := rfl
@[simp] theorem State.setWl_noteEn (s : State) (w : Nat) (v : Worklist) : (s.setWl w v).noteEn = s.noteEn := rfl
@[simp] theorem State.setWl_asroot (s : State) (w : Nat) (v : Worklist) : (s.setWl w v).asroot = s.asroot := rfl
@[simp] theorem State.setWl_copies (s : State) (w : Nat) (v : Worklist) : (s.setWl w v).copies = s.copies := rfl
@[simp] theorem State.setWl_podTout (s : State) (w : Nat) (v : Worklist) : (s.setWl w v).podTout = s.podTout := rfl
@[simp] theorem State.setWl_modNum (s : State) (w : Nat) (v : Worklist) : (s.setWl w v).modNum = s.modNum := rfl
@[simp] theorem State.setWl_pod (s : State) (w : Nat) (v : Worklist) : (s.setWl w v).pod = s.pod := rfl
@[simp] theorem State.setWl_shadowOut (s : State) (w : Nat) (v : Worklist) : (s.setWl w v).shadowOut = s.shadowOut := rfl
@[simp] theorem State.setWl_flushAsked (s : State) (w : Nat) (v : Worklist) : (s.setWl w v).flushAsked = s.flushAsked := rfl
@[simp] theorem State.setWl_flushOut (s : State) (w : Nat) (v : Worklist) : (s.setWl w v).flushOut = s.flushOut := rfl
@[simp] theorem State.setWl_status (s : State) (w : Nat) (v : Worklist) : (s.setWl w v).status = s.status := rfl
@[simp] theorem State.setWl_ready (s : State) (w : Nat) (v : Worklist) : (s.setWl w v).ready = s.ready := rfl
@[simp] theorem State.setWl_booterr (s : State) (w : Nat) (v : Worklist) : (s.setWl w v).booterr = s.booterr := rfl
@[simp] theorem State.setWl_snap (s : State) (w : Nat) (v : Worklist) : (s.setWl w v).snap = s.snap := rfl
@[simp] theorem State.setWl_snapLost (s : State) (w : Nat) (v : Worklist) : (s.setWl w v).snapLost = s.snapLost := rfl
@[simp] theorem State.setWl_snapAt (s : State) (w : Nat) (v : Worklist) : (s.setWl w v).snapAt = s.snapAt := rfl
@[simp] theorem State.setWl_topleft (s : State) (w : Nat) (v : Worklist) : (s.setWl w v).topleft = s.topleft := rfl
@[simp] theorem State.setWl_mbxGo (s : State) (w : Nat) (v : Worklist) : (s.setWl w v).mbxGo = s.mbxGo := rfl
@[simp] theorem State.setWl_mbxDone (s : State) (w : Nat) (v : Worklist) : (s.setWl w v).mbxDone = s.mbxDone := rfl
@[simp] theorem State.setWl_hostId (s : State) (w : Nat) (v : Worklist) : (s.setWl w v).hostId = s.hostId := rfl
@[simp] theorem State.setWl_hostRead (s : State) (w : Nat) (v : Worklist) : (s.setWl w v).hostRead = s.hostRead := rfl
@[simp] theorem State.setWl_hostPoison (s : State) (w : Nat) (v : Worklist) : (s.setWl w v).hostPoison = s.hostPoison := rfl
@[simp] theorem State.setWl_fusedMin (s : State) (w : Nat) (v : Worklist) : (s.setWl w v).fusedMin = s.fusedMin := rfl
@[simp] theorem State.setWl_fwVersion (s : State) (w : Nat) (v : Worklist) : (s.setWl w v).fwVersion = s.fwVersion := rfl
@[simp] theorem State.setWl_lowerLeft (s : State) (w : Nat) (v : Worklist) : (s.setWl w v).lowerLeft = s.lowerLeft := rfl
@[simp] theorem State.setWl_images (s : State) (w : Nat) (v : Worklist) : (s.setWl w v).images = s.images := rfl
@[simp] theorem State.setWl_loaded (s : State) (w : Nat) (v : Worklist) : (s.setWl w v).loaded = s.loaded := rfl
@[simp] theorem State.setWl_boot (s : State) (w : Nat) (v : Worklist) : (s.setWl w v).boot = s.boot := rfl
@[simp] theorem State.setWl_rings (s : State) (w : Nat) (v : Worklist) : (s.setWl w v).rings = s.rings := rfl
@[simp] theorem State.setWl_mhl (s : State) (w : Nat) (v : Worklist) : (s.setWl w v).mhl = s.mhl := rfl
@[simp] theorem State.setWl_mhlTried (s : State) (w : Nat) (v : Worklist) : (s.setWl w v).mhlTried = s.mhlTried := rfl
@[simp] theorem State.setWl_booting (s : State) (w : Nat) (v : Worklist) : (s.setWl w v).booting = s.booting := rfl
@[simp] theorem State.setWl_excessSince (s : State) (w : Nat) (v : Worklist) : (s.setWl w v).excessSince = s.excessSince := rfl
@[simp] theorem State.setWl_powerSkip (s : State) (w : Nat) (v : Worklist) : (s.setWl w v).powerSkip = s.powerSkip := rfl
@[simp] theorem State.setWl_stopped (s : State) (w : Nat) (v : Worklist) : (s.setWl w v).stopped = s.stopped := rfl

/-! ### State.modWl -/

@[simp] theorem State.modWl_cur (s : State) (w : Nat) (f : Worklist → Worklist) : (s.modWl w f).cur = s.cur := rfl
@[simp] theorem State.modWl_agenda (s : State) (w : Nat) (f : Worklist → Worklist) : (s.modWl w f).agenda = s.agenda := rfl
@[simp] theorem State.modWl_devTurn (s : State) (w : Nat) (f : Worklist → Worklist) : (s.modWl w f).devTurn = s.devTurn := rfl
@[simp] theorem State.modWl_turnNo (s : State) (w : Nat) (f : Worklist → Worklist) : (s.modWl w f).turnNo = s.turnNo := rfl
@[simp] theorem State.modWl_fresh (s : State) (w : Nat) (f : Worklist → Worklist) : (s.modWl w f).fresh = s.fresh := rfl
@[simp] theorem State.modWl_nextUid (s : State) (w : Nat) (f : Worklist → Worklist) : (s.modWl w f).nextUid = s.nextUid := rfl
@[simp] theorem State.modWl_todo (s : State) (w : Nat) (f : Worklist → Worklist) : (s.modWl w f).todo = s.todo := rfl
@[simp] theorem State.modWl_now (s : State) (w : Nat) (f : Worklist → Worklist) : (s.modWl w f).now = s.now := rfl
@[simp] theorem State.modWl_issueFrom (s : State) (w : Nat) (f : Worklist → Worklist) : (s.modWl w f).issueFrom = s.issueFrom := rfl
@[simp] theorem State.modWl_mem (s : State) (w : Nat) (f : Worklist → Worklist) : (s.modWl w f).mem = s.mem := rfl
@[simp] theorem State.modWl_emptyWords (s : State) (w : Nat) (f : Worklist → Worklist) : (s.modWl w f).emptyWords = s.emptyWords := rfl
@[simp] theorem State.modWl_poisoned (s : State) (w : Nat) (f : Worklist → Worklist) : (s.modWl w f).poisoned = s.poisoned := rfl
@[simp] theorem State.modWl_notReady (s : State) (w : Nat) (f : Worklist → Worklist) : (s.modWl w f).notReady = s.notReady := rfl
@[simp] theorem State.modWl_stores (s : State) (w : Nat) (f : Worklist → Worklist) : (s.modWl w f).stores = s.stores := rfl
@[simp] theorem State.modWl_seen (s : State) (w : Nat) (f : Worklist → Worklist) : (s.modWl w f).seen = s.seen := rfl
@[simp] theorem State.modWl_arrived (s : State) (w : Nat) (f : Worklist → Worklist) : (s.modWl w f).arrived = s.arrived := rfl
@[simp] theorem State.modWl_slots (s : State) (w : Nat) (f : Worklist → Worklist) : (s.modWl w f).slots = s.slots := rfl
@[simp] theorem State.modWl_cores (s : State) (w : Nat) (f : Worklist → Worklist) : (s.modWl w f).cores = s.cores := rfl
@[simp] theorem State.modWl_dies (s : State) (w : Nat) (f : Worklist → Worklist) : (s.modWl w f).dies = s.dies := rfl
@[simp] theorem State.modWl_ios (s : State) (w : Nat) (f : Worklist → Worklist) : (s.modWl w f).ios = s.ios := rfl
@[simp] theorem State.modWl_channels (s : State) (w : Nat) (f : Worklist → Worklist) : (s.modWl w f).channels = s.channels := rfl
@[simp] theorem State.modWl_frames (s : State) (w : Nat) (f : Worklist → Worklist) : (s.modWl w f).frames = s.frames := rfl
@[simp] theorem State.modWl_links (s : State) (w : Nat) (f : Worklist → Worklist) : (s.modWl w f).links = s.links := rfl
@[simp] theorem State.modWl_carried (s : State) (w : Nat) (f : Worklist → Worklist) : (s.modWl w f).carried = s.carried := rfl
@[simp] theorem State.modWl_inbound (s : State) (w : Nat) (f : Worklist → Worklist) : (s.modWl w f).inbound = s.inbound := rfl
@[simp] theorem State.modWl_spareWires (s : State) (w : Nat) (f : Worklist → Worklist) : (s.modWl w f).spareWires = s.spareWires := rfl
@[simp] theorem State.modWl_inService (s : State) (w : Nat) (f : Worklist → Worklist) : (s.modWl w f).inService = s.inService := rfl
@[simp] theorem State.modWl_decoders (s : State) (w : Nat) (f : Worklist → Worklist) : (s.modWl w f).decoders = s.decoders := rfl
@[simp] theorem State.modWl_badTransfers (s : State) (w : Nat) (f : Worklist → Worklist) : (s.modWl w f).badTransfers = s.badTransfers := rfl
@[simp] theorem State.modWl_badReads (s : State) (w : Nat) (f : Worklist → Worklist) : (s.modWl w f).badReads = s.badReads := rfl
@[simp] theorem State.modWl_sluices (s : State) (w : Nat) (f : Worklist → Worklist) : (s.modWl w f).sluices = s.sluices := rfl
@[simp] theorem State.modWl_pushSeq (s : State) (w : Nat) (f : Worklist → Worklist) : (s.modWl w f).pushSeq = s.pushSeq := rfl
@[simp] theorem State.modWl_jobs (s : State) (w : Nat) (f : Worklist → Worklist) : (s.modWl w f).jobs = s.jobs := rfl
@[simp] theorem State.modWl_gangs (s : State) (w : Nat) (f : Worklist → Worklist) : (s.modWl w f).gangs = s.gangs := rfl
@[simp] theorem State.modWl_slotres (s : State) (w : Nat) (f : Worklist → Worklist) : (s.modWl w f).slotres = s.slotres := rfl
@[simp] theorem State.modWl_noteJob (s : State) (w : Nat) (f : Worklist → Worklist) : (s.modWl w f).noteJob = s.noteJob := rfl
@[simp] theorem State.modWl_noteWl (s : State) (w : Nat) (f : Worklist → Worklist) : (s.modWl w f).noteWl = s.noteWl := rfl
@[simp] theorem State.modWl_noteEn (s : State) (w : Nat) (f : Worklist → Worklist) : (s.modWl w f).noteEn = s.noteEn := rfl
@[simp] theorem State.modWl_asroot (s : State) (w : Nat) (f : Worklist → Worklist) : (s.modWl w f).asroot = s.asroot := rfl
@[simp] theorem State.modWl_copies (s : State) (w : Nat) (f : Worklist → Worklist) : (s.modWl w f).copies = s.copies := rfl
@[simp] theorem State.modWl_podTout (s : State) (w : Nat) (f : Worklist → Worklist) : (s.modWl w f).podTout = s.podTout := rfl
@[simp] theorem State.modWl_modNum (s : State) (w : Nat) (f : Worklist → Worklist) : (s.modWl w f).modNum = s.modNum := rfl
@[simp] theorem State.modWl_pod (s : State) (w : Nat) (f : Worklist → Worklist) : (s.modWl w f).pod = s.pod := rfl
@[simp] theorem State.modWl_shadowOut (s : State) (w : Nat) (f : Worklist → Worklist) : (s.modWl w f).shadowOut = s.shadowOut := rfl
@[simp] theorem State.modWl_flushAsked (s : State) (w : Nat) (f : Worklist → Worklist) : (s.modWl w f).flushAsked = s.flushAsked := rfl
@[simp] theorem State.modWl_flushOut (s : State) (w : Nat) (f : Worklist → Worklist) : (s.modWl w f).flushOut = s.flushOut := rfl
@[simp] theorem State.modWl_status (s : State) (w : Nat) (f : Worklist → Worklist) : (s.modWl w f).status = s.status := rfl
@[simp] theorem State.modWl_ready (s : State) (w : Nat) (f : Worklist → Worklist) : (s.modWl w f).ready = s.ready := rfl
@[simp] theorem State.modWl_booterr (s : State) (w : Nat) (f : Worklist → Worklist) : (s.modWl w f).booterr = s.booterr := rfl
@[simp] theorem State.modWl_snap (s : State) (w : Nat) (f : Worklist → Worklist) : (s.modWl w f).snap = s.snap := rfl
@[simp] theorem State.modWl_snapLost (s : State) (w : Nat) (f : Worklist → Worklist) : (s.modWl w f).snapLost = s.snapLost := rfl
@[simp] theorem State.modWl_snapAt (s : State) (w : Nat) (f : Worklist → Worklist) : (s.modWl w f).snapAt = s.snapAt := rfl
@[simp] theorem State.modWl_topleft (s : State) (w : Nat) (f : Worklist → Worklist) : (s.modWl w f).topleft = s.topleft := rfl
@[simp] theorem State.modWl_mbxGo (s : State) (w : Nat) (f : Worklist → Worklist) : (s.modWl w f).mbxGo = s.mbxGo := rfl
@[simp] theorem State.modWl_mbxDone (s : State) (w : Nat) (f : Worklist → Worklist) : (s.modWl w f).mbxDone = s.mbxDone := rfl
@[simp] theorem State.modWl_hostId (s : State) (w : Nat) (f : Worklist → Worklist) : (s.modWl w f).hostId = s.hostId := rfl
@[simp] theorem State.modWl_hostRead (s : State) (w : Nat) (f : Worklist → Worklist) : (s.modWl w f).hostRead = s.hostRead := rfl
@[simp] theorem State.modWl_hostPoison (s : State) (w : Nat) (f : Worklist → Worklist) : (s.modWl w f).hostPoison = s.hostPoison := rfl
@[simp] theorem State.modWl_fusedMin (s : State) (w : Nat) (f : Worklist → Worklist) : (s.modWl w f).fusedMin = s.fusedMin := rfl
@[simp] theorem State.modWl_fwVersion (s : State) (w : Nat) (f : Worklist → Worklist) : (s.modWl w f).fwVersion = s.fwVersion := rfl
@[simp] theorem State.modWl_lowerLeft (s : State) (w : Nat) (f : Worklist → Worklist) : (s.modWl w f).lowerLeft = s.lowerLeft := rfl
@[simp] theorem State.modWl_images (s : State) (w : Nat) (f : Worklist → Worklist) : (s.modWl w f).images = s.images := rfl
@[simp] theorem State.modWl_loaded (s : State) (w : Nat) (f : Worklist → Worklist) : (s.modWl w f).loaded = s.loaded := rfl
@[simp] theorem State.modWl_boot (s : State) (w : Nat) (f : Worklist → Worklist) : (s.modWl w f).boot = s.boot := rfl
@[simp] theorem State.modWl_rings (s : State) (w : Nat) (f : Worklist → Worklist) : (s.modWl w f).rings = s.rings := rfl
@[simp] theorem State.modWl_mhl (s : State) (w : Nat) (f : Worklist → Worklist) : (s.modWl w f).mhl = s.mhl := rfl
@[simp] theorem State.modWl_mhlTried (s : State) (w : Nat) (f : Worklist → Worklist) : (s.modWl w f).mhlTried = s.mhlTried := rfl
@[simp] theorem State.modWl_booting (s : State) (w : Nat) (f : Worklist → Worklist) : (s.modWl w f).booting = s.booting := rfl
@[simp] theorem State.modWl_excessSince (s : State) (w : Nat) (f : Worklist → Worklist) : (s.modWl w f).excessSince = s.excessSince := rfl
@[simp] theorem State.modWl_powerSkip (s : State) (w : Nat) (f : Worklist → Worklist) : (s.modWl w f).powerSkip = s.powerSkip := rfl
@[simp] theorem State.modWl_stopped (s : State) (w : Nat) (f : Worklist → Worklist) : (s.modWl w f).stopped = s.stopped := rfl

/-! ### State.setJob -/

@[simp] theorem State.setJob_cur (s : State) (j : Nat) (v : Job) : (s.setJob j v).cur = s.cur := rfl
@[simp] theorem State.setJob_agenda (s : State) (j : Nat) (v : Job) : (s.setJob j v).agenda = s.agenda := rfl
@[simp] theorem State.setJob_devTurn (s : State) (j : Nat) (v : Job) : (s.setJob j v).devTurn = s.devTurn := rfl
@[simp] theorem State.setJob_turnNo (s : State) (j : Nat) (v : Job) : (s.setJob j v).turnNo = s.turnNo := rfl
@[simp] theorem State.setJob_fresh (s : State) (j : Nat) (v : Job) : (s.setJob j v).fresh = s.fresh := rfl
@[simp] theorem State.setJob_nextUid (s : State) (j : Nat) (v : Job) : (s.setJob j v).nextUid = s.nextUid := rfl
@[simp] theorem State.setJob_todo (s : State) (j : Nat) (v : Job) : (s.setJob j v).todo = s.todo := rfl
@[simp] theorem State.setJob_now (s : State) (j : Nat) (v : Job) : (s.setJob j v).now = s.now := rfl
@[simp] theorem State.setJob_issueFrom (s : State) (j : Nat) (v : Job) : (s.setJob j v).issueFrom = s.issueFrom := rfl
@[simp] theorem State.setJob_mem (s : State) (j : Nat) (v : Job) : (s.setJob j v).mem = s.mem := rfl
@[simp] theorem State.setJob_emptyWords (s : State) (j : Nat) (v : Job) : (s.setJob j v).emptyWords = s.emptyWords := rfl
@[simp] theorem State.setJob_poisoned (s : State) (j : Nat) (v : Job) : (s.setJob j v).poisoned = s.poisoned := rfl
@[simp] theorem State.setJob_notReady (s : State) (j : Nat) (v : Job) : (s.setJob j v).notReady = s.notReady := rfl
@[simp] theorem State.setJob_stores (s : State) (j : Nat) (v : Job) : (s.setJob j v).stores = s.stores := rfl
@[simp] theorem State.setJob_seen (s : State) (j : Nat) (v : Job) : (s.setJob j v).seen = s.seen := rfl
@[simp] theorem State.setJob_arrived (s : State) (j : Nat) (v : Job) : (s.setJob j v).arrived = s.arrived := rfl
@[simp] theorem State.setJob_slots (s : State) (j : Nat) (v : Job) : (s.setJob j v).slots = s.slots := rfl
@[simp] theorem State.setJob_cores (s : State) (j : Nat) (v : Job) : (s.setJob j v).cores = s.cores := rfl
@[simp] theorem State.setJob_dies (s : State) (j : Nat) (v : Job) : (s.setJob j v).dies = s.dies := rfl
@[simp] theorem State.setJob_ios (s : State) (j : Nat) (v : Job) : (s.setJob j v).ios = s.ios := rfl
@[simp] theorem State.setJob_channels (s : State) (j : Nat) (v : Job) : (s.setJob j v).channels = s.channels := rfl
@[simp] theorem State.setJob_frames (s : State) (j : Nat) (v : Job) : (s.setJob j v).frames = s.frames := rfl
@[simp] theorem State.setJob_links (s : State) (j : Nat) (v : Job) : (s.setJob j v).links = s.links := rfl
@[simp] theorem State.setJob_carried (s : State) (j : Nat) (v : Job) : (s.setJob j v).carried = s.carried := rfl
@[simp] theorem State.setJob_inbound (s : State) (j : Nat) (v : Job) : (s.setJob j v).inbound = s.inbound := rfl
@[simp] theorem State.setJob_spareWires (s : State) (j : Nat) (v : Job) : (s.setJob j v).spareWires = s.spareWires := rfl
@[simp] theorem State.setJob_inService (s : State) (j : Nat) (v : Job) : (s.setJob j v).inService = s.inService := rfl
@[simp] theorem State.setJob_decoders (s : State) (j : Nat) (v : Job) : (s.setJob j v).decoders = s.decoders := rfl
@[simp] theorem State.setJob_badTransfers (s : State) (j : Nat) (v : Job) : (s.setJob j v).badTransfers = s.badTransfers := rfl
@[simp] theorem State.setJob_badReads (s : State) (j : Nat) (v : Job) : (s.setJob j v).badReads = s.badReads := rfl
@[simp] theorem State.setJob_worklists (s : State) (j : Nat) (v : Job) : (s.setJob j v).worklists = s.worklists := rfl
@[simp] theorem State.setJob_sluices (s : State) (j : Nat) (v : Job) : (s.setJob j v).sluices = s.sluices := rfl
@[simp] theorem State.setJob_pushSeq (s : State) (j : Nat) (v : Job) : (s.setJob j v).pushSeq = s.pushSeq := rfl
@[simp] theorem State.setJob_gangs (s : State) (j : Nat) (v : Job) : (s.setJob j v).gangs = s.gangs := rfl
@[simp] theorem State.setJob_slotres (s : State) (j : Nat) (v : Job) : (s.setJob j v).slotres = s.slotres := rfl
@[simp] theorem State.setJob_noteJob (s : State) (j : Nat) (v : Job) : (s.setJob j v).noteJob = s.noteJob := rfl
@[simp] theorem State.setJob_noteWl (s : State) (j : Nat) (v : Job) : (s.setJob j v).noteWl = s.noteWl := rfl
@[simp] theorem State.setJob_noteEn (s : State) (j : Nat) (v : Job) : (s.setJob j v).noteEn = s.noteEn := rfl
@[simp] theorem State.setJob_asroot (s : State) (j : Nat) (v : Job) : (s.setJob j v).asroot = s.asroot := rfl
@[simp] theorem State.setJob_copies (s : State) (j : Nat) (v : Job) : (s.setJob j v).copies = s.copies := rfl
@[simp] theorem State.setJob_podTout (s : State) (j : Nat) (v : Job) : (s.setJob j v).podTout = s.podTout := rfl
@[simp] theorem State.setJob_modNum (s : State) (j : Nat) (v : Job) : (s.setJob j v).modNum = s.modNum := rfl
@[simp] theorem State.setJob_pod (s : State) (j : Nat) (v : Job) : (s.setJob j v).pod = s.pod := rfl
@[simp] theorem State.setJob_shadowOut (s : State) (j : Nat) (v : Job) : (s.setJob j v).shadowOut = s.shadowOut := rfl
@[simp] theorem State.setJob_flushAsked (s : State) (j : Nat) (v : Job) : (s.setJob j v).flushAsked = s.flushAsked := rfl
@[simp] theorem State.setJob_flushOut (s : State) (j : Nat) (v : Job) : (s.setJob j v).flushOut = s.flushOut := rfl
@[simp] theorem State.setJob_status (s : State) (j : Nat) (v : Job) : (s.setJob j v).status = s.status := rfl
@[simp] theorem State.setJob_ready (s : State) (j : Nat) (v : Job) : (s.setJob j v).ready = s.ready := rfl
@[simp] theorem State.setJob_booterr (s : State) (j : Nat) (v : Job) : (s.setJob j v).booterr = s.booterr := rfl
@[simp] theorem State.setJob_snap (s : State) (j : Nat) (v : Job) : (s.setJob j v).snap = s.snap := rfl
@[simp] theorem State.setJob_snapLost (s : State) (j : Nat) (v : Job) : (s.setJob j v).snapLost = s.snapLost := rfl
@[simp] theorem State.setJob_snapAt (s : State) (j : Nat) (v : Job) : (s.setJob j v).snapAt = s.snapAt := rfl
@[simp] theorem State.setJob_topleft (s : State) (j : Nat) (v : Job) : (s.setJob j v).topleft = s.topleft := rfl
@[simp] theorem State.setJob_mbxGo (s : State) (j : Nat) (v : Job) : (s.setJob j v).mbxGo = s.mbxGo := rfl
@[simp] theorem State.setJob_mbxDone (s : State) (j : Nat) (v : Job) : (s.setJob j v).mbxDone = s.mbxDone := rfl
@[simp] theorem State.setJob_hostId (s : State) (j : Nat) (v : Job) : (s.setJob j v).hostId = s.hostId := rfl
@[simp] theorem State.setJob_hostRead (s : State) (j : Nat) (v : Job) : (s.setJob j v).hostRead = s.hostRead := rfl
@[simp] theorem State.setJob_hostPoison (s : State) (j : Nat) (v : Job) : (s.setJob j v).hostPoison = s.hostPoison := rfl
@[simp] theorem State.setJob_fusedMin (s : State) (j : Nat) (v : Job) : (s.setJob j v).fusedMin = s.fusedMin := rfl
@[simp] theorem State.setJob_fwVersion (s : State) (j : Nat) (v : Job) : (s.setJob j v).fwVersion = s.fwVersion := rfl
@[simp] theorem State.setJob_lowerLeft (s : State) (j : Nat) (v : Job) : (s.setJob j v).lowerLeft = s.lowerLeft := rfl
@[simp] theorem State.setJob_images (s : State) (j : Nat) (v : Job) : (s.setJob j v).images = s.images := rfl
@[simp] theorem State.setJob_loaded (s : State) (j : Nat) (v : Job) : (s.setJob j v).loaded = s.loaded := rfl
@[simp] theorem State.setJob_boot (s : State) (j : Nat) (v : Job) : (s.setJob j v).boot = s.boot := rfl
@[simp] theorem State.setJob_rings (s : State) (j : Nat) (v : Job) : (s.setJob j v).rings = s.rings := rfl
@[simp] theorem State.setJob_mhl (s : State) (j : Nat) (v : Job) : (s.setJob j v).mhl = s.mhl := rfl
@[simp] theorem State.setJob_mhlTried (s : State) (j : Nat) (v : Job) : (s.setJob j v).mhlTried = s.mhlTried := rfl
@[simp] theorem State.setJob_booting (s : State) (j : Nat) (v : Job) : (s.setJob j v).booting = s.booting := rfl
@[simp] theorem State.setJob_excessSince (s : State) (j : Nat) (v : Job) : (s.setJob j v).excessSince = s.excessSince := rfl
@[simp] theorem State.setJob_powerSkip (s : State) (j : Nat) (v : Job) : (s.setJob j v).powerSkip = s.powerSkip := rfl
@[simp] theorem State.setJob_stopped (s : State) (j : Nat) (v : Job) : (s.setJob j v).stopped = s.stopped := rfl

/-! ### State.modJob -/

@[simp] theorem State.modJob_cur (s : State) (j : Nat) (f : Job → Job) : (s.modJob j f).cur = s.cur := rfl
@[simp] theorem State.modJob_agenda (s : State) (j : Nat) (f : Job → Job) : (s.modJob j f).agenda = s.agenda := rfl
@[simp] theorem State.modJob_devTurn (s : State) (j : Nat) (f : Job → Job) : (s.modJob j f).devTurn = s.devTurn := rfl
@[simp] theorem State.modJob_turnNo (s : State) (j : Nat) (f : Job → Job) : (s.modJob j f).turnNo = s.turnNo := rfl
@[simp] theorem State.modJob_fresh (s : State) (j : Nat) (f : Job → Job) : (s.modJob j f).fresh = s.fresh := rfl
@[simp] theorem State.modJob_nextUid (s : State) (j : Nat) (f : Job → Job) : (s.modJob j f).nextUid = s.nextUid := rfl
@[simp] theorem State.modJob_todo (s : State) (j : Nat) (f : Job → Job) : (s.modJob j f).todo = s.todo := rfl
@[simp] theorem State.modJob_now (s : State) (j : Nat) (f : Job → Job) : (s.modJob j f).now = s.now := rfl
@[simp] theorem State.modJob_issueFrom (s : State) (j : Nat) (f : Job → Job) : (s.modJob j f).issueFrom = s.issueFrom := rfl
@[simp] theorem State.modJob_mem (s : State) (j : Nat) (f : Job → Job) : (s.modJob j f).mem = s.mem := rfl
@[simp] theorem State.modJob_emptyWords (s : State) (j : Nat) (f : Job → Job) : (s.modJob j f).emptyWords = s.emptyWords := rfl
@[simp] theorem State.modJob_poisoned (s : State) (j : Nat) (f : Job → Job) : (s.modJob j f).poisoned = s.poisoned := rfl
@[simp] theorem State.modJob_notReady (s : State) (j : Nat) (f : Job → Job) : (s.modJob j f).notReady = s.notReady := rfl
@[simp] theorem State.modJob_stores (s : State) (j : Nat) (f : Job → Job) : (s.modJob j f).stores = s.stores := rfl
@[simp] theorem State.modJob_seen (s : State) (j : Nat) (f : Job → Job) : (s.modJob j f).seen = s.seen := rfl
@[simp] theorem State.modJob_arrived (s : State) (j : Nat) (f : Job → Job) : (s.modJob j f).arrived = s.arrived := rfl
@[simp] theorem State.modJob_slots (s : State) (j : Nat) (f : Job → Job) : (s.modJob j f).slots = s.slots := rfl
@[simp] theorem State.modJob_cores (s : State) (j : Nat) (f : Job → Job) : (s.modJob j f).cores = s.cores := rfl
@[simp] theorem State.modJob_dies (s : State) (j : Nat) (f : Job → Job) : (s.modJob j f).dies = s.dies := rfl
@[simp] theorem State.modJob_ios (s : State) (j : Nat) (f : Job → Job) : (s.modJob j f).ios = s.ios := rfl
@[simp] theorem State.modJob_channels (s : State) (j : Nat) (f : Job → Job) : (s.modJob j f).channels = s.channels := rfl
@[simp] theorem State.modJob_frames (s : State) (j : Nat) (f : Job → Job) : (s.modJob j f).frames = s.frames := rfl
@[simp] theorem State.modJob_links (s : State) (j : Nat) (f : Job → Job) : (s.modJob j f).links = s.links := rfl
@[simp] theorem State.modJob_carried (s : State) (j : Nat) (f : Job → Job) : (s.modJob j f).carried = s.carried := rfl
@[simp] theorem State.modJob_inbound (s : State) (j : Nat) (f : Job → Job) : (s.modJob j f).inbound = s.inbound := rfl
@[simp] theorem State.modJob_spareWires (s : State) (j : Nat) (f : Job → Job) : (s.modJob j f).spareWires = s.spareWires := rfl
@[simp] theorem State.modJob_inService (s : State) (j : Nat) (f : Job → Job) : (s.modJob j f).inService = s.inService := rfl
@[simp] theorem State.modJob_decoders (s : State) (j : Nat) (f : Job → Job) : (s.modJob j f).decoders = s.decoders := rfl
@[simp] theorem State.modJob_badTransfers (s : State) (j : Nat) (f : Job → Job) : (s.modJob j f).badTransfers = s.badTransfers := rfl
@[simp] theorem State.modJob_badReads (s : State) (j : Nat) (f : Job → Job) : (s.modJob j f).badReads = s.badReads := rfl
@[simp] theorem State.modJob_worklists (s : State) (j : Nat) (f : Job → Job) : (s.modJob j f).worklists = s.worklists := rfl
@[simp] theorem State.modJob_sluices (s : State) (j : Nat) (f : Job → Job) : (s.modJob j f).sluices = s.sluices := rfl
@[simp] theorem State.modJob_pushSeq (s : State) (j : Nat) (f : Job → Job) : (s.modJob j f).pushSeq = s.pushSeq := rfl
@[simp] theorem State.modJob_gangs (s : State) (j : Nat) (f : Job → Job) : (s.modJob j f).gangs = s.gangs := rfl
@[simp] theorem State.modJob_slotres (s : State) (j : Nat) (f : Job → Job) : (s.modJob j f).slotres = s.slotres := rfl
@[simp] theorem State.modJob_noteJob (s : State) (j : Nat) (f : Job → Job) : (s.modJob j f).noteJob = s.noteJob := rfl
@[simp] theorem State.modJob_noteWl (s : State) (j : Nat) (f : Job → Job) : (s.modJob j f).noteWl = s.noteWl := rfl
@[simp] theorem State.modJob_noteEn (s : State) (j : Nat) (f : Job → Job) : (s.modJob j f).noteEn = s.noteEn := rfl
@[simp] theorem State.modJob_asroot (s : State) (j : Nat) (f : Job → Job) : (s.modJob j f).asroot = s.asroot := rfl
@[simp] theorem State.modJob_copies (s : State) (j : Nat) (f : Job → Job) : (s.modJob j f).copies = s.copies := rfl
@[simp] theorem State.modJob_podTout (s : State) (j : Nat) (f : Job → Job) : (s.modJob j f).podTout = s.podTout := rfl
@[simp] theorem State.modJob_modNum (s : State) (j : Nat) (f : Job → Job) : (s.modJob j f).modNum = s.modNum := rfl
@[simp] theorem State.modJob_pod (s : State) (j : Nat) (f : Job → Job) : (s.modJob j f).pod = s.pod := rfl
@[simp] theorem State.modJob_shadowOut (s : State) (j : Nat) (f : Job → Job) : (s.modJob j f).shadowOut = s.shadowOut := rfl
@[simp] theorem State.modJob_flushAsked (s : State) (j : Nat) (f : Job → Job) : (s.modJob j f).flushAsked = s.flushAsked := rfl
@[simp] theorem State.modJob_flushOut (s : State) (j : Nat) (f : Job → Job) : (s.modJob j f).flushOut = s.flushOut := rfl
@[simp] theorem State.modJob_status (s : State) (j : Nat) (f : Job → Job) : (s.modJob j f).status = s.status := rfl
@[simp] theorem State.modJob_ready (s : State) (j : Nat) (f : Job → Job) : (s.modJob j f).ready = s.ready := rfl
@[simp] theorem State.modJob_booterr (s : State) (j : Nat) (f : Job → Job) : (s.modJob j f).booterr = s.booterr := rfl
@[simp] theorem State.modJob_snap (s : State) (j : Nat) (f : Job → Job) : (s.modJob j f).snap = s.snap := rfl
@[simp] theorem State.modJob_snapLost (s : State) (j : Nat) (f : Job → Job) : (s.modJob j f).snapLost = s.snapLost := rfl
@[simp] theorem State.modJob_snapAt (s : State) (j : Nat) (f : Job → Job) : (s.modJob j f).snapAt = s.snapAt := rfl
@[simp] theorem State.modJob_topleft (s : State) (j : Nat) (f : Job → Job) : (s.modJob j f).topleft = s.topleft := rfl
@[simp] theorem State.modJob_mbxGo (s : State) (j : Nat) (f : Job → Job) : (s.modJob j f).mbxGo = s.mbxGo := rfl
@[simp] theorem State.modJob_mbxDone (s : State) (j : Nat) (f : Job → Job) : (s.modJob j f).mbxDone = s.mbxDone := rfl
@[simp] theorem State.modJob_hostId (s : State) (j : Nat) (f : Job → Job) : (s.modJob j f).hostId = s.hostId := rfl
@[simp] theorem State.modJob_hostRead (s : State) (j : Nat) (f : Job → Job) : (s.modJob j f).hostRead = s.hostRead := rfl
@[simp] theorem State.modJob_hostPoison (s : State) (j : Nat) (f : Job → Job) : (s.modJob j f).hostPoison = s.hostPoison := rfl
@[simp] theorem State.modJob_fusedMin (s : State) (j : Nat) (f : Job → Job) : (s.modJob j f).fusedMin = s.fusedMin := rfl
@[simp] theorem State.modJob_fwVersion (s : State) (j : Nat) (f : Job → Job) : (s.modJob j f).fwVersion = s.fwVersion := rfl
@[simp] theorem State.modJob_lowerLeft (s : State) (j : Nat) (f : Job → Job) : (s.modJob j f).lowerLeft = s.lowerLeft := rfl
@[simp] theorem State.modJob_images (s : State) (j : Nat) (f : Job → Job) : (s.modJob j f).images = s.images := rfl
@[simp] theorem State.modJob_loaded (s : State) (j : Nat) (f : Job → Job) : (s.modJob j f).loaded = s.loaded := rfl
@[simp] theorem State.modJob_boot (s : State) (j : Nat) (f : Job → Job) : (s.modJob j f).boot = s.boot := rfl
@[simp] theorem State.modJob_rings (s : State) (j : Nat) (f : Job → Job) : (s.modJob j f).rings = s.rings := rfl
@[simp] theorem State.modJob_mhl (s : State) (j : Nat) (f : Job → Job) : (s.modJob j f).mhl = s.mhl := rfl
@[simp] theorem State.modJob_mhlTried (s : State) (j : Nat) (f : Job → Job) : (s.modJob j f).mhlTried = s.mhlTried := rfl
@[simp] theorem State.modJob_booting (s : State) (j : Nat) (f : Job → Job) : (s.modJob j f).booting = s.booting := rfl
@[simp] theorem State.modJob_excessSince (s : State) (j : Nat) (f : Job → Job) : (s.modJob j f).excessSince = s.excessSince := rfl
@[simp] theorem State.modJob_powerSkip (s : State) (j : Nat) (f : Job → Job) : (s.modJob j f).powerSkip = s.powerSkip := rfl
@[simp] theorem State.modJob_stopped (s : State) (j : Nat) (f : Job → Job) : (s.modJob j f).stopped = s.stopped := rfl

/-! ### State.setGang -/

@[simp] theorem State.setGang_cur (s : State) (g : Nat) (v : Gang) : (s.setGang g v).cur = s.cur := rfl
@[simp] theorem State.setGang_agenda (s : State) (g : Nat) (v : Gang) : (s.setGang g v).agenda = s.agenda := rfl
@[simp] theorem State.setGang_devTurn (s : State) (g : Nat) (v : Gang) : (s.setGang g v).devTurn = s.devTurn := rfl
@[simp] theorem State.setGang_turnNo (s : State) (g : Nat) (v : Gang) : (s.setGang g v).turnNo = s.turnNo := rfl
@[simp] theorem State.setGang_fresh (s : State) (g : Nat) (v : Gang) : (s.setGang g v).fresh = s.fresh := rfl
@[simp] theorem State.setGang_nextUid (s : State) (g : Nat) (v : Gang) : (s.setGang g v).nextUid = s.nextUid := rfl
@[simp] theorem State.setGang_todo (s : State) (g : Nat) (v : Gang) : (s.setGang g v).todo = s.todo := rfl
@[simp] theorem State.setGang_now (s : State) (g : Nat) (v : Gang) : (s.setGang g v).now = s.now := rfl
@[simp] theorem State.setGang_issueFrom (s : State) (g : Nat) (v : Gang) : (s.setGang g v).issueFrom = s.issueFrom := rfl
@[simp] theorem State.setGang_mem (s : State) (g : Nat) (v : Gang) : (s.setGang g v).mem = s.mem := rfl
@[simp] theorem State.setGang_emptyWords (s : State) (g : Nat) (v : Gang) : (s.setGang g v).emptyWords = s.emptyWords := rfl
@[simp] theorem State.setGang_poisoned (s : State) (g : Nat) (v : Gang) : (s.setGang g v).poisoned = s.poisoned := rfl
@[simp] theorem State.setGang_notReady (s : State) (g : Nat) (v : Gang) : (s.setGang g v).notReady = s.notReady := rfl
@[simp] theorem State.setGang_stores (s : State) (g : Nat) (v : Gang) : (s.setGang g v).stores = s.stores := rfl
@[simp] theorem State.setGang_seen (s : State) (g : Nat) (v : Gang) : (s.setGang g v).seen = s.seen := rfl
@[simp] theorem State.setGang_arrived (s : State) (g : Nat) (v : Gang) : (s.setGang g v).arrived = s.arrived := rfl
@[simp] theorem State.setGang_slots (s : State) (g : Nat) (v : Gang) : (s.setGang g v).slots = s.slots := rfl
@[simp] theorem State.setGang_cores (s : State) (g : Nat) (v : Gang) : (s.setGang g v).cores = s.cores := rfl
@[simp] theorem State.setGang_dies (s : State) (g : Nat) (v : Gang) : (s.setGang g v).dies = s.dies := rfl
@[simp] theorem State.setGang_ios (s : State) (g : Nat) (v : Gang) : (s.setGang g v).ios = s.ios := rfl
@[simp] theorem State.setGang_channels (s : State) (g : Nat) (v : Gang) : (s.setGang g v).channels = s.channels := rfl
@[simp] theorem State.setGang_frames (s : State) (g : Nat) (v : Gang) : (s.setGang g v).frames = s.frames := rfl
@[simp] theorem State.setGang_links (s : State) (g : Nat) (v : Gang) : (s.setGang g v).links = s.links := rfl
@[simp] theorem State.setGang_carried (s : State) (g : Nat) (v : Gang) : (s.setGang g v).carried = s.carried := rfl
@[simp] theorem State.setGang_inbound (s : State) (g : Nat) (v : Gang) : (s.setGang g v).inbound = s.inbound := rfl
@[simp] theorem State.setGang_spareWires (s : State) (g : Nat) (v : Gang) : (s.setGang g v).spareWires = s.spareWires := rfl
@[simp] theorem State.setGang_inService (s : State) (g : Nat) (v : Gang) : (s.setGang g v).inService = s.inService := rfl
@[simp] theorem State.setGang_decoders (s : State) (g : Nat) (v : Gang) : (s.setGang g v).decoders = s.decoders := rfl
@[simp] theorem State.setGang_badTransfers (s : State) (g : Nat) (v : Gang) : (s.setGang g v).badTransfers = s.badTransfers := rfl
@[simp] theorem State.setGang_badReads (s : State) (g : Nat) (v : Gang) : (s.setGang g v).badReads = s.badReads := rfl
@[simp] theorem State.setGang_worklists (s : State) (g : Nat) (v : Gang) : (s.setGang g v).worklists = s.worklists := rfl
@[simp] theorem State.setGang_sluices (s : State) (g : Nat) (v : Gang) : (s.setGang g v).sluices = s.sluices := rfl
@[simp] theorem State.setGang_pushSeq (s : State) (g : Nat) (v : Gang) : (s.setGang g v).pushSeq = s.pushSeq := rfl
@[simp] theorem State.setGang_jobs (s : State) (g : Nat) (v : Gang) : (s.setGang g v).jobs = s.jobs := rfl
@[simp] theorem State.setGang_slotres (s : State) (g : Nat) (v : Gang) : (s.setGang g v).slotres = s.slotres := rfl
@[simp] theorem State.setGang_noteJob (s : State) (g : Nat) (v : Gang) : (s.setGang g v).noteJob = s.noteJob := rfl
@[simp] theorem State.setGang_noteWl (s : State) (g : Nat) (v : Gang) : (s.setGang g v).noteWl = s.noteWl := rfl
@[simp] theorem State.setGang_noteEn (s : State) (g : Nat) (v : Gang) : (s.setGang g v).noteEn = s.noteEn := rfl
@[simp] theorem State.setGang_asroot (s : State) (g : Nat) (v : Gang) : (s.setGang g v).asroot = s.asroot := rfl
@[simp] theorem State.setGang_copies (s : State) (g : Nat) (v : Gang) : (s.setGang g v).copies = s.copies := rfl
@[simp] theorem State.setGang_podTout (s : State) (g : Nat) (v : Gang) : (s.setGang g v).podTout = s.podTout := rfl
@[simp] theorem State.setGang_modNum (s : State) (g : Nat) (v : Gang) : (s.setGang g v).modNum = s.modNum := rfl
@[simp] theorem State.setGang_pod (s : State) (g : Nat) (v : Gang) : (s.setGang g v).pod = s.pod := rfl
@[simp] theorem State.setGang_shadowOut (s : State) (g : Nat) (v : Gang) : (s.setGang g v).shadowOut = s.shadowOut := rfl
@[simp] theorem State.setGang_flushAsked (s : State) (g : Nat) (v : Gang) : (s.setGang g v).flushAsked = s.flushAsked := rfl
@[simp] theorem State.setGang_flushOut (s : State) (g : Nat) (v : Gang) : (s.setGang g v).flushOut = s.flushOut := rfl
@[simp] theorem State.setGang_status (s : State) (g : Nat) (v : Gang) : (s.setGang g v).status = s.status := rfl
@[simp] theorem State.setGang_ready (s : State) (g : Nat) (v : Gang) : (s.setGang g v).ready = s.ready := rfl
@[simp] theorem State.setGang_booterr (s : State) (g : Nat) (v : Gang) : (s.setGang g v).booterr = s.booterr := rfl
@[simp] theorem State.setGang_snap (s : State) (g : Nat) (v : Gang) : (s.setGang g v).snap = s.snap := rfl
@[simp] theorem State.setGang_snapLost (s : State) (g : Nat) (v : Gang) : (s.setGang g v).snapLost = s.snapLost := rfl
@[simp] theorem State.setGang_snapAt (s : State) (g : Nat) (v : Gang) : (s.setGang g v).snapAt = s.snapAt := rfl
@[simp] theorem State.setGang_topleft (s : State) (g : Nat) (v : Gang) : (s.setGang g v).topleft = s.topleft := rfl
@[simp] theorem State.setGang_mbxGo (s : State) (g : Nat) (v : Gang) : (s.setGang g v).mbxGo = s.mbxGo := rfl
@[simp] theorem State.setGang_mbxDone (s : State) (g : Nat) (v : Gang) : (s.setGang g v).mbxDone = s.mbxDone := rfl
@[simp] theorem State.setGang_hostId (s : State) (g : Nat) (v : Gang) : (s.setGang g v).hostId = s.hostId := rfl
@[simp] theorem State.setGang_hostRead (s : State) (g : Nat) (v : Gang) : (s.setGang g v).hostRead = s.hostRead := rfl
@[simp] theorem State.setGang_hostPoison (s : State) (g : Nat) (v : Gang) : (s.setGang g v).hostPoison = s.hostPoison := rfl
@[simp] theorem State.setGang_fusedMin (s : State) (g : Nat) (v : Gang) : (s.setGang g v).fusedMin = s.fusedMin := rfl
@[simp] theorem State.setGang_fwVersion (s : State) (g : Nat) (v : Gang) : (s.setGang g v).fwVersion = s.fwVersion := rfl
@[simp] theorem State.setGang_lowerLeft (s : State) (g : Nat) (v : Gang) : (s.setGang g v).lowerLeft = s.lowerLeft := rfl
@[simp] theorem State.setGang_images (s : State) (g : Nat) (v : Gang) : (s.setGang g v).images = s.images := rfl
@[simp] theorem State.setGang_loaded (s : State) (g : Nat) (v : Gang) : (s.setGang g v).loaded = s.loaded := rfl
@[simp] theorem State.setGang_boot (s : State) (g : Nat) (v : Gang) : (s.setGang g v).boot = s.boot := rfl
@[simp] theorem State.setGang_rings (s : State) (g : Nat) (v : Gang) : (s.setGang g v).rings = s.rings := rfl
@[simp] theorem State.setGang_mhl (s : State) (g : Nat) (v : Gang) : (s.setGang g v).mhl = s.mhl := rfl
@[simp] theorem State.setGang_mhlTried (s : State) (g : Nat) (v : Gang) : (s.setGang g v).mhlTried = s.mhlTried := rfl
@[simp] theorem State.setGang_booting (s : State) (g : Nat) (v : Gang) : (s.setGang g v).booting = s.booting := rfl
@[simp] theorem State.setGang_excessSince (s : State) (g : Nat) (v : Gang) : (s.setGang g v).excessSince = s.excessSince := rfl
@[simp] theorem State.setGang_powerSkip (s : State) (g : Nat) (v : Gang) : (s.setGang g v).powerSkip = s.powerSkip := rfl
@[simp] theorem State.setGang_stopped (s : State) (g : Nat) (v : Gang) : (s.setGang g v).stopped = s.stopped := rfl

/-! ### State.setQueue -/

@[simp] theorem State.setQueue_cur (s : State) (c q : Nat) (l : List Word) : (s.setQueue c q l).cur = s.cur := rfl
@[simp] theorem State.setQueue_agenda (s : State) (c q : Nat) (l : List Word) : (s.setQueue c q l).agenda = s.agenda := rfl
@[simp] theorem State.setQueue_devTurn (s : State) (c q : Nat) (l : List Word) : (s.setQueue c q l).devTurn = s.devTurn := rfl
@[simp] theorem State.setQueue_turnNo (s : State) (c q : Nat) (l : List Word) : (s.setQueue c q l).turnNo = s.turnNo := rfl
@[simp] theorem State.setQueue_fresh (s : State) (c q : Nat) (l : List Word) : (s.setQueue c q l).fresh = s.fresh := rfl
@[simp] theorem State.setQueue_nextUid (s : State) (c q : Nat) (l : List Word) : (s.setQueue c q l).nextUid = s.nextUid := rfl
@[simp] theorem State.setQueue_todo (s : State) (c q : Nat) (l : List Word) : (s.setQueue c q l).todo = s.todo := rfl
@[simp] theorem State.setQueue_now (s : State) (c q : Nat) (l : List Word) : (s.setQueue c q l).now = s.now := rfl
@[simp] theorem State.setQueue_issueFrom (s : State) (c q : Nat) (l : List Word) : (s.setQueue c q l).issueFrom = s.issueFrom := rfl
@[simp] theorem State.setQueue_mem (s : State) (c q : Nat) (l : List Word) : (s.setQueue c q l).mem = s.mem := rfl
@[simp] theorem State.setQueue_emptyWords (s : State) (c q : Nat) (l : List Word) : (s.setQueue c q l).emptyWords = s.emptyWords := rfl
@[simp] theorem State.setQueue_poisoned (s : State) (c q : Nat) (l : List Word) : (s.setQueue c q l).poisoned = s.poisoned := rfl
@[simp] theorem State.setQueue_notReady (s : State) (c q : Nat) (l : List Word) : (s.setQueue c q l).notReady = s.notReady := rfl
@[simp] theorem State.setQueue_stores (s : State) (c q : Nat) (l : List Word) : (s.setQueue c q l).stores = s.stores := rfl
@[simp] theorem State.setQueue_seen (s : State) (c q : Nat) (l : List Word) : (s.setQueue c q l).seen = s.seen := rfl
@[simp] theorem State.setQueue_arrived (s : State) (c q : Nat) (l : List Word) : (s.setQueue c q l).arrived = s.arrived := rfl
@[simp] theorem State.setQueue_slots (s : State) (c q : Nat) (l : List Word) : (s.setQueue c q l).slots = s.slots := rfl
@[simp] theorem State.setQueue_dies (s : State) (c q : Nat) (l : List Word) : (s.setQueue c q l).dies = s.dies := rfl
@[simp] theorem State.setQueue_ios (s : State) (c q : Nat) (l : List Word) : (s.setQueue c q l).ios = s.ios := rfl
@[simp] theorem State.setQueue_channels (s : State) (c q : Nat) (l : List Word) : (s.setQueue c q l).channels = s.channels := rfl
@[simp] theorem State.setQueue_frames (s : State) (c q : Nat) (l : List Word) : (s.setQueue c q l).frames = s.frames := rfl
@[simp] theorem State.setQueue_links (s : State) (c q : Nat) (l : List Word) : (s.setQueue c q l).links = s.links := rfl
@[simp] theorem State.setQueue_carried (s : State) (c q : Nat) (l : List Word) : (s.setQueue c q l).carried = s.carried := rfl
@[simp] theorem State.setQueue_inbound (s : State) (c q : Nat) (l : List Word) : (s.setQueue c q l).inbound = s.inbound := rfl
@[simp] theorem State.setQueue_spareWires (s : State) (c q : Nat) (l : List Word) : (s.setQueue c q l).spareWires = s.spareWires := rfl
@[simp] theorem State.setQueue_inService (s : State) (c q : Nat) (l : List Word) : (s.setQueue c q l).inService = s.inService := rfl
@[simp] theorem State.setQueue_decoders (s : State) (c q : Nat) (l : List Word) : (s.setQueue c q l).decoders = s.decoders := rfl
@[simp] theorem State.setQueue_badTransfers (s : State) (c q : Nat) (l : List Word) : (s.setQueue c q l).badTransfers = s.badTransfers := rfl
@[simp] theorem State.setQueue_badReads (s : State) (c q : Nat) (l : List Word) : (s.setQueue c q l).badReads = s.badReads := rfl
@[simp] theorem State.setQueue_worklists (s : State) (c q : Nat) (l : List Word) : (s.setQueue c q l).worklists = s.worklists := rfl
@[simp] theorem State.setQueue_sluices (s : State) (c q : Nat) (l : List Word) : (s.setQueue c q l).sluices = s.sluices := rfl
@[simp] theorem State.setQueue_pushSeq (s : State) (c q : Nat) (l : List Word) : (s.setQueue c q l).pushSeq = s.pushSeq := rfl
@[simp] theorem State.setQueue_jobs (s : State) (c q : Nat) (l : List Word) : (s.setQueue c q l).jobs = s.jobs := rfl
@[simp] theorem State.setQueue_gangs (s : State) (c q : Nat) (l : List Word) : (s.setQueue c q l).gangs = s.gangs := rfl
@[simp] theorem State.setQueue_slotres (s : State) (c q : Nat) (l : List Word) : (s.setQueue c q l).slotres = s.slotres := rfl
@[simp] theorem State.setQueue_noteJob (s : State) (c q : Nat) (l : List Word) : (s.setQueue c q l).noteJob = s.noteJob := rfl
@[simp] theorem State.setQueue_noteWl (s : State) (c q : Nat) (l : List Word) : (s.setQueue c q l).noteWl = s.noteWl := rfl
@[simp] theorem State.setQueue_noteEn (s : State) (c q : Nat) (l : List Word) : (s.setQueue c q l).noteEn = s.noteEn := rfl
@[simp] theorem State.setQueue_asroot (s : State) (c q : Nat) (l : List Word) : (s.setQueue c q l).asroot = s.asroot := rfl
@[simp] theorem State.setQueue_copies (s : State) (c q : Nat) (l : List Word) : (s.setQueue c q l).copies = s.copies := rfl
@[simp] theorem State.setQueue_podTout (s : State) (c q : Nat) (l : List Word) : (s.setQueue c q l).podTout = s.podTout := rfl
@[simp] theorem State.setQueue_modNum (s : State) (c q : Nat) (l : List Word) : (s.setQueue c q l).modNum = s.modNum := rfl
@[simp] theorem State.setQueue_pod (s : State) (c q : Nat) (l : List Word) : (s.setQueue c q l).pod = s.pod := rfl
@[simp] theorem State.setQueue_shadowOut (s : State) (c q : Nat) (l : List Word) : (s.setQueue c q l).shadowOut = s.shadowOut := rfl
@[simp] theorem State.setQueue_flushAsked (s : State) (c q : Nat) (l : List Word) : (s.setQueue c q l).flushAsked = s.flushAsked := rfl
@[simp] theorem State.setQueue_flushOut (s : State) (c q : Nat) (l : List Word) : (s.setQueue c q l).flushOut = s.flushOut := rfl
@[simp] theorem State.setQueue_status (s : State) (c q : Nat) (l : List Word) : (s.setQueue c q l).status = s.status := rfl
@[simp] theorem State.setQueue_ready (s : State) (c q : Nat) (l : List Word) : (s.setQueue c q l).ready = s.ready := rfl
@[simp] theorem State.setQueue_booterr (s : State) (c q : Nat) (l : List Word) : (s.setQueue c q l).booterr = s.booterr := rfl
@[simp] theorem State.setQueue_snap (s : State) (c q : Nat) (l : List Word) : (s.setQueue c q l).snap = s.snap := rfl
@[simp] theorem State.setQueue_snapLost (s : State) (c q : Nat) (l : List Word) : (s.setQueue c q l).snapLost = s.snapLost := rfl
@[simp] theorem State.setQueue_snapAt (s : State) (c q : Nat) (l : List Word) : (s.setQueue c q l).snapAt = s.snapAt := rfl
@[simp] theorem State.setQueue_topleft (s : State) (c q : Nat) (l : List Word) : (s.setQueue c q l).topleft = s.topleft := rfl
@[simp] theorem State.setQueue_mbxGo (s : State) (c q : Nat) (l : List Word) : (s.setQueue c q l).mbxGo = s.mbxGo := rfl
@[simp] theorem State.setQueue_mbxDone (s : State) (c q : Nat) (l : List Word) : (s.setQueue c q l).mbxDone = s.mbxDone := rfl
@[simp] theorem State.setQueue_hostId (s : State) (c q : Nat) (l : List Word) : (s.setQueue c q l).hostId = s.hostId := rfl
@[simp] theorem State.setQueue_hostRead (s : State) (c q : Nat) (l : List Word) : (s.setQueue c q l).hostRead = s.hostRead := rfl
@[simp] theorem State.setQueue_hostPoison (s : State) (c q : Nat) (l : List Word) : (s.setQueue c q l).hostPoison = s.hostPoison := rfl
@[simp] theorem State.setQueue_fusedMin (s : State) (c q : Nat) (l : List Word) : (s.setQueue c q l).fusedMin = s.fusedMin := rfl
@[simp] theorem State.setQueue_fwVersion (s : State) (c q : Nat) (l : List Word) : (s.setQueue c q l).fwVersion = s.fwVersion := rfl
@[simp] theorem State.setQueue_lowerLeft (s : State) (c q : Nat) (l : List Word) : (s.setQueue c q l).lowerLeft = s.lowerLeft := rfl
@[simp] theorem State.setQueue_images (s : State) (c q : Nat) (l : List Word) : (s.setQueue c q l).images = s.images := rfl
@[simp] theorem State.setQueue_loaded (s : State) (c q : Nat) (l : List Word) : (s.setQueue c q l).loaded = s.loaded := rfl
@[simp] theorem State.setQueue_boot (s : State) (c q : Nat) (l : List Word) : (s.setQueue c q l).boot = s.boot := rfl
@[simp] theorem State.setQueue_rings (s : State) (c q : Nat) (l : List Word) : (s.setQueue c q l).rings = s.rings := rfl
@[simp] theorem State.setQueue_mhl (s : State) (c q : Nat) (l : List Word) : (s.setQueue c q l).mhl = s.mhl := rfl
@[simp] theorem State.setQueue_mhlTried (s : State) (c q : Nat) (l : List Word) : (s.setQueue c q l).mhlTried = s.mhlTried := rfl
@[simp] theorem State.setQueue_booting (s : State) (c q : Nat) (l : List Word) : (s.setQueue c q l).booting = s.booting := rfl
@[simp] theorem State.setQueue_excessSince (s : State) (c q : Nat) (l : List Word) : (s.setQueue c q l).excessSince = s.excessSince := rfl
@[simp] theorem State.setQueue_powerSkip (s : State) (c q : Nat) (l : List Word) : (s.setQueue c q l).powerSkip = s.powerSkip := rfl
@[simp] theorem State.setQueue_stopped (s : State) (c q : Nat) (l : List Word) : (s.setQueue c q l).stopped = s.stopped := rfl

/-! ### State.setChannel -/

@[simp] theorem State.setChannel_cur (s : State) (c : Nat) (v : Channel) : (s.setChannel c v).cur = s.cur := rfl
@[simp] theorem State.setChannel_agenda (s : State) (c : Nat) (v : Channel) : (s.setChannel c v).agenda = s.agenda := rfl
@[simp] theorem State.setChannel_devTurn (s : State) (c : Nat) (v : Channel) : (s.setChannel c v).devTurn = s.devTurn := rfl
@[simp] theorem State.setChannel_turnNo (s : State) (c : Nat) (v : Channel) : (s.setChannel c v).turnNo = s.turnNo := rfl
@[simp] theorem State.setChannel_fresh (s : State) (c : Nat) (v : Channel) : (s.setChannel c v).fresh = s.fresh := rfl
@[simp] theorem State.setChannel_nextUid (s : State) (c : Nat) (v : Channel) : (s.setChannel c v).nextUid = s.nextUid := rfl
@[simp] theorem State.setChannel_todo (s : State) (c : Nat) (v : Channel) : (s.setChannel c v).todo = s.todo := rfl
@[simp] theorem State.setChannel_now (s : State) (c : Nat) (v : Channel) : (s.setChannel c v).now = s.now := rfl
@[simp] theorem State.setChannel_issueFrom (s : State) (c : Nat) (v : Channel) : (s.setChannel c v).issueFrom = s.issueFrom := rfl
@[simp] theorem State.setChannel_mem (s : State) (c : Nat) (v : Channel) : (s.setChannel c v).mem = s.mem := rfl
@[simp] theorem State.setChannel_emptyWords (s : State) (c : Nat) (v : Channel) : (s.setChannel c v).emptyWords = s.emptyWords := rfl
@[simp] theorem State.setChannel_poisoned (s : State) (c : Nat) (v : Channel) : (s.setChannel c v).poisoned = s.poisoned := rfl
@[simp] theorem State.setChannel_notReady (s : State) (c : Nat) (v : Channel) : (s.setChannel c v).notReady = s.notReady := rfl
@[simp] theorem State.setChannel_stores (s : State) (c : Nat) (v : Channel) : (s.setChannel c v).stores = s.stores := rfl
@[simp] theorem State.setChannel_seen (s : State) (c : Nat) (v : Channel) : (s.setChannel c v).seen = s.seen := rfl
@[simp] theorem State.setChannel_arrived (s : State) (c : Nat) (v : Channel) : (s.setChannel c v).arrived = s.arrived := rfl
@[simp] theorem State.setChannel_slots (s : State) (c : Nat) (v : Channel) : (s.setChannel c v).slots = s.slots := rfl
@[simp] theorem State.setChannel_cores (s : State) (c : Nat) (v : Channel) : (s.setChannel c v).cores = s.cores := rfl
@[simp] theorem State.setChannel_dies (s : State) (c : Nat) (v : Channel) : (s.setChannel c v).dies = s.dies := rfl
@[simp] theorem State.setChannel_ios (s : State) (c : Nat) (v : Channel) : (s.setChannel c v).ios = s.ios := rfl
@[simp] theorem State.setChannel_frames (s : State) (c : Nat) (v : Channel) : (s.setChannel c v).frames = s.frames := rfl
@[simp] theorem State.setChannel_links (s : State) (c : Nat) (v : Channel) : (s.setChannel c v).links = s.links := rfl
@[simp] theorem State.setChannel_carried (s : State) (c : Nat) (v : Channel) : (s.setChannel c v).carried = s.carried := rfl
@[simp] theorem State.setChannel_inbound (s : State) (c : Nat) (v : Channel) : (s.setChannel c v).inbound = s.inbound := rfl
@[simp] theorem State.setChannel_spareWires (s : State) (c : Nat) (v : Channel) : (s.setChannel c v).spareWires = s.spareWires := rfl
@[simp] theorem State.setChannel_inService (s : State) (c : Nat) (v : Channel) : (s.setChannel c v).inService = s.inService := rfl
@[simp] theorem State.setChannel_decoders (s : State) (c : Nat) (v : Channel) : (s.setChannel c v).decoders = s.decoders := rfl
@[simp] theorem State.setChannel_badTransfers (s : State) (c : Nat) (v : Channel) : (s.setChannel c v).badTransfers = s.badTransfers := rfl
@[simp] theorem State.setChannel_badReads (s : State) (c : Nat) (v : Channel) : (s.setChannel c v).badReads = s.badReads := rfl
@[simp] theorem State.setChannel_worklists (s : State) (c : Nat) (v : Channel) : (s.setChannel c v).worklists = s.worklists := rfl
@[simp] theorem State.setChannel_sluices (s : State) (c : Nat) (v : Channel) : (s.setChannel c v).sluices = s.sluices := rfl
@[simp] theorem State.setChannel_pushSeq (s : State) (c : Nat) (v : Channel) : (s.setChannel c v).pushSeq = s.pushSeq := rfl
@[simp] theorem State.setChannel_jobs (s : State) (c : Nat) (v : Channel) : (s.setChannel c v).jobs = s.jobs := rfl
@[simp] theorem State.setChannel_gangs (s : State) (c : Nat) (v : Channel) : (s.setChannel c v).gangs = s.gangs := rfl
@[simp] theorem State.setChannel_slotres (s : State) (c : Nat) (v : Channel) : (s.setChannel c v).slotres = s.slotres := rfl
@[simp] theorem State.setChannel_noteJob (s : State) (c : Nat) (v : Channel) : (s.setChannel c v).noteJob = s.noteJob := rfl
@[simp] theorem State.setChannel_noteWl (s : State) (c : Nat) (v : Channel) : (s.setChannel c v).noteWl = s.noteWl := rfl
@[simp] theorem State.setChannel_noteEn (s : State) (c : Nat) (v : Channel) : (s.setChannel c v).noteEn = s.noteEn := rfl
@[simp] theorem State.setChannel_asroot (s : State) (c : Nat) (v : Channel) : (s.setChannel c v).asroot = s.asroot := rfl
@[simp] theorem State.setChannel_copies (s : State) (c : Nat) (v : Channel) : (s.setChannel c v).copies = s.copies := rfl
@[simp] theorem State.setChannel_podTout (s : State) (c : Nat) (v : Channel) : (s.setChannel c v).podTout = s.podTout := rfl
@[simp] theorem State.setChannel_modNum (s : State) (c : Nat) (v : Channel) : (s.setChannel c v).modNum = s.modNum := rfl
@[simp] theorem State.setChannel_pod (s : State) (c : Nat) (v : Channel) : (s.setChannel c v).pod = s.pod := rfl
@[simp] theorem State.setChannel_shadowOut (s : State) (c : Nat) (v : Channel) : (s.setChannel c v).shadowOut = s.shadowOut := rfl
@[simp] theorem State.setChannel_flushAsked (s : State) (c : Nat) (v : Channel) : (s.setChannel c v).flushAsked = s.flushAsked := rfl
@[simp] theorem State.setChannel_flushOut (s : State) (c : Nat) (v : Channel) : (s.setChannel c v).flushOut = s.flushOut := rfl
@[simp] theorem State.setChannel_status (s : State) (c : Nat) (v : Channel) : (s.setChannel c v).status = s.status := rfl
@[simp] theorem State.setChannel_ready (s : State) (c : Nat) (v : Channel) : (s.setChannel c v).ready = s.ready := rfl
@[simp] theorem State.setChannel_booterr (s : State) (c : Nat) (v : Channel) : (s.setChannel c v).booterr = s.booterr := rfl
@[simp] theorem State.setChannel_snap (s : State) (c : Nat) (v : Channel) : (s.setChannel c v).snap = s.snap := rfl
@[simp] theorem State.setChannel_snapLost (s : State) (c : Nat) (v : Channel) : (s.setChannel c v).snapLost = s.snapLost := rfl
@[simp] theorem State.setChannel_snapAt (s : State) (c : Nat) (v : Channel) : (s.setChannel c v).snapAt = s.snapAt := rfl
@[simp] theorem State.setChannel_topleft (s : State) (c : Nat) (v : Channel) : (s.setChannel c v).topleft = s.topleft := rfl
@[simp] theorem State.setChannel_mbxGo (s : State) (c : Nat) (v : Channel) : (s.setChannel c v).mbxGo = s.mbxGo := rfl
@[simp] theorem State.setChannel_mbxDone (s : State) (c : Nat) (v : Channel) : (s.setChannel c v).mbxDone = s.mbxDone := rfl
@[simp] theorem State.setChannel_hostId (s : State) (c : Nat) (v : Channel) : (s.setChannel c v).hostId = s.hostId := rfl
@[simp] theorem State.setChannel_hostRead (s : State) (c : Nat) (v : Channel) : (s.setChannel c v).hostRead = s.hostRead := rfl
@[simp] theorem State.setChannel_hostPoison (s : State) (c : Nat) (v : Channel) : (s.setChannel c v).hostPoison = s.hostPoison := rfl
@[simp] theorem State.setChannel_fusedMin (s : State) (c : Nat) (v : Channel) : (s.setChannel c v).fusedMin = s.fusedMin := rfl
@[simp] theorem State.setChannel_fwVersion (s : State) (c : Nat) (v : Channel) : (s.setChannel c v).fwVersion = s.fwVersion := rfl
@[simp] theorem State.setChannel_lowerLeft (s : State) (c : Nat) (v : Channel) : (s.setChannel c v).lowerLeft = s.lowerLeft := rfl
@[simp] theorem State.setChannel_images (s : State) (c : Nat) (v : Channel) : (s.setChannel c v).images = s.images := rfl
@[simp] theorem State.setChannel_loaded (s : State) (c : Nat) (v : Channel) : (s.setChannel c v).loaded = s.loaded := rfl
@[simp] theorem State.setChannel_boot (s : State) (c : Nat) (v : Channel) : (s.setChannel c v).boot = s.boot := rfl
@[simp] theorem State.setChannel_rings (s : State) (c : Nat) (v : Channel) : (s.setChannel c v).rings = s.rings := rfl
@[simp] theorem State.setChannel_mhl (s : State) (c : Nat) (v : Channel) : (s.setChannel c v).mhl = s.mhl := rfl
@[simp] theorem State.setChannel_mhlTried (s : State) (c : Nat) (v : Channel) : (s.setChannel c v).mhlTried = s.mhlTried := rfl
@[simp] theorem State.setChannel_booting (s : State) (c : Nat) (v : Channel) : (s.setChannel c v).booting = s.booting := rfl
@[simp] theorem State.setChannel_excessSince (s : State) (c : Nat) (v : Channel) : (s.setChannel c v).excessSince = s.excessSince := rfl
@[simp] theorem State.setChannel_powerSkip (s : State) (c : Nat) (v : Channel) : (s.setChannel c v).powerSkip = s.powerSkip := rfl
@[simp] theorem State.setChannel_stopped (s : State) (c : Nat) (v : Channel) : (s.setChannel c v).stopped = s.stopped := rfl

/-! ### State.setLink -/

@[simp] theorem State.setLink_cur (s : State) (n : Nat) (v : LinkState) : (s.setLink n v).cur = s.cur := rfl
@[simp] theorem State.setLink_agenda (s : State) (n : Nat) (v : LinkState) : (s.setLink n v).agenda = s.agenda := rfl
@[simp] theorem State.setLink_devTurn (s : State) (n : Nat) (v : LinkState) : (s.setLink n v).devTurn = s.devTurn := rfl
@[simp] theorem State.setLink_turnNo (s : State) (n : Nat) (v : LinkState) : (s.setLink n v).turnNo = s.turnNo := rfl
@[simp] theorem State.setLink_fresh (s : State) (n : Nat) (v : LinkState) : (s.setLink n v).fresh = s.fresh := rfl
@[simp] theorem State.setLink_nextUid (s : State) (n : Nat) (v : LinkState) : (s.setLink n v).nextUid = s.nextUid := rfl
@[simp] theorem State.setLink_todo (s : State) (n : Nat) (v : LinkState) : (s.setLink n v).todo = s.todo := rfl
@[simp] theorem State.setLink_now (s : State) (n : Nat) (v : LinkState) : (s.setLink n v).now = s.now := rfl
@[simp] theorem State.setLink_issueFrom (s : State) (n : Nat) (v : LinkState) : (s.setLink n v).issueFrom = s.issueFrom := rfl
@[simp] theorem State.setLink_mem (s : State) (n : Nat) (v : LinkState) : (s.setLink n v).mem = s.mem := rfl
@[simp] theorem State.setLink_emptyWords (s : State) (n : Nat) (v : LinkState) : (s.setLink n v).emptyWords = s.emptyWords := rfl
@[simp] theorem State.setLink_poisoned (s : State) (n : Nat) (v : LinkState) : (s.setLink n v).poisoned = s.poisoned := rfl
@[simp] theorem State.setLink_notReady (s : State) (n : Nat) (v : LinkState) : (s.setLink n v).notReady = s.notReady := rfl
@[simp] theorem State.setLink_stores (s : State) (n : Nat) (v : LinkState) : (s.setLink n v).stores = s.stores := rfl
@[simp] theorem State.setLink_seen (s : State) (n : Nat) (v : LinkState) : (s.setLink n v).seen = s.seen := rfl
@[simp] theorem State.setLink_arrived (s : State) (n : Nat) (v : LinkState) : (s.setLink n v).arrived = s.arrived := rfl
@[simp] theorem State.setLink_slots (s : State) (n : Nat) (v : LinkState) : (s.setLink n v).slots = s.slots := rfl
@[simp] theorem State.setLink_cores (s : State) (n : Nat) (v : LinkState) : (s.setLink n v).cores = s.cores := rfl
@[simp] theorem State.setLink_dies (s : State) (n : Nat) (v : LinkState) : (s.setLink n v).dies = s.dies := rfl
@[simp] theorem State.setLink_ios (s : State) (n : Nat) (v : LinkState) : (s.setLink n v).ios = s.ios := rfl
@[simp] theorem State.setLink_channels (s : State) (n : Nat) (v : LinkState) : (s.setLink n v).channels = s.channels := rfl
@[simp] theorem State.setLink_frames (s : State) (n : Nat) (v : LinkState) : (s.setLink n v).frames = s.frames := rfl
@[simp] theorem State.setLink_carried (s : State) (n : Nat) (v : LinkState) : (s.setLink n v).carried = s.carried := rfl
@[simp] theorem State.setLink_inbound (s : State) (n : Nat) (v : LinkState) : (s.setLink n v).inbound = s.inbound := rfl
@[simp] theorem State.setLink_spareWires (s : State) (n : Nat) (v : LinkState) : (s.setLink n v).spareWires = s.spareWires := rfl
@[simp] theorem State.setLink_inService (s : State) (n : Nat) (v : LinkState) : (s.setLink n v).inService = s.inService := rfl
@[simp] theorem State.setLink_decoders (s : State) (n : Nat) (v : LinkState) : (s.setLink n v).decoders = s.decoders := rfl
@[simp] theorem State.setLink_badTransfers (s : State) (n : Nat) (v : LinkState) : (s.setLink n v).badTransfers = s.badTransfers := rfl
@[simp] theorem State.setLink_badReads (s : State) (n : Nat) (v : LinkState) : (s.setLink n v).badReads = s.badReads := rfl
@[simp] theorem State.setLink_worklists (s : State) (n : Nat) (v : LinkState) : (s.setLink n v).worklists = s.worklists := rfl
@[simp] theorem State.setLink_sluices (s : State) (n : Nat) (v : LinkState) : (s.setLink n v).sluices = s.sluices := rfl
@[simp] theorem State.setLink_pushSeq (s : State) (n : Nat) (v : LinkState) : (s.setLink n v).pushSeq = s.pushSeq := rfl
@[simp] theorem State.setLink_jobs (s : State) (n : Nat) (v : LinkState) : (s.setLink n v).jobs = s.jobs := rfl
@[simp] theorem State.setLink_gangs (s : State) (n : Nat) (v : LinkState) : (s.setLink n v).gangs = s.gangs := rfl
@[simp] theorem State.setLink_slotres (s : State) (n : Nat) (v : LinkState) : (s.setLink n v).slotres = s.slotres := rfl
@[simp] theorem State.setLink_noteJob (s : State) (n : Nat) (v : LinkState) : (s.setLink n v).noteJob = s.noteJob := rfl
@[simp] theorem State.setLink_noteWl (s : State) (n : Nat) (v : LinkState) : (s.setLink n v).noteWl = s.noteWl := rfl
@[simp] theorem State.setLink_noteEn (s : State) (n : Nat) (v : LinkState) : (s.setLink n v).noteEn = s.noteEn := rfl
@[simp] theorem State.setLink_asroot (s : State) (n : Nat) (v : LinkState) : (s.setLink n v).asroot = s.asroot := rfl
@[simp] theorem State.setLink_copies (s : State) (n : Nat) (v : LinkState) : (s.setLink n v).copies = s.copies := rfl
@[simp] theorem State.setLink_podTout (s : State) (n : Nat) (v : LinkState) : (s.setLink n v).podTout = s.podTout := rfl
@[simp] theorem State.setLink_modNum (s : State) (n : Nat) (v : LinkState) : (s.setLink n v).modNum = s.modNum := rfl
@[simp] theorem State.setLink_pod (s : State) (n : Nat) (v : LinkState) : (s.setLink n v).pod = s.pod := rfl
@[simp] theorem State.setLink_shadowOut (s : State) (n : Nat) (v : LinkState) : (s.setLink n v).shadowOut = s.shadowOut := rfl
@[simp] theorem State.setLink_flushAsked (s : State) (n : Nat) (v : LinkState) : (s.setLink n v).flushAsked = s.flushAsked := rfl
@[simp] theorem State.setLink_flushOut (s : State) (n : Nat) (v : LinkState) : (s.setLink n v).flushOut = s.flushOut := rfl
@[simp] theorem State.setLink_status (s : State) (n : Nat) (v : LinkState) : (s.setLink n v).status = s.status := rfl
@[simp] theorem State.setLink_ready (s : State) (n : Nat) (v : LinkState) : (s.setLink n v).ready = s.ready := rfl
@[simp] theorem State.setLink_booterr (s : State) (n : Nat) (v : LinkState) : (s.setLink n v).booterr = s.booterr := rfl
@[simp] theorem State.setLink_snap (s : State) (n : Nat) (v : LinkState) : (s.setLink n v).snap = s.snap := rfl
@[simp] theorem State.setLink_snapLost (s : State) (n : Nat) (v : LinkState) : (s.setLink n v).snapLost = s.snapLost := rfl
@[simp] theorem State.setLink_snapAt (s : State) (n : Nat) (v : LinkState) : (s.setLink n v).snapAt = s.snapAt := rfl
@[simp] theorem State.setLink_topleft (s : State) (n : Nat) (v : LinkState) : (s.setLink n v).topleft = s.topleft := rfl
@[simp] theorem State.setLink_mbxGo (s : State) (n : Nat) (v : LinkState) : (s.setLink n v).mbxGo = s.mbxGo := rfl
@[simp] theorem State.setLink_mbxDone (s : State) (n : Nat) (v : LinkState) : (s.setLink n v).mbxDone = s.mbxDone := rfl
@[simp] theorem State.setLink_hostId (s : State) (n : Nat) (v : LinkState) : (s.setLink n v).hostId = s.hostId := rfl
@[simp] theorem State.setLink_hostRead (s : State) (n : Nat) (v : LinkState) : (s.setLink n v).hostRead = s.hostRead := rfl
@[simp] theorem State.setLink_hostPoison (s : State) (n : Nat) (v : LinkState) : (s.setLink n v).hostPoison = s.hostPoison := rfl
@[simp] theorem State.setLink_fusedMin (s : State) (n : Nat) (v : LinkState) : (s.setLink n v).fusedMin = s.fusedMin := rfl
@[simp] theorem State.setLink_fwVersion (s : State) (n : Nat) (v : LinkState) : (s.setLink n v).fwVersion = s.fwVersion := rfl
@[simp] theorem State.setLink_lowerLeft (s : State) (n : Nat) (v : LinkState) : (s.setLink n v).lowerLeft = s.lowerLeft := rfl
@[simp] theorem State.setLink_images (s : State) (n : Nat) (v : LinkState) : (s.setLink n v).images = s.images := rfl
@[simp] theorem State.setLink_loaded (s : State) (n : Nat) (v : LinkState) : (s.setLink n v).loaded = s.loaded := rfl
@[simp] theorem State.setLink_boot (s : State) (n : Nat) (v : LinkState) : (s.setLink n v).boot = s.boot := rfl
@[simp] theorem State.setLink_rings (s : State) (n : Nat) (v : LinkState) : (s.setLink n v).rings = s.rings := rfl
@[simp] theorem State.setLink_mhl (s : State) (n : Nat) (v : LinkState) : (s.setLink n v).mhl = s.mhl := rfl
@[simp] theorem State.setLink_mhlTried (s : State) (n : Nat) (v : LinkState) : (s.setLink n v).mhlTried = s.mhlTried := rfl
@[simp] theorem State.setLink_booting (s : State) (n : Nat) (v : LinkState) : (s.setLink n v).booting = s.booting := rfl
@[simp] theorem State.setLink_excessSince (s : State) (n : Nat) (v : LinkState) : (s.setLink n v).excessSince = s.excessSince := rfl
@[simp] theorem State.setLink_powerSkip (s : State) (n : Nat) (v : LinkState) : (s.setLink n v).powerSkip = s.powerSkip := rfl
@[simp] theorem State.setLink_stopped (s : State) (n : Nat) (v : LinkState) : (s.setLink n v).stopped = s.stopped := rfl

/-! ### State.setSluice -/

@[simp] theorem State.setSluice_cur (s : State) (w : Nat) (v : Sluice) : (s.setSluice w v).cur = s.cur := rfl
@[simp] theorem State.setSluice_agenda (s : State) (w : Nat) (v : Sluice) : (s.setSluice w v).agenda = s.agenda := rfl
@[simp] theorem State.setSluice_devTurn (s : State) (w : Nat) (v : Sluice) : (s.setSluice w v).devTurn = s.devTurn := rfl
@[simp] theorem State.setSluice_turnNo (s : State) (w : Nat) (v : Sluice) : (s.setSluice w v).turnNo = s.turnNo := rfl
@[simp] theorem State.setSluice_fresh (s : State) (w : Nat) (v : Sluice) : (s.setSluice w v).fresh = s.fresh := rfl
@[simp] theorem State.setSluice_nextUid (s : State) (w : Nat) (v : Sluice) : (s.setSluice w v).nextUid = s.nextUid := rfl
@[simp] theorem State.setSluice_todo (s : State) (w : Nat) (v : Sluice) : (s.setSluice w v).todo = s.todo := rfl
@[simp] theorem State.setSluice_now (s : State) (w : Nat) (v : Sluice) : (s.setSluice w v).now = s.now := rfl
@[simp] theorem State.setSluice_issueFrom (s : State) (w : Nat) (v : Sluice) : (s.setSluice w v).issueFrom = s.issueFrom := rfl
@[simp] theorem State.setSluice_mem (s : State) (w : Nat) (v : Sluice) : (s.setSluice w v).mem = s.mem := rfl
@[simp] theorem State.setSluice_emptyWords (s : State) (w : Nat) (v : Sluice) : (s.setSluice w v).emptyWords = s.emptyWords := rfl
@[simp] theorem State.setSluice_poisoned (s : State) (w : Nat) (v : Sluice) : (s.setSluice w v).poisoned = s.poisoned := rfl
@[simp] theorem State.setSluice_notReady (s : State) (w : Nat) (v : Sluice) : (s.setSluice w v).notReady = s.notReady := rfl
@[simp] theorem State.setSluice_stores (s : State) (w : Nat) (v : Sluice) : (s.setSluice w v).stores = s.stores := rfl
@[simp] theorem State.setSluice_seen (s : State) (w : Nat) (v : Sluice) : (s.setSluice w v).seen = s.seen := rfl
@[simp] theorem State.setSluice_arrived (s : State) (w : Nat) (v : Sluice) : (s.setSluice w v).arrived = s.arrived := rfl
@[simp] theorem State.setSluice_slots (s : State) (w : Nat) (v : Sluice) : (s.setSluice w v).slots = s.slots := rfl
@[simp] theorem State.setSluice_cores (s : State) (w : Nat) (v : Sluice) : (s.setSluice w v).cores = s.cores := rfl
@[simp] theorem State.setSluice_dies (s : State) (w : Nat) (v : Sluice) : (s.setSluice w v).dies = s.dies := rfl
@[simp] theorem State.setSluice_ios (s : State) (w : Nat) (v : Sluice) : (s.setSluice w v).ios = s.ios := rfl
@[simp] theorem State.setSluice_channels (s : State) (w : Nat) (v : Sluice) : (s.setSluice w v).channels = s.channels := rfl
@[simp] theorem State.setSluice_frames (s : State) (w : Nat) (v : Sluice) : (s.setSluice w v).frames = s.frames := rfl
@[simp] theorem State.setSluice_links (s : State) (w : Nat) (v : Sluice) : (s.setSluice w v).links = s.links := rfl
@[simp] theorem State.setSluice_carried (s : State) (w : Nat) (v : Sluice) : (s.setSluice w v).carried = s.carried := rfl
@[simp] theorem State.setSluice_inbound (s : State) (w : Nat) (v : Sluice) : (s.setSluice w v).inbound = s.inbound := rfl
@[simp] theorem State.setSluice_spareWires (s : State) (w : Nat) (v : Sluice) : (s.setSluice w v).spareWires = s.spareWires := rfl
@[simp] theorem State.setSluice_inService (s : State) (w : Nat) (v : Sluice) : (s.setSluice w v).inService = s.inService := rfl
@[simp] theorem State.setSluice_decoders (s : State) (w : Nat) (v : Sluice) : (s.setSluice w v).decoders = s.decoders := rfl
@[simp] theorem State.setSluice_badTransfers (s : State) (w : Nat) (v : Sluice) : (s.setSluice w v).badTransfers = s.badTransfers := rfl
@[simp] theorem State.setSluice_badReads (s : State) (w : Nat) (v : Sluice) : (s.setSluice w v).badReads = s.badReads := rfl
@[simp] theorem State.setSluice_worklists (s : State) (w : Nat) (v : Sluice) : (s.setSluice w v).worklists = s.worklists := rfl
@[simp] theorem State.setSluice_pushSeq (s : State) (w : Nat) (v : Sluice) : (s.setSluice w v).pushSeq = s.pushSeq := rfl
@[simp] theorem State.setSluice_jobs (s : State) (w : Nat) (v : Sluice) : (s.setSluice w v).jobs = s.jobs := rfl
@[simp] theorem State.setSluice_gangs (s : State) (w : Nat) (v : Sluice) : (s.setSluice w v).gangs = s.gangs := rfl
@[simp] theorem State.setSluice_slotres (s : State) (w : Nat) (v : Sluice) : (s.setSluice w v).slotres = s.slotres := rfl
@[simp] theorem State.setSluice_noteJob (s : State) (w : Nat) (v : Sluice) : (s.setSluice w v).noteJob = s.noteJob := rfl
@[simp] theorem State.setSluice_noteWl (s : State) (w : Nat) (v : Sluice) : (s.setSluice w v).noteWl = s.noteWl := rfl
@[simp] theorem State.setSluice_noteEn (s : State) (w : Nat) (v : Sluice) : (s.setSluice w v).noteEn = s.noteEn := rfl
@[simp] theorem State.setSluice_asroot (s : State) (w : Nat) (v : Sluice) : (s.setSluice w v).asroot = s.asroot := rfl
@[simp] theorem State.setSluice_copies (s : State) (w : Nat) (v : Sluice) : (s.setSluice w v).copies = s.copies := rfl
@[simp] theorem State.setSluice_podTout (s : State) (w : Nat) (v : Sluice) : (s.setSluice w v).podTout = s.podTout := rfl
@[simp] theorem State.setSluice_modNum (s : State) (w : Nat) (v : Sluice) : (s.setSluice w v).modNum = s.modNum := rfl
@[simp] theorem State.setSluice_pod (s : State) (w : Nat) (v : Sluice) : (s.setSluice w v).pod = s.pod := rfl
@[simp] theorem State.setSluice_shadowOut (s : State) (w : Nat) (v : Sluice) : (s.setSluice w v).shadowOut = s.shadowOut := rfl
@[simp] theorem State.setSluice_flushAsked (s : State) (w : Nat) (v : Sluice) : (s.setSluice w v).flushAsked = s.flushAsked := rfl
@[simp] theorem State.setSluice_flushOut (s : State) (w : Nat) (v : Sluice) : (s.setSluice w v).flushOut = s.flushOut := rfl
@[simp] theorem State.setSluice_status (s : State) (w : Nat) (v : Sluice) : (s.setSluice w v).status = s.status := rfl
@[simp] theorem State.setSluice_ready (s : State) (w : Nat) (v : Sluice) : (s.setSluice w v).ready = s.ready := rfl
@[simp] theorem State.setSluice_booterr (s : State) (w : Nat) (v : Sluice) : (s.setSluice w v).booterr = s.booterr := rfl
@[simp] theorem State.setSluice_snap (s : State) (w : Nat) (v : Sluice) : (s.setSluice w v).snap = s.snap := rfl
@[simp] theorem State.setSluice_snapLost (s : State) (w : Nat) (v : Sluice) : (s.setSluice w v).snapLost = s.snapLost := rfl
@[simp] theorem State.setSluice_snapAt (s : State) (w : Nat) (v : Sluice) : (s.setSluice w v).snapAt = s.snapAt := rfl
@[simp] theorem State.setSluice_topleft (s : State) (w : Nat) (v : Sluice) : (s.setSluice w v).topleft = s.topleft := rfl
@[simp] theorem State.setSluice_mbxGo (s : State) (w : Nat) (v : Sluice) : (s.setSluice w v).mbxGo = s.mbxGo := rfl
@[simp] theorem State.setSluice_mbxDone (s : State) (w : Nat) (v : Sluice) : (s.setSluice w v).mbxDone = s.mbxDone := rfl
@[simp] theorem State.setSluice_hostId (s : State) (w : Nat) (v : Sluice) : (s.setSluice w v).hostId = s.hostId := rfl
@[simp] theorem State.setSluice_hostRead (s : State) (w : Nat) (v : Sluice) : (s.setSluice w v).hostRead = s.hostRead := rfl
@[simp] theorem State.setSluice_hostPoison (s : State) (w : Nat) (v : Sluice) : (s.setSluice w v).hostPoison = s.hostPoison := rfl
@[simp] theorem State.setSluice_fusedMin (s : State) (w : Nat) (v : Sluice) : (s.setSluice w v).fusedMin = s.fusedMin := rfl
@[simp] theorem State.setSluice_fwVersion (s : State) (w : Nat) (v : Sluice) : (s.setSluice w v).fwVersion = s.fwVersion := rfl
@[simp] theorem State.setSluice_lowerLeft (s : State) (w : Nat) (v : Sluice) : (s.setSluice w v).lowerLeft = s.lowerLeft := rfl
@[simp] theorem State.setSluice_images (s : State) (w : Nat) (v : Sluice) : (s.setSluice w v).images = s.images := rfl
@[simp] theorem State.setSluice_loaded (s : State) (w : Nat) (v : Sluice) : (s.setSluice w v).loaded = s.loaded := rfl
@[simp] theorem State.setSluice_boot (s : State) (w : Nat) (v : Sluice) : (s.setSluice w v).boot = s.boot := rfl
@[simp] theorem State.setSluice_rings (s : State) (w : Nat) (v : Sluice) : (s.setSluice w v).rings = s.rings := rfl
@[simp] theorem State.setSluice_mhl (s : State) (w : Nat) (v : Sluice) : (s.setSluice w v).mhl = s.mhl := rfl
@[simp] theorem State.setSluice_mhlTried (s : State) (w : Nat) (v : Sluice) : (s.setSluice w v).mhlTried = s.mhlTried := rfl
@[simp] theorem State.setSluice_booting (s : State) (w : Nat) (v : Sluice) : (s.setSluice w v).booting = s.booting := rfl
@[simp] theorem State.setSluice_excessSince (s : State) (w : Nat) (v : Sluice) : (s.setSluice w v).excessSince = s.excessSince := rfl
@[simp] theorem State.setSluice_powerSkip (s : State) (w : Nat) (v : Sluice) : (s.setSluice w v).powerSkip = s.powerSkip := rfl
@[simp] theorem State.setSluice_stopped (s : State) (w : Nat) (v : Sluice) : (s.setSluice w v).stopped = s.stopped := rfl

/-! ### Thread.advance -/

@[simp] theorem Thread.advance_uid (t : Thread) : (t.advance).uid = t.uid := rfl
@[simp] theorem Thread.advance_g (t : Thread) : (t.advance).g = t.g := rfl
@[simp] theorem Thread.advance_gFull (t : Thread) : (t.advance).gFull = t.gFull := rfl
@[simp] theorem Thread.advance_v (t : Thread) : (t.advance).v = t.v := rfl
@[simp] theorem Thread.advance_vFull (t : Thread) : (t.advance).vFull = t.vFull := rfl
@[simp] theorem Thread.advance_m1 (t : Thread) : (t.advance).m1 = t.m1 := rfl
@[simp] theorem Thread.advance_m2 (t : Thread) : (t.advance).m2 = t.m2 := rfl
@[simp] theorem Thread.advance_m3 (t : Thread) : (t.advance).m3 = t.m3 := rfl
@[simp] theorem Thread.advance_acc (t : Thread) : (t.advance).acc = t.acc := rfl
@[simp] theorem Thread.advance_rnd (t : Thread) : (t.advance).rnd = t.rnd := rfl
@[simp] theorem Thread.advance_fpst (t : Thread) : (t.advance).fpst = t.fpst := rfl
@[simp] theorem Thread.advance_wab (t : Thread) : (t.advance).wab = t.wab := rfl
@[simp] theorem Thread.advance_slpreq (t : Thread) : (t.advance).slpreq = t.slpreq := rfl
@[simp] theorem Thread.advance_port (t : Thread) : (t.advance).port = t.port := rfl
@[simp] theorem Thread.advance_sv (t : Thread) : (t.advance).sv = t.sv := rfl
@[simp] theorem Thread.advance_psv (t : Thread) : (t.advance).psv = t.psv := rfl
@[simp] theorem Thread.advance_hnd (t : Thread) : (t.advance).hnd = t.hnd := rfl
@[simp] theorem Thread.advance_pair (t : Thread) : (t.advance).pair = t.pair := rfl
@[simp] theorem Thread.advance_epc (t : Thread) : (t.advance).epc = t.epc := rfl
@[simp] theorem Thread.advance_trapc (t : Thread) : (t.advance).trapc = t.trapc := rfl
@[simp] theorem Thread.advance_trapv (t : Thread) : (t.advance).trapv = t.trapv := rfl
@[simp] theorem Thread.advance_job (t : Thread) : (t.advance).job = t.job := rfl
@[simp] theorem Thread.advance_gang (t : Thread) : (t.advance).gang = t.gang := rfl
@[simp] theorem Thread.advance_index (t : Thread) : (t.advance).index = t.index := rfl
@[simp] theorem Thread.advance_tid (t : Thread) : (t.advance).tid = t.tid := rfl
@[simp] theorem Thread.advance_asid (t : Thread) : (t.advance).asid = t.asid := rfl
@[simp] theorem Thread.advance_rgnSize (t : Thread) : (t.advance).rgnSize = t.rgnSize := rfl
@[simp] theorem Thread.advance_rgnBase (t : Thread) : (t.advance).rgnBase = t.rgnBase := rfl
@[simp] theorem Thread.advance_rtryTotal (t : Thread) : (t.advance).rtryTotal = t.rtryTotal := rfl
@[simp] theorem Thread.advance_levels (t : Thread) : (t.advance).levels = t.levels := rfl
@[simp] theorem Thread.advance_fill (t : Thread) : (t.advance).fill = t.fill := rfl
@[simp] theorem Thread.advance_ranges (t : Thread) : (t.advance).ranges = t.ranges := rfl
@[simp] theorem Thread.advance_undo (t : Thread) : (t.advance).undo = t.undo := rfl
@[simp] theorem Thread.advance_committed (t : Thread) : (t.advance).committed = t.committed := rfl
@[simp] theorem Thread.advance_closing (t : Thread) : (t.advance).closing = t.closing := rfl
@[simp] theorem Thread.advance_fetchBuf (t : Thread) : (t.advance).fetchBuf = t.fetchBuf := rfl
@[simp] theorem Thread.advance_park (t : Thread) : (t.advance).park = t.park := rfl
@[simp] theorem Thread.advance_owed (t : Thread) : (t.advance).owed = t.owed := rfl
@[simp] theorem Thread.advance_late (t : Thread) : (t.advance).late = t.late := rfl
@[simp] theorem Thread.advance_stopping (t : Thread) : (t.advance).stopping = t.stopping := rfl
@[simp] theorem Thread.advance_again (t : Thread) : (t.advance).again = t.again := rfl
@[simp] theorem Thread.advance_halted (t : Thread) : (t.advance).halted = t.halted := rfl
@[simp] theorem Thread.advance_departed (t : Thread) : (t.advance).departed = t.departed := rfl
@[simp] theorem Thread.advance_lastIssue (t : Thread) : (t.advance).lastIssue = t.lastIssue := rfl
@[simp] theorem Thread.advance_readyAt (t : Thread) : (t.advance).readyAt = t.readyAt := rfl
@[simp] theorem Thread.advance_yieldTo (t : Thread) : (t.advance).yieldTo = t.yieldTo := rfl
@[simp] theorem Thread.advance_yieldEnd (t : Thread) : (t.advance).yieldEnd = t.yieldEnd := rfl
@[simp] theorem Thread.advance_skipPhase (t : Thread) : (t.advance).skipPhase = t.skipPhase := rfl
@[simp] theorem Thread.advance_spoiled (t : Thread) : (t.advance).spoiled = t.spoiled := rfl
@[simp] theorem Thread.advance_badG (t : Thread) : (t.advance).badG = t.badG := rfl
@[simp] theorem Thread.advance_badV (t : Thread) : (t.advance).badV = t.badV := rfl
@[simp] theorem Thread.advance_trail (t : Thread) : (t.advance).trail = t.trail := rfl
@[simp] theorem Thread.advance_issued (t : Thread) : (t.advance).issued = t.issued := rfl
@[simp] theorem Thread.advance_filled (t : Thread) : (t.advance).filled = t.filled := rfl
@[simp] theorem Thread.advance_residentFrom (t : Thread) : (t.advance).residentFrom = t.residentFrom := rfl
@[simp] theorem Thread.advance_residentSum (t : Thread) : (t.advance).residentSum = t.residentSum := rfl

/-! ### Thread.setV -/

@[simp] theorem Thread.setV_uid (t : Thread) (d : Nat) (w : VWord) : (t.setV d w).uid = t.uid := rfl
@[simp] theorem Thread.setV_g (t : Thread) (d : Nat) (w : VWord) : (t.setV d w).g = t.g := rfl
@[simp] theorem Thread.setV_gFull (t : Thread) (d : Nat) (w : VWord) : (t.setV d w).gFull = t.gFull := rfl
@[simp] theorem Thread.setV_m1 (t : Thread) (d : Nat) (w : VWord) : (t.setV d w).m1 = t.m1 := rfl
@[simp] theorem Thread.setV_m2 (t : Thread) (d : Nat) (w : VWord) : (t.setV d w).m2 = t.m2 := rfl
@[simp] theorem Thread.setV_m3 (t : Thread) (d : Nat) (w : VWord) : (t.setV d w).m3 = t.m3 := rfl
@[simp] theorem Thread.setV_acc (t : Thread) (d : Nat) (w : VWord) : (t.setV d w).acc = t.acc := rfl
@[simp] theorem Thread.setV_pc (t : Thread) (d : Nat) (w : VWord) : (t.setV d w).pc = t.pc := rfl
@[simp] theorem Thread.setV_rnd (t : Thread) (d : Nat) (w : VWord) : (t.setV d w).rnd = t.rnd := rfl
@[simp] theorem Thread.setV_fpst (t : Thread) (d : Nat) (w : VWord) : (t.setV d w).fpst = t.fpst := rfl
@[simp] theorem Thread.setV_wab (t : Thread) (d : Nat) (w : VWord) : (t.setV d w).wab = t.wab := rfl
@[simp] theorem Thread.setV_slpreq (t : Thread) (d : Nat) (w : VWord) : (t.setV d w).slpreq = t.slpreq := rfl
@[simp] theorem Thread.setV_port (t : Thread) (d : Nat) (w : VWord) : (t.setV d w).port = t.port := rfl
@[simp] theorem Thread.setV_sv (t : Thread) (d : Nat) (w : VWord) : (t.setV d w).sv = t.sv := rfl
@[simp] theorem Thread.setV_psv (t : Thread) (d : Nat) (w : VWord) : (t.setV d w).psv = t.psv := rfl
@[simp] theorem Thread.setV_hnd (t : Thread) (d : Nat) (w : VWord) : (t.setV d w).hnd = t.hnd := rfl
@[simp] theorem Thread.setV_pair (t : Thread) (d : Nat) (w : VWord) : (t.setV d w).pair = t.pair := rfl
@[simp] theorem Thread.setV_epc (t : Thread) (d : Nat) (w : VWord) : (t.setV d w).epc = t.epc := rfl
@[simp] theorem Thread.setV_trapc (t : Thread) (d : Nat) (w : VWord) : (t.setV d w).trapc = t.trapc := rfl
@[simp] theorem Thread.setV_trapv (t : Thread) (d : Nat) (w : VWord) : (t.setV d w).trapv = t.trapv := rfl
@[simp] theorem Thread.setV_job (t : Thread) (d : Nat) (w : VWord) : (t.setV d w).job = t.job := rfl
@[simp] theorem Thread.setV_gang (t : Thread) (d : Nat) (w : VWord) : (t.setV d w).gang = t.gang := rfl
@[simp] theorem Thread.setV_index (t : Thread) (d : Nat) (w : VWord) : (t.setV d w).index = t.index := rfl
@[simp] theorem Thread.setV_tid (t : Thread) (d : Nat) (w : VWord) : (t.setV d w).tid = t.tid := rfl
@[simp] theorem Thread.setV_asid (t : Thread) (d : Nat) (w : VWord) : (t.setV d w).asid = t.asid := rfl
@[simp] theorem Thread.setV_rgnSize (t : Thread) (d : Nat) (w : VWord) : (t.setV d w).rgnSize = t.rgnSize := rfl
@[simp] theorem Thread.setV_rgnBase (t : Thread) (d : Nat) (w : VWord) : (t.setV d w).rgnBase = t.rgnBase := rfl
@[simp] theorem Thread.setV_rtryTotal (t : Thread) (d : Nat) (w : VWord) : (t.setV d w).rtryTotal = t.rtryTotal := rfl
@[simp] theorem Thread.setV_levels (t : Thread) (d : Nat) (w : VWord) : (t.setV d w).levels = t.levels := rfl
@[simp] theorem Thread.setV_fill (t : Thread) (d : Nat) (w : VWord) : (t.setV d w).fill = t.fill := rfl
@[simp] theorem Thread.setV_ranges (t : Thread) (d : Nat) (w : VWord) : (t.setV d w).ranges = t.ranges := rfl
@[simp] theorem Thread.setV_undo (t : Thread) (d : Nat) (w : VWord) : (t.setV d w).undo = t.undo := rfl
@[simp] theorem Thread.setV_committed (t : Thread) (d : Nat) (w : VWord) : (t.setV d w).committed = t.committed := rfl
@[simp] theorem Thread.setV_closing (t : Thread) (d : Nat) (w : VWord) : (t.setV d w).closing = t.closing := rfl
@[simp] theorem Thread.setV_fetchBuf (t : Thread) (d : Nat) (w : VWord) : (t.setV d w).fetchBuf = t.fetchBuf := rfl
@[simp] theorem Thread.setV_hints (t : Thread) (d : Nat) (w : VWord) : (t.setV d w).hints = t.hints := rfl
@[simp] theorem Thread.setV_park (t : Thread) (d : Nat) (w : VWord) : (t.setV d w).park = t.park := rfl
@[simp] theorem Thread.setV_taken (t : Thread) (d : Nat) (w : VWord) : (t.setV d w).taken = t.taken := rfl
@[simp] theorem Thread.setV_counted (t : Thread) (d : Nat) (w : VWord) : (t.setV d w).counted = t.counted := rfl
@[simp] theorem Thread.setV_atIssue (t : Thread) (d : Nat) (w : VWord) : (t.setV d w).atIssue = t.atIssue := rfl
@[simp] theorem Thread.setV_owed (t : Thread) (d : Nat) (w : VWord) : (t.setV d w).owed = t.owed := rfl
@[simp] theorem Thread.setV_late (t : Thread) (d : Nat) (w : VWord) : (t.setV d w).late = t.late := rfl
@[simp] theorem Thread.setV_stopping (t : Thread) (d : Nat) (w : VWord) : (t.setV d w).stopping = t.stopping := rfl
@[simp] theorem Thread.setV_again (t : Thread) (d : Nat) (w : VWord) : (t.setV d w).again = t.again := rfl
@[simp] theorem Thread.setV_halted (t : Thread) (d : Nat) (w : VWord) : (t.setV d w).halted = t.halted := rfl
@[simp] theorem Thread.setV_departed (t : Thread) (d : Nat) (w : VWord) : (t.setV d w).departed = t.departed := rfl
@[simp] theorem Thread.setV_lastIssue (t : Thread) (d : Nat) (w : VWord) : (t.setV d w).lastIssue = t.lastIssue := rfl
@[simp] theorem Thread.setV_readyAt (t : Thread) (d : Nat) (w : VWord) : (t.setV d w).readyAt = t.readyAt := rfl
@[simp] theorem Thread.setV_yieldTo (t : Thread) (d : Nat) (w : VWord) : (t.setV d w).yieldTo = t.yieldTo := rfl
@[simp] theorem Thread.setV_yieldEnd (t : Thread) (d : Nat) (w : VWord) : (t.setV d w).yieldEnd = t.yieldEnd := rfl
@[simp] theorem Thread.setV_skipPhase (t : Thread) (d : Nat) (w : VWord) : (t.setV d w).skipPhase = t.skipPhase := rfl
@[simp] theorem Thread.setV_spoiled (t : Thread) (d : Nat) (w : VWord) : (t.setV d w).spoiled = t.spoiled := rfl
@[simp] theorem Thread.setV_badG (t : Thread) (d : Nat) (w : VWord) : (t.setV d w).badG = t.badG := rfl
@[simp] theorem Thread.setV_trail (t : Thread) (d : Nat) (w : VWord) : (t.setV d w).trail = t.trail := rfl
@[simp] theorem Thread.setV_issued (t : Thread) (d : Nat) (w : VWord) : (t.setV d w).issued = t.issued := rfl
@[simp] theorem Thread.setV_filled (t : Thread) (d : Nat) (w : VWord) : (t.setV d w).filled = t.filled := rfl
@[simp] theorem Thread.setV_residentFrom (t : Thread) (d : Nat) (w : VWord) : (t.setV d w).residentFrom = t.residentFrom := rfl
@[simp] theorem Thread.setV_residentSum (t : Thread) (d : Nat) (w : VWord) : (t.setV d w).residentSum = t.residentSum := rfl

/-! ### Thread.setAcc -/

@[simp] theorem Thread.setAcc_uid (t : Thread) (n : Nat) (a : Acc) : (t.setAcc n a).uid = t.uid := rfl
@[simp] theorem Thread.setAcc_g (t : Thread) (n : Nat) (a : Acc) : (t.setAcc n a).g = t.g := rfl
@[simp] theorem Thread.setAcc_gFull (t : Thread) (n : Nat) (a : Acc) : (t.setAcc n a).gFull = t.gFull := rfl
@[simp] theorem Thread.setAcc_v (t : Thread) (n : Nat) (a : Acc) : (t.setAcc n a).v = t.v := rfl
@[simp] theorem Thread.setAcc_vFull (t : Thread) (n : Nat) (a : Acc) : (t.setAcc n a).vFull = t.vFull := rfl
@[simp] theorem Thread.setAcc_m1 (t : Thread) (n : Nat) (a : Acc) : (t.setAcc n a).m1 = t.m1 := rfl
@[simp] theorem Thread.setAcc_m2 (t : Thread) (n : Nat) (a : Acc) : (t.setAcc n a).m2 = t.m2 := rfl
@[simp] theorem Thread.setAcc_m3 (t : Thread) (n : Nat) (a : Acc) : (t.setAcc n a).m3 = t.m3 := rfl
@[simp] theorem Thread.setAcc_pc (t : Thread) (n : Nat) (a : Acc) : (t.setAcc n a).pc = t.pc := rfl
@[simp] theorem Thread.setAcc_rnd (t : Thread) (n : Nat) (a : Acc) : (t.setAcc n a).rnd = t.rnd := rfl
@[simp] theorem Thread.setAcc_fpst (t : Thread) (n : Nat) (a : Acc) : (t.setAcc n a).fpst = t.fpst := rfl
@[simp] theorem Thread.setAcc_wab (t : Thread) (n : Nat) (a : Acc) : (t.setAcc n a).wab = t.wab := rfl
@[simp] theorem Thread.setAcc_slpreq (t : Thread) (n : Nat) (a : Acc) : (t.setAcc n a).slpreq = t.slpreq := rfl
@[simp] theorem Thread.setAcc_port (t : Thread) (n : Nat) (a : Acc) : (t.setAcc n a).port = t.port := rfl
@[simp] theorem Thread.setAcc_sv (t : Thread) (n : Nat) (a : Acc) : (t.setAcc n a).sv = t.sv := rfl
@[simp] theorem Thread.setAcc_psv (t : Thread) (n : Nat) (a : Acc) : (t.setAcc n a).psv = t.psv := rfl
@[simp] theorem Thread.setAcc_hnd (t : Thread) (n : Nat) (a : Acc) : (t.setAcc n a).hnd = t.hnd := rfl
@[simp] theorem Thread.setAcc_pair (t : Thread) (n : Nat) (a : Acc) : (t.setAcc n a).pair = t.pair := rfl
@[simp] theorem Thread.setAcc_epc (t : Thread) (n : Nat) (a : Acc) : (t.setAcc n a).epc = t.epc := rfl
@[simp] theorem Thread.setAcc_trapc (t : Thread) (n : Nat) (a : Acc) : (t.setAcc n a).trapc = t.trapc := rfl
@[simp] theorem Thread.setAcc_trapv (t : Thread) (n : Nat) (a : Acc) : (t.setAcc n a).trapv = t.trapv := rfl
@[simp] theorem Thread.setAcc_job (t : Thread) (n : Nat) (a : Acc) : (t.setAcc n a).job = t.job := rfl
@[simp] theorem Thread.setAcc_gang (t : Thread) (n : Nat) (a : Acc) : (t.setAcc n a).gang = t.gang := rfl
@[simp] theorem Thread.setAcc_index (t : Thread) (n : Nat) (a : Acc) : (t.setAcc n a).index = t.index := rfl
@[simp] theorem Thread.setAcc_tid (t : Thread) (n : Nat) (a : Acc) : (t.setAcc n a).tid = t.tid := rfl
@[simp] theorem Thread.setAcc_asid (t : Thread) (n : Nat) (a : Acc) : (t.setAcc n a).asid = t.asid := rfl
@[simp] theorem Thread.setAcc_rgnSize (t : Thread) (n : Nat) (a : Acc) : (t.setAcc n a).rgnSize = t.rgnSize := rfl
@[simp] theorem Thread.setAcc_rgnBase (t : Thread) (n : Nat) (a : Acc) : (t.setAcc n a).rgnBase = t.rgnBase := rfl
@[simp] theorem Thread.setAcc_rtryTotal (t : Thread) (n : Nat) (a : Acc) : (t.setAcc n a).rtryTotal = t.rtryTotal := rfl
@[simp] theorem Thread.setAcc_levels (t : Thread) (n : Nat) (a : Acc) : (t.setAcc n a).levels = t.levels := rfl
@[simp] theorem Thread.setAcc_fill (t : Thread) (n : Nat) (a : Acc) : (t.setAcc n a).fill = t.fill := rfl
@[simp] theorem Thread.setAcc_ranges (t : Thread) (n : Nat) (a : Acc) : (t.setAcc n a).ranges = t.ranges := rfl
@[simp] theorem Thread.setAcc_undo (t : Thread) (n : Nat) (a : Acc) : (t.setAcc n a).undo = t.undo := rfl
@[simp] theorem Thread.setAcc_committed (t : Thread) (n : Nat) (a : Acc) : (t.setAcc n a).committed = t.committed := rfl
@[simp] theorem Thread.setAcc_closing (t : Thread) (n : Nat) (a : Acc) : (t.setAcc n a).closing = t.closing := rfl
@[simp] theorem Thread.setAcc_fetchBuf (t : Thread) (n : Nat) (a : Acc) : (t.setAcc n a).fetchBuf = t.fetchBuf := rfl
@[simp] theorem Thread.setAcc_hints (t : Thread) (n : Nat) (a : Acc) : (t.setAcc n a).hints = t.hints := rfl
@[simp] theorem Thread.setAcc_park (t : Thread) (n : Nat) (a : Acc) : (t.setAcc n a).park = t.park := rfl
@[simp] theorem Thread.setAcc_taken (t : Thread) (n : Nat) (a : Acc) : (t.setAcc n a).taken = t.taken := rfl
@[simp] theorem Thread.setAcc_counted (t : Thread) (n : Nat) (a : Acc) : (t.setAcc n a).counted = t.counted := rfl
@[simp] theorem Thread.setAcc_atIssue (t : Thread) (n : Nat) (a : Acc) : (t.setAcc n a).atIssue = t.atIssue := rfl
@[simp] theorem Thread.setAcc_owed (t : Thread) (n : Nat) (a : Acc) : (t.setAcc n a).owed = t.owed := rfl
@[simp] theorem Thread.setAcc_late (t : Thread) (n : Nat) (a : Acc) : (t.setAcc n a).late = t.late := rfl
@[simp] theorem Thread.setAcc_stopping (t : Thread) (n : Nat) (a : Acc) : (t.setAcc n a).stopping = t.stopping := rfl
@[simp] theorem Thread.setAcc_again (t : Thread) (n : Nat) (a : Acc) : (t.setAcc n a).again = t.again := rfl
@[simp] theorem Thread.setAcc_halted (t : Thread) (n : Nat) (a : Acc) : (t.setAcc n a).halted = t.halted := rfl
@[simp] theorem Thread.setAcc_departed (t : Thread) (n : Nat) (a : Acc) : (t.setAcc n a).departed = t.departed := rfl
@[simp] theorem Thread.setAcc_lastIssue (t : Thread) (n : Nat) (a : Acc) : (t.setAcc n a).lastIssue = t.lastIssue := rfl
@[simp] theorem Thread.setAcc_readyAt (t : Thread) (n : Nat) (a : Acc) : (t.setAcc n a).readyAt = t.readyAt := rfl
@[simp] theorem Thread.setAcc_yieldTo (t : Thread) (n : Nat) (a : Acc) : (t.setAcc n a).yieldTo = t.yieldTo := rfl
@[simp] theorem Thread.setAcc_yieldEnd (t : Thread) (n : Nat) (a : Acc) : (t.setAcc n a).yieldEnd = t.yieldEnd := rfl
@[simp] theorem Thread.setAcc_skipPhase (t : Thread) (n : Nat) (a : Acc) : (t.setAcc n a).skipPhase = t.skipPhase := rfl
@[simp] theorem Thread.setAcc_spoiled (t : Thread) (n : Nat) (a : Acc) : (t.setAcc n a).spoiled = t.spoiled := rfl
@[simp] theorem Thread.setAcc_badG (t : Thread) (n : Nat) (a : Acc) : (t.setAcc n a).badG = t.badG := rfl
@[simp] theorem Thread.setAcc_badV (t : Thread) (n : Nat) (a : Acc) : (t.setAcc n a).badV = t.badV := rfl
@[simp] theorem Thread.setAcc_trail (t : Thread) (n : Nat) (a : Acc) : (t.setAcc n a).trail = t.trail := rfl
@[simp] theorem Thread.setAcc_issued (t : Thread) (n : Nat) (a : Acc) : (t.setAcc n a).issued = t.issued := rfl
@[simp] theorem Thread.setAcc_filled (t : Thread) (n : Nat) (a : Acc) : (t.setAcc n a).filled = t.filled := rfl
@[simp] theorem Thread.setAcc_residentFrom (t : Thread) (n : Nat) (a : Acc) : (t.setAcc n a).residentFrom = t.residentFrom := rfl
@[simp] theorem Thread.setAcc_residentSum (t : Thread) (n : Nat) (a : Acc) : (t.setAcc n a).residentSum = t.residentSum := rfl

/-! ### Thread.fillG and Thread.setM -/

@[simp] theorem Thread.fillG_uid (t : Thread) (d : BitVec 5) (w : Word) : (t.fillG d w).uid = t.uid := by
  unfold Thread.fillG; split <;> rfl
@[simp] theorem Thread.fillG_v (t : Thread) (d : BitVec 5) (w : Word) : (t.fillG d w).v = t.v := by
  unfold Thread.fillG; split <;> rfl
@[simp] theorem Thread.fillG_vFull (t : Thread) (d : BitVec 5) (w : Word) : (t.fillG d w).vFull = t.vFull := by
  unfold Thread.fillG; split <;> rfl
@[simp] theorem Thread.fillG_m1 (t : Thread) (d : BitVec 5) (w : Word) : (t.fillG d w).m1 = t.m1 := by
  unfold Thread.fillG; split <;> rfl
@[simp] theorem Thread.fillG_m2 (t : Thread) (d : BitVec 5) (w : Word) : (t.fillG d w).m2 = t.m2 := by
  unfold Thread.fillG; split <;> rfl
@[simp] theorem Thread.fillG_m3 (t : Thread) (d : BitVec 5) (w : Word) : (t.fillG d w).m3 = t.m3 := by
  unfold Thread.fillG; split <;> rfl
@[simp] theorem Thread.fillG_acc (t : Thread) (d : BitVec 5) (w : Word) : (t.fillG d w).acc = t.acc := by
  unfold Thread.fillG; split <;> rfl
@[simp] theorem Thread.fillG_pc (t : Thread) (d : BitVec 5) (w : Word) : (t.fillG d w).pc = t.pc := by
  unfold Thread.fillG; split <;> rfl
@[simp] theorem Thread.fillG_rnd (t : Thread) (d : BitVec 5) (w : Word) : (t.fillG d w).rnd = t.rnd := by
  unfold Thread.fillG; split <;> rfl
@[simp] theorem Thread.fillG_fpst (t : Thread) (d : BitVec 5) (w : Word) : (t.fillG d w).fpst = t.fpst := by
  unfold Thread.fillG; split <;> rfl
@[simp] theorem Thread.fillG_wab (t : Thread) (d : BitVec 5) (w : Word) : (t.fillG d w).wab = t.wab := by
  unfold Thread.fillG; split <;> rfl
@[simp] theorem Thread.fillG_slpreq (t : Thread) (d : BitVec 5) (w : Word) : (t.fillG d w).slpreq = t.slpreq := by
  unfold Thread.fillG; split <;> rfl
@[simp] theorem Thread.fillG_port (t : Thread) (d : BitVec 5) (w : Word) : (t.fillG d w).port = t.port := by
  unfold Thread.fillG; split <;> rfl
@[simp] theorem Thread.fillG_sv (t : Thread) (d : BitVec 5) (w : Word) : (t.fillG d w).sv = t.sv := by
  unfold Thread.fillG; split <;> rfl
@[simp] theorem Thread.fillG_psv (t : Thread) (d : BitVec 5) (w : Word) : (t.fillG d w).psv = t.psv := by
  unfold Thread.fillG; split <;> rfl
@[simp] theorem Thread.fillG_hnd (t : Thread) (d : BitVec 5) (w : Word) : (t.fillG d w).hnd = t.hnd := by
  unfold Thread.fillG; split <;> rfl
@[simp] theorem Thread.fillG_pair (t : Thread) (d : BitVec 5) (w : Word) : (t.fillG d w).pair = t.pair := by
  unfold Thread.fillG; split <;> rfl
@[simp] theorem Thread.fillG_epc (t : Thread) (d : BitVec 5) (w : Word) : (t.fillG d w).epc = t.epc := by
  unfold Thread.fillG; split <;> rfl
@[simp] theorem Thread.fillG_trapc (t : Thread) (d : BitVec 5) (w : Word) : (t.fillG d w).trapc = t.trapc := by
  unfold Thread.fillG; split <;> rfl
@[simp] theorem Thread.fillG_trapv (t : Thread) (d : BitVec 5) (w : Word) : (t.fillG d w).trapv = t.trapv := by
  unfold Thread.fillG; split <;> rfl
@[simp] theorem Thread.fillG_job (t : Thread) (d : BitVec 5) (w : Word) : (t.fillG d w).job = t.job := by
  unfold Thread.fillG; split <;> rfl
@[simp] theorem Thread.fillG_gang (t : Thread) (d : BitVec 5) (w : Word) : (t.fillG d w).gang = t.gang := by
  unfold Thread.fillG; split <;> rfl
@[simp] theorem Thread.fillG_index (t : Thread) (d : BitVec 5) (w : Word) : (t.fillG d w).index = t.index := by
  unfold Thread.fillG; split <;> rfl
@[simp] theorem Thread.fillG_tid (t : Thread) (d : BitVec 5) (w : Word) : (t.fillG d w).tid = t.tid := by
  unfold Thread.fillG; split <;> rfl
@[simp] theorem Thread.fillG_asid (t : Thread) (d : BitVec 5) (w : Word) : (t.fillG d w).asid = t.asid := by
  unfold Thread.fillG; split <;> rfl
@[simp] theorem Thread.fillG_rgnSize (t : Thread) (d : BitVec 5) (w : Word) : (t.fillG d w).rgnSize = t.rgnSize := by
  unfold Thread.fillG; split <;> rfl
@[simp] theorem Thread.fillG_rgnBase (t : Thread) (d : BitVec 5) (w : Word) : (t.fillG d w).rgnBase = t.rgnBase := by
  unfold Thread.fillG; split <;> rfl
@[simp] theorem Thread.fillG_rtryTotal (t : Thread) (d : BitVec 5) (w : Word) : (t.fillG d w).rtryTotal = t.rtryTotal := by
  unfold Thread.fillG; split <;> rfl
@[simp] theorem Thread.fillG_levels (t : Thread) (d : BitVec 5) (w : Word) : (t.fillG d w).levels = t.levels := by
  unfold Thread.fillG; split <;> rfl
@[simp] theorem Thread.fillG_fill (t : Thread) (d : BitVec 5) (w : Word) : (t.fillG d w).fill = t.fill := by
  unfold Thread.fillG; split <;> rfl
@[simp] theorem Thread.fillG_ranges (t : Thread) (d : BitVec 5) (w : Word) : (t.fillG d w).ranges = t.ranges := by
  unfold Thread.fillG; split <;> rfl
@[simp] theorem Thread.fillG_undo (t : Thread) (d : BitVec 5) (w : Word) : (t.fillG d w).undo = t.undo := by
  unfold Thread.fillG; split <;> rfl
@[simp] theorem Thread.fillG_committed (t : Thread) (d : BitVec 5) (w : Word) : (t.fillG d w).committed = t.committed := by
  unfold Thread.fillG; split <;> rfl
@[simp] theorem Thread.fillG_closing (t : Thread) (d : BitVec 5) (w : Word) : (t.fillG d w).closing = t.closing := by
  unfold Thread.fillG; split <;> rfl
@[simp] theorem Thread.fillG_fetchBuf (t : Thread) (d : BitVec 5) (w : Word) : (t.fillG d w).fetchBuf = t.fetchBuf := by
  unfold Thread.fillG; split <;> rfl
@[simp] theorem Thread.fillG_hints (t : Thread) (d : BitVec 5) (w : Word) : (t.fillG d w).hints = t.hints := by
  unfold Thread.fillG; split <;> rfl
@[simp] theorem Thread.fillG_park (t : Thread) (d : BitVec 5) (w : Word) : (t.fillG d w).park = t.park := by
  unfold Thread.fillG; split <;> rfl
@[simp] theorem Thread.fillG_taken (t : Thread) (d : BitVec 5) (w : Word) : (t.fillG d w).taken = t.taken := by
  unfold Thread.fillG; split <;> rfl
@[simp] theorem Thread.fillG_counted (t : Thread) (d : BitVec 5) (w : Word) : (t.fillG d w).counted = t.counted := by
  unfold Thread.fillG; split <;> rfl
@[simp] theorem Thread.fillG_atIssue (t : Thread) (d : BitVec 5) (w : Word) : (t.fillG d w).atIssue = t.atIssue := by
  unfold Thread.fillG; split <;> rfl
@[simp] theorem Thread.fillG_owed (t : Thread) (d : BitVec 5) (w : Word) : (t.fillG d w).owed = t.owed := by
  unfold Thread.fillG; split <;> rfl
@[simp] theorem Thread.fillG_late (t : Thread) (d : BitVec 5) (w : Word) : (t.fillG d w).late = t.late := by
  unfold Thread.fillG; split <;> rfl
@[simp] theorem Thread.fillG_stopping (t : Thread) (d : BitVec 5) (w : Word) : (t.fillG d w).stopping = t.stopping := by
  unfold Thread.fillG; split <;> rfl
@[simp] theorem Thread.fillG_again (t : Thread) (d : BitVec 5) (w : Word) : (t.fillG d w).again = t.again := by
  unfold Thread.fillG; split <;> rfl
@[simp] theorem Thread.fillG_halted (t : Thread) (d : BitVec 5) (w : Word) : (t.fillG d w).halted = t.halted := by
  unfold Thread.fillG; split <;> rfl
@[simp] theorem Thread.fillG_departed (t : Thread) (d : BitVec 5) (w : Word) : (t.fillG d w).departed = t.departed := by
  unfold Thread.fillG; split <;> rfl
@[simp] theorem Thread.fillG_lastIssue (t : Thread) (d : BitVec 5) (w : Word) : (t.fillG d w).lastIssue = t.lastIssue := by
  unfold Thread.fillG; split <;> rfl
@[simp] theorem Thread.fillG_readyAt (t : Thread) (d : BitVec 5) (w : Word) : (t.fillG d w).readyAt = t.readyAt := by
  unfold Thread.fillG; split <;> rfl
@[simp] theorem Thread.fillG_yieldTo (t : Thread) (d : BitVec 5) (w : Word) : (t.fillG d w).yieldTo = t.yieldTo := by
  unfold Thread.fillG; split <;> rfl
@[simp] theorem Thread.fillG_yieldEnd (t : Thread) (d : BitVec 5) (w : Word) : (t.fillG d w).yieldEnd = t.yieldEnd := by
  unfold Thread.fillG; split <;> rfl
@[simp] theorem Thread.fillG_skipPhase (t : Thread) (d : BitVec 5) (w : Word) : (t.fillG d w).skipPhase = t.skipPhase := by
  unfold Thread.fillG; split <;> rfl
@[simp] theorem Thread.fillG_spoiled (t : Thread) (d : BitVec 5) (w : Word) : (t.fillG d w).spoiled = t.spoiled := by
  unfold Thread.fillG; split <;> rfl
@[simp] theorem Thread.fillG_badV (t : Thread) (d : BitVec 5) (w : Word) : (t.fillG d w).badV = t.badV := by
  unfold Thread.fillG; split <;> rfl
@[simp] theorem Thread.fillG_trail (t : Thread) (d : BitVec 5) (w : Word) : (t.fillG d w).trail = t.trail := by
  unfold Thread.fillG; split <;> rfl
@[simp] theorem Thread.fillG_issued (t : Thread) (d : BitVec 5) (w : Word) : (t.fillG d w).issued = t.issued := by
  unfold Thread.fillG; split <;> rfl
@[simp] theorem Thread.fillG_filled (t : Thread) (d : BitVec 5) (w : Word) : (t.fillG d w).filled = t.filled := by
  unfold Thread.fillG; split <;> rfl
@[simp] theorem Thread.fillG_residentFrom (t : Thread) (d : BitVec 5) (w : Word) : (t.fillG d w).residentFrom = t.residentFrom := by
  unfold Thread.fillG; split <;> rfl
@[simp] theorem Thread.fillG_residentSum (t : Thread) (d : BitVec 5) (w : Word) : (t.fillG d w).residentSum = t.residentSum := by
  unfold Thread.fillG; split <;> rfl
@[simp] theorem Thread.setM_uid (t : Thread) (r : BitVec 2) (w : Word) : (t.setM r w).uid = t.uid := by
  unfold Thread.setM; split <;> rfl
@[simp] theorem Thread.setM_g (t : Thread) (r : BitVec 2) (w : Word) : (t.setM r w).g = t.g := by
  unfold Thread.setM; split <;> rfl
@[simp] theorem Thread.setM_gFull (t : Thread) (r : BitVec 2) (w : Word) : (t.setM r w).gFull = t.gFull := by
  unfold Thread.setM; split <;> rfl
@[simp] theorem Thread.setM_v (t : Thread) (r : BitVec 2) (w : Word) : (t.setM r w).v = t.v := by
  unfold Thread.setM; split <;> rfl
@[simp] theorem Thread.setM_vFull (t : Thread) (r : BitVec 2) (w : Word) : (t.setM r w).vFull = t.vFull := by
  unfold Thread.setM; split <;> rfl
@[simp] theorem Thread.setM_acc (t : Thread) (r : BitVec 2) (w : Word) : (t.setM r w).acc = t.acc := by
  unfold Thread.setM; split <;> rfl
@[simp] theorem Thread.setM_pc (t : Thread) (r : BitVec 2) (w : Word) : (t.setM r w).pc = t.pc := by
  unfold Thread.setM; split <;> rfl
@[simp] theorem Thread.setM_rnd (t : Thread) (r : BitVec 2) (w : Word) : (t.setM r w).rnd = t.rnd := by
  unfold Thread.setM; split <;> rfl
@[simp] theorem Thread.setM_fpst (t : Thread) (r : BitVec 2) (w : Word) : (t.setM r w).fpst = t.fpst := by
  unfold Thread.setM; split <;> rfl
@[simp] theorem Thread.setM_wab (t : Thread) (r : BitVec 2) (w : Word) : (t.setM r w).wab = t.wab := by
  unfold Thread.setM; split <;> rfl
@[simp] theorem Thread.setM_slpreq (t : Thread) (r : BitVec 2) (w : Word) : (t.setM r w).slpreq = t.slpreq := by
  unfold Thread.setM; split <;> rfl
@[simp] theorem Thread.setM_port (t : Thread) (r : BitVec 2) (w : Word) : (t.setM r w).port = t.port := by
  unfold Thread.setM; split <;> rfl
@[simp] theorem Thread.setM_sv (t : Thread) (r : BitVec 2) (w : Word) : (t.setM r w).sv = t.sv := by
  unfold Thread.setM; split <;> rfl
@[simp] theorem Thread.setM_psv (t : Thread) (r : BitVec 2) (w : Word) : (t.setM r w).psv = t.psv := by
  unfold Thread.setM; split <;> rfl
@[simp] theorem Thread.setM_hnd (t : Thread) (r : BitVec 2) (w : Word) : (t.setM r w).hnd = t.hnd := by
  unfold Thread.setM; split <;> rfl
@[simp] theorem Thread.setM_pair (t : Thread) (r : BitVec 2) (w : Word) : (t.setM r w).pair = t.pair := by
  unfold Thread.setM; split <;> rfl
@[simp] theorem Thread.setM_epc (t : Thread) (r : BitVec 2) (w : Word) : (t.setM r w).epc = t.epc := by
  unfold Thread.setM; split <;> rfl
@[simp] theorem Thread.setM_trapc (t : Thread) (r : BitVec 2) (w : Word) : (t.setM r w).trapc = t.trapc := by
  unfold Thread.setM; split <;> rfl
@[simp] theorem Thread.setM_trapv (t : Thread) (r : BitVec 2) (w : Word) : (t.setM r w).trapv = t.trapv := by
  unfold Thread.setM; split <;> rfl
@[simp] theorem Thread.setM_job (t : Thread) (r : BitVec 2) (w : Word) : (t.setM r w).job = t.job := by
  unfold Thread.setM; split <;> rfl
@[simp] theorem Thread.setM_gang (t : Thread) (r : BitVec 2) (w : Word) : (t.setM r w).gang = t.gang := by
  unfold Thread.setM; split <;> rfl
@[simp] theorem Thread.setM_index (t : Thread) (r : BitVec 2) (w : Word) : (t.setM r w).index = t.index := by
  unfold Thread.setM; split <;> rfl
@[simp] theorem Thread.setM_tid (t : Thread) (r : BitVec 2) (w : Word) : (t.setM r w).tid = t.tid := by
  unfold Thread.setM; split <;> rfl
@[simp] theorem Thread.setM_asid (t : Thread) (r : BitVec 2) (w : Word) : (t.setM r w).asid = t.asid := by
  unfold Thread.setM; split <;> rfl
@[simp] theorem Thread.setM_rgnSize (t : Thread) (r : BitVec 2) (w : Word) : (t.setM r w).rgnSize = t.rgnSize := by
  unfold Thread.setM; split <;> rfl
@[simp] theorem Thread.setM_rgnBase (t : Thread) (r : BitVec 2) (w : Word) : (t.setM r w).rgnBase = t.rgnBase := by
  unfold Thread.setM; split <;> rfl
@[simp] theorem Thread.setM_rtryTotal (t : Thread) (r : BitVec 2) (w : Word) : (t.setM r w).rtryTotal = t.rtryTotal := by
  unfold Thread.setM; split <;> rfl
@[simp] theorem Thread.setM_levels (t : Thread) (r : BitVec 2) (w : Word) : (t.setM r w).levels = t.levels := by
  unfold Thread.setM; split <;> rfl
@[simp] theorem Thread.setM_fill (t : Thread) (r : BitVec 2) (w : Word) : (t.setM r w).fill = t.fill := by
  unfold Thread.setM; split <;> rfl
@[simp] theorem Thread.setM_ranges (t : Thread) (r : BitVec 2) (w : Word) : (t.setM r w).ranges = t.ranges := by
  unfold Thread.setM; split <;> rfl
@[simp] theorem Thread.setM_undo (t : Thread) (r : BitVec 2) (w : Word) : (t.setM r w).undo = t.undo := by
  unfold Thread.setM; split <;> rfl
@[simp] theorem Thread.setM_committed (t : Thread) (r : BitVec 2) (w : Word) : (t.setM r w).committed = t.committed := by
  unfold Thread.setM; split <;> rfl
@[simp] theorem Thread.setM_closing (t : Thread) (r : BitVec 2) (w : Word) : (t.setM r w).closing = t.closing := by
  unfold Thread.setM; split <;> rfl
@[simp] theorem Thread.setM_fetchBuf (t : Thread) (r : BitVec 2) (w : Word) : (t.setM r w).fetchBuf = t.fetchBuf := by
  unfold Thread.setM; split <;> rfl
@[simp] theorem Thread.setM_hints (t : Thread) (r : BitVec 2) (w : Word) : (t.setM r w).hints = t.hints := by
  unfold Thread.setM; split <;> rfl
@[simp] theorem Thread.setM_park (t : Thread) (r : BitVec 2) (w : Word) : (t.setM r w).park = t.park := by
  unfold Thread.setM; split <;> rfl
@[simp] theorem Thread.setM_taken (t : Thread) (r : BitVec 2) (w : Word) : (t.setM r w).taken = t.taken := by
  unfold Thread.setM; split <;> rfl
@[simp] theorem Thread.setM_counted (t : Thread) (r : BitVec 2) (w : Word) : (t.setM r w).counted = t.counted := by
  unfold Thread.setM; split <;> rfl
@[simp] theorem Thread.setM_atIssue (t : Thread) (r : BitVec 2) (w : Word) : (t.setM r w).atIssue = t.atIssue := by
  unfold Thread.setM; split <;> rfl
@[simp] theorem Thread.setM_owed (t : Thread) (r : BitVec 2) (w : Word) : (t.setM r w).owed = t.owed := by
  unfold Thread.setM; split <;> rfl
@[simp] theorem Thread.setM_late (t : Thread) (r : BitVec 2) (w : Word) : (t.setM r w).late = t.late := by
  unfold Thread.setM; split <;> rfl
@[simp] theorem Thread.setM_stopping (t : Thread) (r : BitVec 2) (w : Word) : (t.setM r w).stopping = t.stopping := by
  unfold Thread.setM; split <;> rfl
@[simp] theorem Thread.setM_again (t : Thread) (r : BitVec 2) (w : Word) : (t.setM r w).again = t.again := by
  unfold Thread.setM; split <;> rfl
@[simp] theorem Thread.setM_halted (t : Thread) (r : BitVec 2) (w : Word) : (t.setM r w).halted = t.halted := by
  unfold Thread.setM; split <;> rfl
@[simp] theorem Thread.setM_departed (t : Thread) (r : BitVec 2) (w : Word) : (t.setM r w).departed = t.departed := by
  unfold Thread.setM; split <;> rfl
@[simp] theorem Thread.setM_lastIssue (t : Thread) (r : BitVec 2) (w : Word) : (t.setM r w).lastIssue = t.lastIssue := by
  unfold Thread.setM; split <;> rfl
@[simp] theorem Thread.setM_readyAt (t : Thread) (r : BitVec 2) (w : Word) : (t.setM r w).readyAt = t.readyAt := by
  unfold Thread.setM; split <;> rfl
@[simp] theorem Thread.setM_yieldTo (t : Thread) (r : BitVec 2) (w : Word) : (t.setM r w).yieldTo = t.yieldTo := by
  unfold Thread.setM; split <;> rfl
@[simp] theorem Thread.setM_yieldEnd (t : Thread) (r : BitVec 2) (w : Word) : (t.setM r w).yieldEnd = t.yieldEnd := by
  unfold Thread.setM; split <;> rfl
@[simp] theorem Thread.setM_skipPhase (t : Thread) (r : BitVec 2) (w : Word) : (t.setM r w).skipPhase = t.skipPhase := by
  unfold Thread.setM; split <;> rfl
@[simp] theorem Thread.setM_spoiled (t : Thread) (r : BitVec 2) (w : Word) : (t.setM r w).spoiled = t.spoiled := by
  unfold Thread.setM; split <;> rfl
@[simp] theorem Thread.setM_badG (t : Thread) (r : BitVec 2) (w : Word) : (t.setM r w).badG = t.badG := by
  unfold Thread.setM; split <;> rfl
@[simp] theorem Thread.setM_badV (t : Thread) (r : BitVec 2) (w : Word) : (t.setM r w).badV = t.badV := by
  unfold Thread.setM; split <;> rfl
@[simp] theorem Thread.setM_trail (t : Thread) (r : BitVec 2) (w : Word) : (t.setM r w).trail = t.trail := by
  unfold Thread.setM; split <;> rfl
@[simp] theorem Thread.setM_issued (t : Thread) (r : BitVec 2) (w : Word) : (t.setM r w).issued = t.issued := by
  unfold Thread.setM; split <;> rfl
@[simp] theorem Thread.setM_filled (t : Thread) (r : BitVec 2) (w : Word) : (t.setM r w).filled = t.filled := by
  unfold Thread.setM; split <;> rfl
@[simp] theorem Thread.setM_residentFrom (t : Thread) (r : BitVec 2) (w : Word) : (t.setM r w).residentFrom = t.residentFrom := by
  unfold Thread.setM; split <;> rfl
@[simp] theorem Thread.setM_residentSum (t : Thread) (r : BitVec 2) (w : Word) : (t.setM r w).residentSum = t.residentSum := by
  unfold Thread.setM; split <;> rfl

/-! ### State.unload -/

@[simp] theorem State.unload_cur (s : State) (uid : Nat) : (s.unload uid).cur = s.cur := rfl
@[simp] theorem State.unload_agenda (s : State) (uid : Nat) : (s.unload uid).agenda = s.agenda := rfl
@[simp] theorem State.unload_devTurn (s : State) (uid : Nat) : (s.unload uid).devTurn = s.devTurn := rfl
@[simp] theorem State.unload_turnNo (s : State) (uid : Nat) : (s.unload uid).turnNo = s.turnNo := rfl
@[simp] theorem State.unload_fresh (s : State) (uid : Nat) : (s.unload uid).fresh = s.fresh := rfl
@[simp] theorem State.unload_nextUid (s : State) (uid : Nat) : (s.unload uid).nextUid = s.nextUid := rfl
@[simp] theorem State.unload_todo (s : State) (uid : Nat) : (s.unload uid).todo = s.todo := rfl
@[simp] theorem State.unload_now (s : State) (uid : Nat) : (s.unload uid).now = s.now := rfl
@[simp] theorem State.unload_issueFrom (s : State) (uid : Nat) : (s.unload uid).issueFrom = s.issueFrom := rfl
@[simp] theorem State.unload_mem (s : State) (uid : Nat) : (s.unload uid).mem = s.mem := rfl
@[simp] theorem State.unload_emptyWords (s : State) (uid : Nat) : (s.unload uid).emptyWords = s.emptyWords := rfl
@[simp] theorem State.unload_poisoned (s : State) (uid : Nat) : (s.unload uid).poisoned = s.poisoned := rfl
@[simp] theorem State.unload_notReady (s : State) (uid : Nat) : (s.unload uid).notReady = s.notReady := rfl
@[simp] theorem State.unload_stores (s : State) (uid : Nat) : (s.unload uid).stores = s.stores := rfl
@[simp] theorem State.unload_seen (s : State) (uid : Nat) : (s.unload uid).seen = s.seen := rfl
@[simp] theorem State.unload_arrived (s : State) (uid : Nat) : (s.unload uid).arrived = s.arrived := rfl
@[simp] theorem State.unload_slots (s : State) (uid : Nat) : (s.unload uid).slots = s.slots := rfl
@[simp] theorem State.unload_cores (s : State) (uid : Nat) : (s.unload uid).cores = s.cores := rfl
@[simp] theorem State.unload_dies (s : State) (uid : Nat) : (s.unload uid).dies = s.dies := rfl
@[simp] theorem State.unload_ios (s : State) (uid : Nat) : (s.unload uid).ios = s.ios := rfl
@[simp] theorem State.unload_channels (s : State) (uid : Nat) : (s.unload uid).channels = s.channels := rfl
@[simp] theorem State.unload_frames (s : State) (uid : Nat) : (s.unload uid).frames = s.frames := rfl
@[simp] theorem State.unload_links (s : State) (uid : Nat) : (s.unload uid).links = s.links := rfl
@[simp] theorem State.unload_inbound (s : State) (uid : Nat) : (s.unload uid).inbound = s.inbound := rfl
@[simp] theorem State.unload_spareWires (s : State) (uid : Nat) : (s.unload uid).spareWires = s.spareWires := rfl
@[simp] theorem State.unload_inService (s : State) (uid : Nat) : (s.unload uid).inService = s.inService := rfl
@[simp] theorem State.unload_decoders (s : State) (uid : Nat) : (s.unload uid).decoders = s.decoders := rfl
@[simp] theorem State.unload_badTransfers (s : State) (uid : Nat) : (s.unload uid).badTransfers = s.badTransfers := rfl
@[simp] theorem State.unload_badReads (s : State) (uid : Nat) : (s.unload uid).badReads = s.badReads := rfl
@[simp] theorem State.unload_worklists (s : State) (uid : Nat) : (s.unload uid).worklists = s.worklists := rfl
@[simp] theorem State.unload_pushSeq (s : State) (uid : Nat) : (s.unload uid).pushSeq = s.pushSeq := rfl
@[simp] theorem State.unload_jobs (s : State) (uid : Nat) : (s.unload uid).jobs = s.jobs := rfl
@[simp] theorem State.unload_gangs (s : State) (uid : Nat) : (s.unload uid).gangs = s.gangs := rfl
@[simp] theorem State.unload_slotres (s : State) (uid : Nat) : (s.unload uid).slotres = s.slotres := rfl
@[simp] theorem State.unload_noteJob (s : State) (uid : Nat) : (s.unload uid).noteJob = s.noteJob := rfl
@[simp] theorem State.unload_noteWl (s : State) (uid : Nat) : (s.unload uid).noteWl = s.noteWl := rfl
@[simp] theorem State.unload_noteEn (s : State) (uid : Nat) : (s.unload uid).noteEn = s.noteEn := rfl
@[simp] theorem State.unload_asroot (s : State) (uid : Nat) : (s.unload uid).asroot = s.asroot := rfl
@[simp] theorem State.unload_copies (s : State) (uid : Nat) : (s.unload uid).copies = s.copies := rfl
@[simp] theorem State.unload_podTout (s : State) (uid : Nat) : (s.unload uid).podTout = s.podTout := rfl
@[simp] theorem State.unload_modNum (s : State) (uid : Nat) : (s.unload uid).modNum = s.modNum := rfl
@[simp] theorem State.unload_pod (s : State) (uid : Nat) : (s.unload uid).pod = s.pod := rfl
@[simp] theorem State.unload_shadowOut (s : State) (uid : Nat) : (s.unload uid).shadowOut = s.shadowOut := rfl
@[simp] theorem State.unload_flushAsked (s : State) (uid : Nat) : (s.unload uid).flushAsked = s.flushAsked := rfl
@[simp] theorem State.unload_flushOut (s : State) (uid : Nat) : (s.unload uid).flushOut = s.flushOut := rfl
@[simp] theorem State.unload_status (s : State) (uid : Nat) : (s.unload uid).status = s.status := rfl
@[simp] theorem State.unload_ready (s : State) (uid : Nat) : (s.unload uid).ready = s.ready := rfl
@[simp] theorem State.unload_booterr (s : State) (uid : Nat) : (s.unload uid).booterr = s.booterr := rfl
@[simp] theorem State.unload_snap (s : State) (uid : Nat) : (s.unload uid).snap = s.snap := rfl
@[simp] theorem State.unload_snapLost (s : State) (uid : Nat) : (s.unload uid).snapLost = s.snapLost := rfl
@[simp] theorem State.unload_snapAt (s : State) (uid : Nat) : (s.unload uid).snapAt = s.snapAt := rfl
@[simp] theorem State.unload_topleft (s : State) (uid : Nat) : (s.unload uid).topleft = s.topleft := rfl
@[simp] theorem State.unload_mbxGo (s : State) (uid : Nat) : (s.unload uid).mbxGo = s.mbxGo := rfl
@[simp] theorem State.unload_mbxDone (s : State) (uid : Nat) : (s.unload uid).mbxDone = s.mbxDone := rfl
@[simp] theorem State.unload_hostId (s : State) (uid : Nat) : (s.unload uid).hostId = s.hostId := rfl
@[simp] theorem State.unload_hostRead (s : State) (uid : Nat) : (s.unload uid).hostRead = s.hostRead := rfl
@[simp] theorem State.unload_hostPoison (s : State) (uid : Nat) : (s.unload uid).hostPoison = s.hostPoison := rfl
@[simp] theorem State.unload_fusedMin (s : State) (uid : Nat) : (s.unload uid).fusedMin = s.fusedMin := rfl
@[simp] theorem State.unload_fwVersion (s : State) (uid : Nat) : (s.unload uid).fwVersion = s.fwVersion := rfl
@[simp] theorem State.unload_lowerLeft (s : State) (uid : Nat) : (s.unload uid).lowerLeft = s.lowerLeft := rfl
@[simp] theorem State.unload_images (s : State) (uid : Nat) : (s.unload uid).images = s.images := rfl
@[simp] theorem State.unload_loaded (s : State) (uid : Nat) : (s.unload uid).loaded = s.loaded := rfl
@[simp] theorem State.unload_boot (s : State) (uid : Nat) : (s.unload uid).boot = s.boot := rfl
@[simp] theorem State.unload_rings (s : State) (uid : Nat) : (s.unload uid).rings = s.rings := rfl
@[simp] theorem State.unload_mhl (s : State) (uid : Nat) : (s.unload uid).mhl = s.mhl := rfl
@[simp] theorem State.unload_mhlTried (s : State) (uid : Nat) : (s.unload uid).mhlTried = s.mhlTried := rfl
@[simp] theorem State.unload_booting (s : State) (uid : Nat) : (s.unload uid).booting = s.booting := rfl
@[simp] theorem State.unload_excessSince (s : State) (uid : Nat) : (s.unload uid).excessSince = s.excessSince := rfl
@[simp] theorem State.unload_powerSkip (s : State) (uid : Nat) : (s.unload uid).powerSkip = s.powerSkip := rfl
@[simp] theorem State.unload_stopped (s : State) (uid : Nat) : (s.unload uid).stopped = s.stopped := rfl
@[simp] theorem State.unload_sluices (s : State) (uid : Nat) : (s.unload uid).sluices = s.sluices := rfl

/-! ### State.spendBad -/

@[simp] theorem State.spendBad_cur (s : State) (p n : Nat) : (s.spendBad p n).cur = s.cur := rfl
@[simp] theorem State.spendBad_agenda (s : State) (p n : Nat) : (s.spendBad p n).agenda = s.agenda := rfl
@[simp] theorem State.spendBad_devTurn (s : State) (p n : Nat) : (s.spendBad p n).devTurn = s.devTurn := rfl
@[simp] theorem State.spendBad_turnNo (s : State) (p n : Nat) : (s.spendBad p n).turnNo = s.turnNo := rfl
@[simp] theorem State.spendBad_fresh (s : State) (p n : Nat) : (s.spendBad p n).fresh = s.fresh := rfl
@[simp] theorem State.spendBad_nextUid (s : State) (p n : Nat) : (s.spendBad p n).nextUid = s.nextUid := rfl
@[simp] theorem State.spendBad_todo (s : State) (p n : Nat) : (s.spendBad p n).todo = s.todo := rfl
@[simp] theorem State.spendBad_now (s : State) (p n : Nat) : (s.spendBad p n).now = s.now := rfl
@[simp] theorem State.spendBad_issueFrom (s : State) (p n : Nat) : (s.spendBad p n).issueFrom = s.issueFrom := rfl
@[simp] theorem State.spendBad_mem (s : State) (p n : Nat) : (s.spendBad p n).mem = s.mem := rfl
@[simp] theorem State.spendBad_emptyWords (s : State) (p n : Nat) : (s.spendBad p n).emptyWords = s.emptyWords := rfl
@[simp] theorem State.spendBad_poisoned (s : State) (p n : Nat) : (s.spendBad p n).poisoned = s.poisoned := rfl
@[simp] theorem State.spendBad_notReady (s : State) (p n : Nat) : (s.spendBad p n).notReady = s.notReady := rfl
@[simp] theorem State.spendBad_stores (s : State) (p n : Nat) : (s.spendBad p n).stores = s.stores := rfl
@[simp] theorem State.spendBad_seen (s : State) (p n : Nat) : (s.spendBad p n).seen = s.seen := rfl
@[simp] theorem State.spendBad_arrived (s : State) (p n : Nat) : (s.spendBad p n).arrived = s.arrived := rfl
@[simp] theorem State.spendBad_slots (s : State) (p n : Nat) : (s.spendBad p n).slots = s.slots := rfl
@[simp] theorem State.spendBad_cores (s : State) (p n : Nat) : (s.spendBad p n).cores = s.cores := rfl
@[simp] theorem State.spendBad_dies (s : State) (p n : Nat) : (s.spendBad p n).dies = s.dies := rfl
@[simp] theorem State.spendBad_ios (s : State) (p n : Nat) : (s.spendBad p n).ios = s.ios := rfl
@[simp] theorem State.spendBad_channels (s : State) (p n : Nat) : (s.spendBad p n).channels = s.channels := rfl
@[simp] theorem State.spendBad_frames (s : State) (p n : Nat) : (s.spendBad p n).frames = s.frames := rfl
@[simp] theorem State.spendBad_links (s : State) (p n : Nat) : (s.spendBad p n).links = s.links := rfl
@[simp] theorem State.spendBad_carried (s : State) (p n : Nat) : (s.spendBad p n).carried = s.carried := rfl
@[simp] theorem State.spendBad_inbound (s : State) (p n : Nat) : (s.spendBad p n).inbound = s.inbound := rfl
@[simp] theorem State.spendBad_spareWires (s : State) (p n : Nat) : (s.spendBad p n).spareWires = s.spareWires := rfl
@[simp] theorem State.spendBad_inService (s : State) (p n : Nat) : (s.spendBad p n).inService = s.inService := rfl
@[simp] theorem State.spendBad_decoders (s : State) (p n : Nat) : (s.spendBad p n).decoders = s.decoders := rfl
@[simp] theorem State.spendBad_badTransfers (s : State) (p n : Nat) : (s.spendBad p n).badTransfers = s.badTransfers := rfl
@[simp] theorem State.spendBad_worklists (s : State) (p n : Nat) : (s.spendBad p n).worklists = s.worklists := rfl
@[simp] theorem State.spendBad_pushSeq (s : State) (p n : Nat) : (s.spendBad p n).pushSeq = s.pushSeq := rfl
@[simp] theorem State.spendBad_jobs (s : State) (p n : Nat) : (s.spendBad p n).jobs = s.jobs := rfl
@[simp] theorem State.spendBad_gangs (s : State) (p n : Nat) : (s.spendBad p n).gangs = s.gangs := rfl
@[simp] theorem State.spendBad_slotres (s : State) (p n : Nat) : (s.spendBad p n).slotres = s.slotres := rfl
@[simp] theorem State.spendBad_noteJob (s : State) (p n : Nat) : (s.spendBad p n).noteJob = s.noteJob := rfl
@[simp] theorem State.spendBad_noteWl (s : State) (p n : Nat) : (s.spendBad p n).noteWl = s.noteWl := rfl
@[simp] theorem State.spendBad_noteEn (s : State) (p n : Nat) : (s.spendBad p n).noteEn = s.noteEn := rfl
@[simp] theorem State.spendBad_asroot (s : State) (p n : Nat) : (s.spendBad p n).asroot = s.asroot := rfl
@[simp] theorem State.spendBad_copies (s : State) (p n : Nat) : (s.spendBad p n).copies = s.copies := rfl
@[simp] theorem State.spendBad_podTout (s : State) (p n : Nat) : (s.spendBad p n).podTout = s.podTout := rfl
@[simp] theorem State.spendBad_modNum (s : State) (p n : Nat) : (s.spendBad p n).modNum = s.modNum := rfl
@[simp] theorem State.spendBad_pod (s : State) (p n : Nat) : (s.spendBad p n).pod = s.pod := rfl
@[simp] theorem State.spendBad_shadowOut (s : State) (p n : Nat) : (s.spendBad p n).shadowOut = s.shadowOut := rfl
@[simp] theorem State.spendBad_flushAsked (s : State) (p n : Nat) : (s.spendBad p n).flushAsked = s.flushAsked := rfl
@[simp] theorem State.spendBad_flushOut (s : State) (p n : Nat) : (s.spendBad p n).flushOut = s.flushOut := rfl
@[simp] theorem State.spendBad_status (s : State) (p n : Nat) : (s.spendBad p n).status = s.status := rfl
@[simp] theorem State.spendBad_ready (s : State) (p n : Nat) : (s.spendBad p n).ready = s.ready := rfl
@[simp] theorem State.spendBad_booterr (s : State) (p n : Nat) : (s.spendBad p n).booterr = s.booterr := rfl
@[simp] theorem State.spendBad_snap (s : State) (p n : Nat) : (s.spendBad p n).snap = s.snap := rfl
@[simp] theorem State.spendBad_snapLost (s : State) (p n : Nat) : (s.spendBad p n).snapLost = s.snapLost := rfl
@[simp] theorem State.spendBad_snapAt (s : State) (p n : Nat) : (s.spendBad p n).snapAt = s.snapAt := rfl
@[simp] theorem State.spendBad_topleft (s : State) (p n : Nat) : (s.spendBad p n).topleft = s.topleft := rfl
@[simp] theorem State.spendBad_mbxGo (s : State) (p n : Nat) : (s.spendBad p n).mbxGo = s.mbxGo := rfl
@[simp] theorem State.spendBad_mbxDone (s : State) (p n : Nat) : (s.spendBad p n).mbxDone = s.mbxDone := rfl
@[simp] theorem State.spendBad_hostId (s : State) (p n : Nat) : (s.spendBad p n).hostId = s.hostId := rfl
@[simp] theorem State.spendBad_hostRead (s : State) (p n : Nat) : (s.spendBad p n).hostRead = s.hostRead := rfl
@[simp] theorem State.spendBad_hostPoison (s : State) (p n : Nat) : (s.spendBad p n).hostPoison = s.hostPoison := rfl
@[simp] theorem State.spendBad_fusedMin (s : State) (p n : Nat) : (s.spendBad p n).fusedMin = s.fusedMin := rfl
@[simp] theorem State.spendBad_fwVersion (s : State) (p n : Nat) : (s.spendBad p n).fwVersion = s.fwVersion := rfl
@[simp] theorem State.spendBad_lowerLeft (s : State) (p n : Nat) : (s.spendBad p n).lowerLeft = s.lowerLeft := rfl
@[simp] theorem State.spendBad_images (s : State) (p n : Nat) : (s.spendBad p n).images = s.images := rfl
@[simp] theorem State.spendBad_loaded (s : State) (p n : Nat) : (s.spendBad p n).loaded = s.loaded := rfl
@[simp] theorem State.spendBad_boot (s : State) (p n : Nat) : (s.spendBad p n).boot = s.boot := rfl
@[simp] theorem State.spendBad_rings (s : State) (p n : Nat) : (s.spendBad p n).rings = s.rings := rfl
@[simp] theorem State.spendBad_mhl (s : State) (p n : Nat) : (s.spendBad p n).mhl = s.mhl := rfl
@[simp] theorem State.spendBad_mhlTried (s : State) (p n : Nat) : (s.spendBad p n).mhlTried = s.mhlTried := rfl
@[simp] theorem State.spendBad_booting (s : State) (p n : Nat) : (s.spendBad p n).booting = s.booting := rfl
@[simp] theorem State.spendBad_excessSince (s : State) (p n : Nat) : (s.spendBad p n).excessSince = s.excessSince := rfl
@[simp] theorem State.spendBad_powerSkip (s : State) (p n : Nat) : (s.spendBad p n).powerSkip = s.powerSkip := rfl
@[simp] theorem State.spendBad_stopped (s : State) (p n : Nat) : (s.spendBad p n).stopped = s.stopped := rfl
@[simp] theorem State.spendBad_sluices (s : State) (p n : Nat) : (s.spendBad p n).sluices = s.sluices := rfl

/-! ### Thread.flagged -/

@[simp] theorem Thread.flagged_uid (t : Thread) (f : FlagSet) : (t.flagged f).uid = t.uid := rfl
@[simp] theorem Thread.flagged_g (t : Thread) (f : FlagSet) : (t.flagged f).g = t.g := rfl
@[simp] theorem Thread.flagged_gFull (t : Thread) (f : FlagSet) : (t.flagged f).gFull = t.gFull := rfl
@[simp] theorem Thread.flagged_v (t : Thread) (f : FlagSet) : (t.flagged f).v = t.v := rfl
@[simp] theorem Thread.flagged_vFull (t : Thread) (f : FlagSet) : (t.flagged f).vFull = t.vFull := rfl
@[simp] theorem Thread.flagged_m1 (t : Thread) (f : FlagSet) : (t.flagged f).m1 = t.m1 := rfl
@[simp] theorem Thread.flagged_m2 (t : Thread) (f : FlagSet) : (t.flagged f).m2 = t.m2 := rfl
@[simp] theorem Thread.flagged_m3 (t : Thread) (f : FlagSet) : (t.flagged f).m3 = t.m3 := rfl
@[simp] theorem Thread.flagged_pc (t : Thread) (f : FlagSet) : (t.flagged f).pc = t.pc := rfl
@[simp] theorem Thread.flagged_rnd (t : Thread) (f : FlagSet) : (t.flagged f).rnd = t.rnd := rfl
@[simp] theorem Thread.flagged_wab (t : Thread) (f : FlagSet) : (t.flagged f).wab = t.wab := rfl
@[simp] theorem Thread.flagged_slpreq (t : Thread) (f : FlagSet) : (t.flagged f).slpreq = t.slpreq := rfl
@[simp] theorem Thread.flagged_port (t : Thread) (f : FlagSet) : (t.flagged f).port = t.port := rfl
@[simp] theorem Thread.flagged_sv (t : Thread) (f : FlagSet) : (t.flagged f).sv = t.sv := rfl
@[simp] theorem Thread.flagged_psv (t : Thread) (f : FlagSet) : (t.flagged f).psv = t.psv := rfl
@[simp] theorem Thread.flagged_hnd (t : Thread) (f : FlagSet) : (t.flagged f).hnd = t.hnd := rfl
@[simp] theorem Thread.flagged_pair (t : Thread) (f : FlagSet) : (t.flagged f).pair = t.pair := rfl
@[simp] theorem Thread.flagged_epc (t : Thread) (f : FlagSet) : (t.flagged f).epc = t.epc := rfl
@[simp] theorem Thread.flagged_trapc (t : Thread) (f : FlagSet) : (t.flagged f).trapc = t.trapc := rfl
@[simp] theorem Thread.flagged_trapv (t : Thread) (f : FlagSet) : (t.flagged f).trapv = t.trapv := rfl
@[simp] theorem Thread.flagged_job (t : Thread) (f : FlagSet) : (t.flagged f).job = t.job := rfl
@[simp] theorem Thread.flagged_gang (t : Thread) (f : FlagSet) : (t.flagged f).gang = t.gang := rfl
@[simp] theorem Thread.flagged_index (t : Thread) (f : FlagSet) : (t.flagged f).index = t.index := rfl
@[simp] theorem Thread.flagged_tid (t : Thread) (f : FlagSet) : (t.flagged f).tid = t.tid := rfl
@[simp] theorem Thread.flagged_asid (t : Thread) (f : FlagSet) : (t.flagged f).asid = t.asid := rfl
@[simp] theorem Thread.flagged_rgnSize (t : Thread) (f : FlagSet) : (t.flagged f).rgnSize = t.rgnSize := rfl
@[simp] theorem Thread.flagged_rgnBase (t : Thread) (f : FlagSet) : (t.flagged f).rgnBase = t.rgnBase := rfl
@[simp] theorem Thread.flagged_rtryTotal (t : Thread) (f : FlagSet) : (t.flagged f).rtryTotal = t.rtryTotal := rfl
@[simp] theorem Thread.flagged_levels (t : Thread) (f : FlagSet) : (t.flagged f).levels = t.levels := rfl
@[simp] theorem Thread.flagged_fill (t : Thread) (f : FlagSet) : (t.flagged f).fill = t.fill := rfl
@[simp] theorem Thread.flagged_ranges (t : Thread) (f : FlagSet) : (t.flagged f).ranges = t.ranges := rfl
@[simp] theorem Thread.flagged_undo (t : Thread) (f : FlagSet) : (t.flagged f).undo = t.undo := rfl
@[simp] theorem Thread.flagged_committed (t : Thread) (f : FlagSet) : (t.flagged f).committed = t.committed := rfl
@[simp] theorem Thread.flagged_closing (t : Thread) (f : FlagSet) : (t.flagged f).closing = t.closing := rfl
@[simp] theorem Thread.flagged_fetchBuf (t : Thread) (f : FlagSet) : (t.flagged f).fetchBuf = t.fetchBuf := rfl
@[simp] theorem Thread.flagged_hints (t : Thread) (f : FlagSet) : (t.flagged f).hints = t.hints := rfl
@[simp] theorem Thread.flagged_park (t : Thread) (f : FlagSet) : (t.flagged f).park = t.park := rfl
@[simp] theorem Thread.flagged_taken (t : Thread) (f : FlagSet) : (t.flagged f).taken = t.taken := rfl
@[simp] theorem Thread.flagged_counted (t : Thread) (f : FlagSet) : (t.flagged f).counted = t.counted := rfl
@[simp] theorem Thread.flagged_atIssue (t : Thread) (f : FlagSet) : (t.flagged f).atIssue = t.atIssue := rfl
@[simp] theorem Thread.flagged_owed (t : Thread) (f : FlagSet) : (t.flagged f).owed = t.owed := rfl
@[simp] theorem Thread.flagged_late (t : Thread) (f : FlagSet) : (t.flagged f).late = t.late := rfl
@[simp] theorem Thread.flagged_stopping (t : Thread) (f : FlagSet) : (t.flagged f).stopping = t.stopping := rfl
@[simp] theorem Thread.flagged_again (t : Thread) (f : FlagSet) : (t.flagged f).again = t.again := rfl
@[simp] theorem Thread.flagged_halted (t : Thread) (f : FlagSet) : (t.flagged f).halted = t.halted := rfl
@[simp] theorem Thread.flagged_departed (t : Thread) (f : FlagSet) : (t.flagged f).departed = t.departed := rfl
@[simp] theorem Thread.flagged_lastIssue (t : Thread) (f : FlagSet) : (t.flagged f).lastIssue = t.lastIssue := rfl
@[simp] theorem Thread.flagged_readyAt (t : Thread) (f : FlagSet) : (t.flagged f).readyAt = t.readyAt := rfl
@[simp] theorem Thread.flagged_yieldTo (t : Thread) (f : FlagSet) : (t.flagged f).yieldTo = t.yieldTo := rfl
@[simp] theorem Thread.flagged_yieldEnd (t : Thread) (f : FlagSet) : (t.flagged f).yieldEnd = t.yieldEnd := rfl
@[simp] theorem Thread.flagged_skipPhase (t : Thread) (f : FlagSet) : (t.flagged f).skipPhase = t.skipPhase := rfl
@[simp] theorem Thread.flagged_spoiled (t : Thread) (f : FlagSet) : (t.flagged f).spoiled = t.spoiled := rfl
@[simp] theorem Thread.flagged_badG (t : Thread) (f : FlagSet) : (t.flagged f).badG = t.badG := rfl
@[simp] theorem Thread.flagged_badV (t : Thread) (f : FlagSet) : (t.flagged f).badV = t.badV := rfl
@[simp] theorem Thread.flagged_trail (t : Thread) (f : FlagSet) : (t.flagged f).trail = t.trail := rfl
@[simp] theorem Thread.flagged_issued (t : Thread) (f : FlagSet) : (t.flagged f).issued = t.issued := rfl
@[simp] theorem Thread.flagged_filled (t : Thread) (f : FlagSet) : (t.flagged f).filled = t.filled := rfl
@[simp] theorem Thread.flagged_residentFrom (t : Thread) (f : FlagSet) : (t.flagged f).residentFrom = t.residentFrom := rfl
@[simp] theorem Thread.flagged_residentSum (t : Thread) (f : FlagSet) : (t.flagged f).residentSum = t.residentSum := rfl
@[simp] theorem Thread.flagged_acc (t : Thread) (f : FlagSet) : (t.flagged f).acc = t.acc := rfl
@[simp] theorem Thread.flagged_fpst (t : Thread) (f : FlagSet) : (t.flagged f).fpst = t.fpst ||| f.zeroExtend 14 := rfl
@[simp] theorem Thread.flagged_zero (t : Thread) : t.flagged 0#6 = t := by simp [Thread.flagged]

/-! ### What each update changes -/

@[simp] theorem State.advance_pc (t : Thread) : t.advance.pc = t.pc + 4 := rfl
@[simp] theorem Thread.advance_hints (t : Thread) : t.advance.hints = [] := rfl
@[simp] theorem Thread.advance_taken (t : Thread) : t.advance.taken = none := rfl
@[simp] theorem Thread.advance_counted (t : Thread) : t.advance.counted = none := rfl
@[simp] theorem Thread.advance_atIssue (t : Thread) : t.advance.atIssue = none := rfl
@[simp] theorem State.write_mem (s : State) (p : Nat) (data : List Byte) : (s.write p data).mem = s.mem.write p data := rfl
@[simp] theorem State.openUp_mem (s : State) (p n : Nat) : (s.openUp p n).mem = s.mem.forget p n (s.fresh + 1) := rfl
@[simp] theorem State.setCore_cores (s : State) (c : Nat) (v : Core) : (s.setCore c v).cores = NatMap.set s.cores c v := rfl
@[simp] theorem State.setDie_dies (s : State) (d : Nat) (v : Die) : (s.setDie d v).dies = NatMap.set s.dies d v := rfl
@[simp] theorem State.setJob_jobs (s : State) (j : Nat) (v : Job) : (s.setJob j v).jobs = NatMap.set s.jobs j v := rfl
@[simp] theorem State.setWl_worklists (s : State) (w : Nat) (v : Worklist) :
    (s.setWl w v).worklists = NatMap.set s.worklists w v := rfl
@[simp] theorem State.putSlot_slots (s : State) (k : Nat) (t : Thread) :
    (s.putSlot k t).slots = NatMap.set s.slots k (.busy t) := rfl
@[simp] theorem State.putThread_slots (s : State) (t : Thread) :
    (s.putThread t).slots = NatMap.set s.slots (s.cur.1 * 16 + s.cur.2) (.busy t) := rfl

/-! ### Maps by number -/

@[simp] theorem NatMap.get_set_same {α : Type} (m : NatMap α) (k : Nat) (v dflt : α) :
    NatMap.get (NatMap.set m k v) k dflt = v := by
  induction m with
  | nil => simp [NatMap.set, NatMap.get]
  | cons e rest ih =>
    obtain ⟨k', v'⟩ := e
    by_cases h1 : k < k'
    · simp [NatMap.set, NatMap.get, h1]
    · by_cases h2 : k = k'
      · simp [NatMap.set, NatMap.get, h2]
      · have h3 : ¬ k' = k := fun h => h2 h.symm
        simp [NatMap.set, NatMap.get, h1, h2, h3, ih]

theorem NatMap.get_set_other {α : Type} (m : NatMap α) (k j : Nat) (v dflt : α) (hj : j ≠ k) :
    NatMap.get (NatMap.set m k v) j dflt = NatMap.get m j dflt := by
  have hk : ¬ k = j := fun h => hj h.symm
  induction m with
  | nil => simp [NatMap.set, NatMap.get, hk]
  | cons e rest ih =>
    obtain ⟨k', v'⟩ := e
    by_cases h1 : k < k'
    · simp [NatMap.set, NatMap.get, h1, hk]
    · by_cases h2 : k = k'
      · subst h2; simp [NatMap.set, NatMap.get, hk]
      · simp [NatMap.set, NatMap.get, h1, h2, ih]

@[simp] theorem State.thread?_putThread (s : State) (t : Thread) : (s.putThread t).thread? = some t := by
  simp [State.thread?, State.threadIn, State.slot, State.putThread, State.setSlot]

@[simp] theorem State.core_setCore_same (s : State) (c : Nat) (v : Core) : (s.setCore c v).core c = v := by
  simp [State.core, State.setCore]

theorem State.core_setCore_other (s : State) (c c' : Nat) (v : Core) (h : c' ≠ c) :
    (s.setCore c v).core c' = s.core c' := by
  simp [State.core, State.setCore, NatMap.get_set_other _ _ _ _ _ h]

@[simp] theorem State.core_modCore_same (s : State) (c : Nat) (f : Core → Core) : (s.modCore c f).core c = f (s.core c) := by
  simp [State.modCore]

@[simp] theorem State.die_modDie_same (s : State) (d : Nat) (f : Die → Die) : (s.modDie d f).die d = f (s.die d) := by
  simp [State.modDie, State.die, State.setDie]

@[simp] theorem State.job_modJob_same (s : State) (j : Nat) (f : Job → Job) : (s.modJob j f).job j = f (s.job j) := by
  simp [State.modJob, State.job, State.setJob]

@[simp] theorem State.wl_modWl_same (s : State) (w : Nat) (f : Worklist → Worklist) : (s.modWl w f).wl w = f (s.wl w) := by
  simp [State.modWl, State.wl, State.setWl]

@[simp] theorem State.core_putThread (s : State) (t : Thread) (c : Nat) : (s.putThread t).core c = s.core c := rfl
@[simp] theorem State.die_putThread (s : State) (t : Thread) (d : Nat) : (s.putThread t).die d = s.die d := rfl
@[simp] theorem State.job_putThread (s : State) (t : Thread) (j : Nat) : (s.putThread t).job j = s.job j := rfl

end Sys2Proof.Machine
end

