-- ==== Sys2Proof/Laws/Memory.lean ====
section
/-!
SUPPORT. Memory: every operation keeps the canonical form, a read after a write gives what was written, and a write
leaves every other place alone.
-/
namespace Sys2Proof.Machine

/-! ### Listed bytes -/

theorem listedAt_nil (a : Nat) : listedAt [] a = none := rfl

theorem listedAt_cons (c : Host.Cell) (l : List Host.Cell) (a : Nat) :
    listedAt (c :: l) a = if c.1 = a then some c.2 else listedAt l a := by
  by_cases h : c.1 = a <;> simp [listedAt, h]

theorem listedAt_append (x y : List Host.Cell) (a : Nat) :
    listedAt (x ++ y) a = (listedAt x a).or (listedAt y a) := by
  induction x with
  | nil => simp [listedAt_nil]
  | cons c l ih => by_cases h : c.1 = a <;> simp [listedAt_cons, h, ih]

/-- A filter that looks at addresses alone. -/
theorem listedAt_filter (p : Nat → Bool) (l : List Host.Cell) (a : Nat) :
    listedAt (l.filter fun c => p c.1) a = if p a then listedAt l a else none := by
  induction l with
  | nil => simp [listedAt_nil]
  | cons c l ih =>
    by_cases hp : p c.1 <;> by_cases h : c.1 = a
    · subst h; simp [listedAt_cons, hp]
    · simp [listedAt_cons, hp, h, ih]
    · subst h; simp [hp, ih]
    · simp [listedAt_cons, hp, h, ih]

theorem listing_mem {a : Nat} {bytes : List Byte} {c : Host.Cell} (h : c ∈ listing a bytes) :
    a ≤ c.1 ∧ c.1 < a + bytes.length ∧ c.2 ≠ 0 := by
  induction bytes generalizing a with
  | nil => simp [listing] at h
  | cons b rest ih =>
    by_cases hb : b = 0
    · rw [listing, if_pos hb] at h
      have := ih h
      simp only [List.length_cons]
      exact ⟨by omega, by omega, this.2.2⟩
    · rw [listing, if_neg hb] at h
      rcases List.mem_cons.1 h with rfl | h
      · exact ⟨by simp, by simp, hb⟩
      · have := ih h
        simp only [List.length_cons]
        exact ⟨by omega, by omega, this.2.2⟩

theorem listing_pairwise (a : Nat) (bytes : List Byte) : (listing a bytes).Pairwise fun x y => x.1 < y.1 := by
  induction bytes generalizing a with
  | nil => simp [listing]
  | cons b rest ih =>
    by_cases hb : b = 0
    · rw [listing, if_pos hb]; exact ih _
    · rw [listing, if_neg hb, List.pairwise_cons]
      exact ⟨fun c hc => by have := (listing_mem hc).1; simp only; omega, ih _⟩

/-- The list entries of `bytes` give byte `i`, a zero by not being there. -/
theorem listedAt_listing (a : Nat) (bytes : List Byte) (i : Nat) (hi : i < bytes.length) :
    (listedAt (listing a bytes) (a + i)).getD 0 = bytes.getD i 0 := by
  induction bytes generalizing a i with
  | nil => simp at hi
  | cons b rest ih =>
    cases i with
    | zero =>
      by_cases hb : b = 0
      · have hno : listedAt (listing (a + 1) rest) a = none := by
          simp only [listedAt, Option.map_eq_none_iff, List.find?_eq_none]
          intro c hc
          have := (listing_mem hc).1
          simp only [decide_eq_true_eq]
          omega
        simp [listing, hb, hno]
      · rw [listing, if_neg hb, listedAt_cons]; simp
    | succ k =>
      have hk : k < rest.length := by simpa using hi
      have e : a + (k + 1) = a + 1 + k := by omega
      by_cases hb : b = 0
      · rw [listing, if_pos hb, e, ih _ _ hk]; simp
      · rw [listing, if_neg hb, listedAt_cons, if_neg (by simp only; omega), e, ih _ _ hk]; simp

theorem listedAt_listing_outside (a : Nat) (bytes : List Byte) (x : Nat) (h : x < a ∨ a + bytes.length ≤ x) :
    listedAt (listing a bytes) x = none := by
  simp only [listedAt, Option.map_eq_none_iff, List.find?_eq_none]
  intro c hc
  have := listing_mem hc
  simp only [decide_eq_true_eq]
  omega

/-! ### The canonical form -/

theorem rising_iff (l : List Host.Cell) : rising l = true ↔ l.Pairwise fun x y => x.1 < y.1 := by
  induction l with
  | nil => simp [rising]
  | cons a l ih =>
    cases l with
    | nil => simp [rising]
    | cons b rest =>
      rw [rising, Bool.and_eq_true, ih, decide_eq_true_eq, List.pairwise_cons (a := a)]
      constructor
      · rintro ⟨hab, hp⟩
        refine ⟨fun c hc => ?_, hp⟩
        rcases List.mem_cons.1 hc with rfl | hc
        · exact hab
        · exact Nat.lt_trans hab ((List.pairwise_cons.1 hp).1 c hc)
      · exact fun ⟨h1, hp⟩ => ⟨h1 b (by simp), hp⟩

theorem apart_iff (l : List Span) :
    apart l = true ↔ (∀ sp ∈ l, 0 < sp.len) ∧ l.Pairwise fun x y => x.base + x.len ≤ y.base := by
  induction l with
  | nil => simp [apart]
  | cons a l ih =>
    cases l with
    | nil => simp [apart]
    | cons b rest =>
      rw [apart, Bool.and_eq_true, Bool.and_eq_true, ih, decide_eq_true_eq, decide_eq_true_eq,
        List.pairwise_cons (a := a)]
      constructor
      · rintro ⟨⟨ha, hab⟩, hl, hp⟩
        refine ⟨fun sp hsp => ?_, fun c hc => ?_, hp⟩
        · rcases List.mem_cons.1 hsp with rfl | hsp
          · exact ha
          · exact hl sp hsp
        · rcases List.mem_cons.1 hc with rfl | hc
          · exact hab
          · have := (List.pairwise_cons.1 hp).1 c hc
            have := hl b (by simp)
            omega
      · exact fun ⟨hl, h1, hp⟩ => ⟨⟨hl a (by simp), h1 b (by simp)⟩, fun sp hsp => hl sp (List.mem_cons_of_mem _ hsp), hp⟩

/-- The canonical form, said without Booleans. -/
theorem Memory.wf_iff (m : Memory) :
    m.wf = true ↔ (m.cells.Pairwise fun x y => x.1 < y.1) ∧
      ((∀ sp ∈ m.spans, 0 < sp.len) ∧ m.spans.Pairwise fun x y => x.base + x.len ≤ y.base) ∧
      ∀ c ∈ m.cells, c.2 ≠ 0 ∧ m.spanAt c.1 = none := by
  simp [Memory.wf, rising_iff, apart_iff, and_assoc]

/-- A span covers an address. -/
abbrev Span.covers (sp : Span) (x : Nat) : Prop := sp.base ≤ x ∧ x < sp.base + sp.len

theorem Memory.spanAt_none_iff (m : Memory) (x : Nat) : m.spanAt x = none ↔ ∀ sp ∈ m.spans, ¬ sp.covers x := by
  simp [Memory.spanAt, Span.covers, List.find?_eq_none]

theorem Span.carve_mem {sp q : Span} {a n : Nat} (h : q ∈ sp.carve a n) :
    q.tag = sp.tag ∧ sp.base ≤ q.base ∧ q.base + q.len ≤ sp.base + sp.len ∧
      (0 < sp.len → 0 < q.len) ∧ (q.base + q.len ≤ a ∨ a + n ≤ q.base ∨ q.len = 0 ∨ n = 0) := by
  obtain ⟨base, len, tag⟩ := sp
  by_cases hc : a + n ≤ base ∨ base + len ≤ a
  · have e : Span.carve ⟨base, len, tag⟩ a n = [⟨base, len, tag⟩] := by simp [Span.carve, hc]
    rw [e] at h
    obtain rfl := List.mem_singleton.1 h
    exact ⟨rfl, Nat.le_refl _, Nat.le_refl _, id, by dsimp only; omega⟩
  · have e : Span.carve ⟨base, len, tag⟩ a n =
        (if base < a then [⟨base, a - base, tag⟩] else []) ++
          (if a + n < base + len then [⟨a + n, base + len - (a + n), tag⟩] else []) := by simp [Span.carve, hc]
    rw [e] at h
    rcases List.mem_append.1 h with h | h <;> split at h
    · obtain rfl := List.mem_singleton.1 h
      exact ⟨rfl, by dsimp only; omega, by dsimp only; omega, fun _ => by dsimp only; omega, by dsimp only; omega⟩
    · simp at h
    · obtain rfl := List.mem_singleton.1 h
      exact ⟨rfl, by dsimp only; omega, by dsimp only; omega, fun _ => by dsimp only; omega, by dsimp only; omega⟩
    · simp at h

/-- The pieces of a span cover what it covered outside the stretch. -/
theorem Span.carve_covers (sp : Span) (a n x : Nat) :
    (∃ q ∈ sp.carve a n, q.covers x) ↔ sp.covers x ∧ ¬ (a ≤ x ∧ x < a + n) := by
  obtain ⟨base, len, tag⟩ := sp
  by_cases hc : a + n ≤ base ∨ base + len ≤ a
  · have e : Span.carve ⟨base, len, tag⟩ a n = [⟨base, len, tag⟩] := by simp [Span.carve, hc]
    rw [e]
    simp only [List.mem_singleton, exists_eq_left, Span.covers]
    omega
  · have e : Span.carve ⟨base, len, tag⟩ a n =
        (if base < a then [⟨base, a - base, tag⟩] else []) ++
          (if a + n < base + len then [⟨a + n, base + len - (a + n), tag⟩] else []) := by simp [Span.carve, hc]
    rw [e]
    simp only [Span.covers, List.mem_append]
    constructor
    · rintro ⟨q, h | h, hq⟩
      · split at h
        · obtain rfl := List.mem_singleton.1 h; dsimp only at hq; omega
        · simp at h
      · split at h
        · obtain rfl := List.mem_singleton.1 h; dsimp only at hq; omega
        · simp at h
    · rintro ⟨h, hx⟩
      by_cases hxa : x < a
      · exact ⟨⟨base, a - base, tag⟩, .inl (by rw [if_pos (by omega)]; simp), by dsimp only; omega⟩
      · exact ⟨⟨a + n, base + len - (a + n), tag⟩, .inr (by rw [if_pos (by omega)]; simp), by dsimp only; omega⟩

theorem carve_spans_find (spans : List Span) (a n x : Nat) :
    (((spans.flatMap fun sp => sp.carve a n).find? fun sp => decide (sp.base ≤ x ∧ x < sp.base + sp.len)).map (·.tag)) =
      if a ≤ x ∧ x < a + n then none
      else (spans.find? fun sp => decide (sp.base ≤ x ∧ x < sp.base + sp.len)).map (·.tag) := by
  induction spans with
  | nil => simp
  | cons sp rest ih =>
    rw [List.flatMap_cons, List.find?_append, List.find?_cons]
    have hcov := Span.carve_covers sp a n x
    by_cases hin : ∃ q ∈ sp.carve a n, q.covers x
    · obtain ⟨hc, hx⟩ := hcov.1 hin
      cases hf : (sp.carve a n).find? fun sp => decide (sp.base ≤ x ∧ x < sp.base + sp.len) with
      | none =>
        obtain ⟨q, hq, hqc⟩ := hin
        exact absurd (List.find?_eq_none.1 hf q hq) (by simpa using hqc)
      | some q =>
        have := (Span.carve_mem (List.mem_of_find?_eq_some hf)).1
        simp [hx, hc.1, hc.2, this]
    · have hf : (sp.carve a n).find? (fun sp => decide (sp.base ≤ x ∧ x < sp.base + sp.len)) = none := by
        rw [List.find?_eq_none]
        intro q hq hqc
        exact hin ⟨q, hq, by simpa using hqc⟩
      rw [hf, Option.none_or, ih]
      by_cases hx : a ≤ x ∧ x < a + n
      · simp [hx]
      · have : ¬ sp.covers x := fun hc => hin (hcov.2 ⟨hc, hx⟩)
        simp only [Span.covers] at this
        simp [hx, this]

theorem Memory.unlisted_eq (m : Memory) (x : Nat) :
    m.unlisted x = ((m.spanAt x).map (·.tag)).elim 0 fun tag => Config.openByte tag x := by
  unfold Memory.unlisted
  cases m.spanAt x <;> rfl

/-! ### Writing -/

theorem Memory.write_nil (m : Memory) (a : Nat) : m.write a [] = m := by simp [Memory.write]

theorem Memory.write_cells (m : Memory) (a : Nat) (bytes : List Byte) (h : bytes ≠ []) :
    (m.write a bytes).cells = (m.cells.filter fun c => decide (c.1 < a)) ++ listing a bytes ++
      (m.cells.filter fun c => decide (a + bytes.length ≤ c.1)) := by
  simp [Memory.write, h]

/-- What an unlisted address reads as after a write. -/
theorem Memory.unlisted_write (m : Memory) (a : Nat) (bytes : List Byte) (x : Nat) :
    (m.write a bytes).unlisted x = if a ≤ x ∧ x < a + bytes.length then 0 else m.unlisted x := by
  by_cases h : bytes = []
  · subst h; simp only [Memory.write_nil, List.length_nil]; rw [if_neg (by omega)]
  · rw [Memory.unlisted_eq, Memory.unlisted_eq]
    have := carve_spans_find m.spans a bytes.length x
    simp only [Memory.spanAt, Memory.write, h, if_false] at *
    rw [this]
    split <;> simp

/-- A write leaves every other place alone. -/
theorem Memory.byte_write_outside (m : Memory) (a : Nat) (bytes : List Byte) (x : Nat)
    (h : x < a ∨ a + bytes.length ≤ x) : (m.write a bytes).byte x = m.byte x := by
  by_cases hb : bytes = []
  · subst hb; rw [Memory.write_nil]
  · have hu := Memory.unlisted_write m a bytes x
    rw [if_neg (by omega)] at hu
    unfold Memory.byte
    rw [hu, Memory.write_cells m a bytes hb, listedAt_append, listedAt_append, listedAt_filter (fun y => decide (y < a)),
      listedAt_filter (fun y => decide (a + bytes.length ≤ y)), listedAt_listing_outside a bytes x h]
    rcases h with h | h
    · have h2 : ¬ a + bytes.length ≤ x := by omega
      simp [h, h2]
    · have h2 : ¬ x < a := by omega
      simp [h, h2]

/-- A read after a write gives what was written. -/
theorem Memory.byte_write_inside (m : Memory) (a : Nat) (bytes : List Byte) (i : Nat) (hi : i < bytes.length) :
    (m.write a bytes).byte (a + i) = bytes.getD i 0 := by
  have hb : bytes ≠ [] := by rintro rfl; simp at hi
  have hu := Memory.unlisted_write m a bytes (a + i)
  rw [if_pos (by omega)] at hu
  unfold Memory.byte
  have h1 : ¬ (a + i < a) := by omega
  have h2 : ¬ (a + bytes.length ≤ a + i) := by omega
  rw [hu, Memory.write_cells m a bytes hb, listedAt_append, listedAt_append, listedAt_filter (fun y => decide (y < a)),
    listedAt_filter (fun y => decide (a + bytes.length ≤ y)), ← listedAt_listing a bytes i hi]
  simp [h1, h2]

/-- A write keeps the canonical form. -/
theorem Memory.wf_write (m : Memory) (a : Nat) (bytes : List Byte) (h : m.wf = true) : (m.write a bytes).wf = true := by
  by_cases hb : bytes = []
  · subst hb; rwa [Memory.write_nil]
  · obtain ⟨hr, ⟨hl, hp⟩, hc⟩ := (Memory.wf_iff m).1 h
    rw [Memory.wf_iff]
    refine ⟨?_, ⟨?_, ?_⟩, ?_⟩
    · rw [Memory.write_cells m a bytes hb, List.pairwise_append, List.pairwise_append]
      refine ⟨⟨hr.filter _, listing_pairwise a bytes, ?_⟩, hr.filter _, ?_⟩
      · intro x hx y hy
        have := (listing_mem hy).1
        have := of_decide_eq_true (List.mem_filter.1 hx).2
        omega
      · intro x hx y hy
        have hy' := of_decide_eq_true (List.mem_filter.1 hy).2
        rcases List.mem_append.1 hx with hx | hx
        · have := of_decide_eq_true (List.mem_filter.1 hx).2
          omega
        · have := (listing_mem hx).2.1
          omega
    · simp only [Memory.write, hb, if_false, List.mem_flatMap]
      rintro q ⟨sp, hsp, hq⟩
      exact (Span.carve_mem hq).2.2.2.1 (hl sp hsp)
    · simp only [Memory.write, hb, if_false]
      exact carve_pairwise hl hp a bytes.length
    · intro c hcm
      have hu : ((m.write a bytes).spanAt c.1).map (·.tag) = if a ≤ c.1 ∧ c.1 < a + bytes.length then none
          else (m.spanAt c.1).map (·.tag) := by
        have := carve_spans_find m.spans a bytes.length c.1
        simpa [Memory.spanAt, Memory.write, hb] using this
      rw [Memory.write_cells m a bytes hb] at hcm
      have key : ∀ o : Option Span, o.map (·.tag) = none → o = none := by intro o ho; simpa using ho
      rcases List.mem_append.1 hcm with hcm | hcm
      · rcases List.mem_append.1 hcm with hcm | hcm
        · have h' := hc c (List.mem_filter.1 hcm).1
          refine ⟨h'.1, key _ ?_⟩
          rw [hu, h'.2]; split <;> rfl
        · have h' := listing_mem hcm
          refine ⟨h'.2.2, key _ ?_⟩
          rw [hu, if_pos ⟨h'.1, h'.2.1⟩]
      · have h' := hc c (List.mem_filter.1 hcm).1
        refine ⟨h'.1, key _ ?_⟩
        rw [hu, h'.2]; split <;> rfl
where
  carve_pairwise {spans : List Span} (hl : ∀ sp ∈ spans, 0 < sp.len)
      (hp : spans.Pairwise fun x y => x.base + x.len ≤ y.base) (a n : Nat) :
      (spans.flatMap fun sp => sp.carve a n).Pairwise fun x y => x.base + x.len ≤ y.base := by
    induction spans with
    | nil => simp
    | cons sp rest ih =>
      rw [List.flatMap_cons, List.pairwise_append]
      obtain ⟨h1, h2⟩ := List.pairwise_cons.1 hp
      refine ⟨?_, ih (fun q hq => hl q (List.mem_cons_of_mem _ hq)) h2, ?_⟩
      · unfold Span.carve
        split
        · simp
        · split <;> split <;> simp <;> omega
      · intro x hx y hy
        obtain ⟨q, hq, hyq⟩ := List.mem_flatMap.1 hy
        have := h1 q hq
        have hx' := Span.carve_mem hx
        have hy' := Span.carve_mem hyq
        omega

/-! ### Contents that become open -/

theorem Memory.forget_zero (m : Memory) (a tag : Nat) : m.forget a 0 tag = m := by simp [Memory.forget]

theorem insertSpan_mem {spans : List Span} {new q : Span} : q ∈ insertSpan spans new ↔ q = new ∨ q ∈ spans := by
  induction spans with
  | nil => simp [insertSpan]
  | cons sp rest ih =>
    rw [insertSpan]
    split
    · simp
    · simp only [List.mem_cons, ih]; constructor <;> rintro (h | h | h) <;> simp [h]

theorem insertSpan_pairwise {spans : List Span} {new : Span} (hnew : 0 < new.len)
    (hp : spans.Pairwise fun x y => x.base + x.len ≤ y.base)
    (hd : ∀ sp ∈ spans, sp.base + sp.len ≤ new.base ∨ new.base + new.len ≤ sp.base) (hl : ∀ sp ∈ spans, 0 < sp.len) :
    (insertSpan spans new).Pairwise fun x y => x.base + x.len ≤ y.base := by
  induction spans with
  | nil => simp [insertSpan]
  | cons sp rest ih =>
    obtain ⟨h1, h2⟩ := List.pairwise_cons.1 hp
    have hsp := hd sp (by simp)
    have hlsp := hl sp (by simp)
    rw [insertSpan]
    split
    · rename_i hlt
      rw [List.pairwise_cons]
      refine ⟨fun q hq => ?_, hp⟩
      rcases List.mem_cons.1 hq with rfl | hq
      · omega
      · have := h1 q hq
        omega
    · rename_i hlt
      rw [List.pairwise_cons]
      refine ⟨fun q hq => ?_, ih h2 (fun x hx => hd x (List.mem_cons_of_mem _ hx)) fun x hx => hl x (List.mem_cons_of_mem _ hx)⟩
      rcases insertSpan_mem.1 hq with rfl | hq
      · omega
      · exact h1 q hq

theorem insertSpan_find_outside (spans : List Span) (new : Span) (x : Nat) (h : ¬ new.covers x) :
    (insertSpan spans new).find? (fun sp => decide (sp.base ≤ x ∧ x < sp.base + sp.len)) =
      spans.find? fun sp => decide (sp.base ≤ x ∧ x < sp.base + sp.len) := by
  simp only [Span.covers] at h
  induction spans with
  | nil => simp [insertSpan, h]
  | cons sp rest ih =>
    rw [insertSpan]
    split
    · rw [List.find?_cons]; simp [h]
    · rw [List.find?_cons, List.find?_cons, ih]

/-- Outside the stretch whose contents have become open nothing changes. -/
theorem Memory.byte_forget_outside (m : Memory) (a n tag x : Nat) (h : x < a ∨ a + n ≤ x) :
    (m.forget a n tag).byte x = m.byte x := by
  by_cases hn : n = 0
  · subst hn; rw [Memory.forget_zero]
  · have hu : (m.forget a n tag).unlisted x = m.unlisted x := by
      rw [Memory.unlisted_eq, Memory.unlisted_eq]
      have h1 := carve_spans_find m.spans a n x
      rw [if_neg (by omega)] at h1
      simp only [Memory.spanAt, Memory.forget, hn, if_false]
      rw [insertSpan_find_outside _ _ _ (by simp only [Span.covers]; omega), h1]
    unfold Memory.byte
    rw [hu]
    simp only [Memory.forget, hn, if_false]
    rw [listedAt_append, listedAt_filter (fun y => decide (y < a)), listedAt_filter (fun y => decide (a + n ≤ y))]
    rcases h with h | h
    · have h2 : ¬ a + n ≤ x := by omega
      simp [h, h2]
    · have h2 : ¬ x < a := by omega
      simp [h, h2]

/-- Contents that become open keep the canonical form. -/
theorem Memory.wf_forget (m : Memory) (a n tag : Nat) (h : m.wf = true) : (m.forget a n tag).wf = true := by
  by_cases hn : n = 0
  · subst hn; rwa [Memory.forget_zero]
  · obtain ⟨hr, ⟨hl, hp⟩, hc⟩ := (Memory.wf_iff m).1 h
    have hcl : ∀ q ∈ m.spans.flatMap fun sp => sp.carve a n, 0 < q.len := by
      intro q hq
      obtain ⟨sp, hsp, hq⟩ := List.mem_flatMap.1 hq
      exact (Span.carve_mem hq).2.2.2.1 (hl sp hsp)
    rw [Memory.wf_iff]
    simp only [Memory.forget, hn, if_false]
    refine ⟨?_, ⟨?_, ?_⟩, ?_⟩
    · rw [List.pairwise_append]
      refine ⟨hr.filter _, hr.filter _, ?_⟩
      intro x hx y hy
      have := of_decide_eq_true (List.mem_filter.1 hx).2
      have := of_decide_eq_true (List.mem_filter.1 hy).2
      omega
    · intro q hq
      rcases insertSpan_mem.1 hq with rfl | hq
      · simp only; omega
      · exact hcl q hq
    · refine insertSpan_pairwise (by simp only; omega) (Memory.wf_write.carve_pairwise hl hp a n) ?_ hcl
      intro q hq
      obtain ⟨sp, hsp, hq'⟩ := List.mem_flatMap.1 hq
      have := (Span.carve_mem hq').2.2.2.2
      have := hcl q hq
      simp only
      omega
    · intro c hcm
      have hmem : c ∈ m.cells ∧ ¬ (a ≤ c.1 ∧ c.1 < a + n) := by
        rcases List.mem_append.1 hcm with hcm | hcm
        · have := of_decide_eq_true (List.mem_filter.1 hcm).2
          exact ⟨(List.mem_filter.1 hcm).1, by omega⟩
        · have := of_decide_eq_true (List.mem_filter.1 hcm).2
          exact ⟨(List.mem_filter.1 hcm).1, by omega⟩
      obtain ⟨hcz, hcs⟩ := hc c hmem.1
      refine ⟨hcz, ?_⟩
      have h1 := carve_spans_find m.spans a n c.1
      rw [if_neg hmem.2] at h1
      simp only [Memory.spanAt] at hcs ⊢
      rw [insertSpan_find_outside _ _ _ (by simp only [Span.covers]; omega)]
      rw [hcs] at h1
      simpa using h1

/-! ### Stretches wiped -/

theorem Memory.unlisted_wipe (m : Memory) (a n x : Nat) :
    (m.wipe a n).unlisted x = if a ≤ x ∧ x < a + n then 0 else m.unlisted x := by
  rw [Memory.unlisted_eq, Memory.unlisted_eq]
  have := carve_spans_find m.spans a n x
  simp only [Memory.spanAt, Memory.wipe] at *
  rw [this]
  split <;> simp

theorem Memory.listedAt_wipe (m : Memory) (a n x : Nat) :
    listedAt (m.wipe a n).cells x = if a ≤ x ∧ x < a + n then none else listedAt m.cells x := by
  rw [Memory.wipe, listedAt_append, listedAt_filter (fun y => decide (y < a)), listedAt_filter (fun y => decide (a + n ≤ y))]
  by_cases h1 : x < a
  · have h2 : ¬ (a ≤ x ∧ x < a + n) := by omega
    by_cases h3 : a + n ≤ x <;> simp [h1, h2, h3]
  · by_cases h2 : a + n ≤ x
    · have h3 : ¬ (a ≤ x ∧ x < a + n) := by omega
      simp [h1, h2, h3]
    · have h3 : a ≤ x ∧ x < a + n := by omega
      simp [h1, h2, h3]

/-- A wiped stretch reads as zero, and every other place as before. -/
theorem Memory.byte_wipe (m : Memory) (a n x : Nat) :
    (m.wipe a n).byte x = if a ≤ x ∧ x < a + n then 0 else m.byte x := by
  unfold Memory.byte
  rw [Memory.unlisted_wipe, Memory.listedAt_wipe]
  split <;> simp

/-- A wiped stretch keeps the canonical form. -/
theorem Memory.wf_wipe (m : Memory) (a n : Nat) (hn : 0 < n) (h : m.wf = true) : (m.wipe a n).wf = true := by
  obtain ⟨hr, ⟨hl, hp⟩, hc⟩ := (Memory.wf_iff m).1 h
  rw [Memory.wf_iff]
  refine ⟨?_, ⟨?_, Memory.wf_write.carve_pairwise hl hp a n⟩, ?_⟩
  · simp only [Memory.wipe]
    rw [List.pairwise_append]
    refine ⟨hr.filter _, hr.filter _, ?_⟩
    intro x hx y hy
    have := of_decide_eq_true (List.mem_filter.1 hx).2
    have := of_decide_eq_true (List.mem_filter.1 hy).2
    omega
  · intro q hq
    obtain ⟨sp, hsp, hq⟩ := List.mem_flatMap.1 hq
    exact (Span.carve_mem hq).2.2.2.1 (hl sp hsp)
  · intro c hcm
    have hmem : c ∈ m.cells ∧ ¬ (a ≤ c.1 ∧ c.1 < a + n) := by
      rcases List.mem_append.1 hcm with hcm | hcm
      · have := of_decide_eq_true (List.mem_filter.1 hcm).2
        exact ⟨(List.mem_filter.1 hcm).1, by omega⟩
      · have := of_decide_eq_true (List.mem_filter.1 hcm).2
        exact ⟨(List.mem_filter.1 hcm).1, by omega⟩
    obtain ⟨hcz, hcs⟩ := hc c hmem.1
    refine ⟨hcz, ?_⟩
    have h1 := carve_spans_find m.spans a n c.1
    rw [if_neg hmem.2] at h1
    simp only [Memory.spanAt, Memory.wipe] at hcs ⊢
    rw [hcs] at h1
    simpa using h1

/-! ### Reading -/

/-- A read is the bytes one by one. -/
theorem Memory.read_eq (m : Memory) (a n : Nat) : m.read a n = (List.range n).map fun i => m.byte (a + i) := by
  have piece : ∀ k ∈ List.range ((n + 63) / 64),
      ((List.range (Nat.min 64 (n - 64 * k))).map fun i =>
        (listedAt ((m.cells.filter fun c => decide (a ≤ c.1 ∧ c.1 < a + n)).filter fun c =>
          decide (a + 64 * k ≤ c.1 ∧ c.1 < a + 64 * k + Nat.min 64 (n - 64 * k))) (a + 64 * k + i)).getD
            (m.unlisted (a + 64 * k + i))) =
      (List.range (Nat.min 64 (n - 64 * k))).map fun i => m.byte (a + (64 * k + i)) := by
    intro k hk
    apply List.map_congr_left
    intro i hi
    have hi := List.mem_range.1 hi
    have hk := List.mem_range.1 hk
    have h64 : Nat.min 64 (n - 64 * k) ≤ n - 64 * k := Nat.min_le_right _ _
    rw [listedAt_filter (fun x => decide (a + 64 * k ≤ x ∧ x < a + 64 * k + Nat.min 64 (n - 64 * k))),
      listedAt_filter (fun x => decide (a ≤ x ∧ x < a + n)), if_pos (by simp only [decide_eq_true_eq]; omega),
      if_pos (by simp only [decide_eq_true_eq]; omega), Nat.add_assoc]
    rfl
  unfold Memory.read
  dsimp only
  rw [List.flatMap, List.map_congr_left piece, ← List.flatMap, pieces (fun i => m.byte (a + i)) n]
where
  pieces {β : Type} (f : Nat → β) (n : Nat) :
      ((List.range ((n + 63) / 64)).flatMap fun k => (List.range (Nat.min 64 (n - 64 * k))).map fun i => f (64 * k + i)) =
        (List.range n).map f := by
    have h : ∀ q, 64 * q ≤ n → ((List.range q).flatMap fun k => (List.range (Nat.min 64 (n - 64 * k))).map fun i =>
        f (64 * k + i)) = (List.range (64 * q)).map f := by
      intro q hq
      induction q with
      | zero => rfl
      | succ q ih =>
        have e : Nat.min 64 (n - 64 * q) = 64 := Nat.min_eq_left (by omega)
        rw [List.range_succ, List.flatMap_append, ih (by omega), List.flatMap_singleton, e,
          show 64 * (q + 1) = 64 * q + 64 by omega, List.range_add, List.map_append, List.map_map]
        rfl
    by_cases hd : 64 * (n / 64) = n
    · rw [show (n + 63) / 64 = n / 64 by omega, h _ (by omega), hd]
    · have e : Nat.min 64 (n - 64 * (n / 64)) = n - 64 * (n / 64) := Nat.min_eq_right (by omega)
      rw [show (n + 63) / 64 = n / 64 + 1 by omega, List.range_succ, List.flatMap_append, h _ (by omega),
        List.flatMap_singleton, e]
      conv => rhs; rw [show n = 64 * (n / 64) + (n - 64 * (n / 64)) by omega, List.range_add, List.map_append, List.map_map]
      rfl

/-- A read of bytes that a write does not touch gives what it gave. -/
theorem Memory.read_write_outside (m : Memory) (a : Nat) (bytes : List Byte) (p n : Nat)
    (h : p + n ≤ a ∨ a + bytes.length ≤ p) : (m.write a bytes).read p n = m.read p n := by
  rw [Memory.read_eq, Memory.read_eq]
  apply List.map_congr_left
  intro i hi
  have := List.mem_range.1 hi
  exact Memory.byte_write_outside m a bytes _ (by omega)

/-- A read of what a write has just written gives it back. -/
theorem Memory.read_write_same (m : Memory) (a : Nat) (bytes : List Byte) :
    (m.write a bytes).read a bytes.length = bytes := by
  rw [Memory.read_eq]
  apply List.ext_getElem
  · simp
  · intro i h1 h2
    have := Memory.byte_write_inside m a bytes i h2
    simp [this, h2]

end Sys2Proof.Machine
end

