-- ==== Sys2Proof/Laws/Ops.lean ====
section
/-!
SUPPORT. What the frame of a meaning does, said once: an instruction that its thread can issue runs its meaning; sources
that can be read are read; a result that the thread keeps is written and the next word follows.
-/
namespace Sys2Proof.Machine

variable {i : Instr} {s : State} {t : Thread}

/-- An instruction that can be issued runs its meaning. -/
theorem run_issues (m : State → Thread → Except Stop Eff) (h : Issuable i s t) : run i m s = .next (finish i s t (m s t)) := by
  simp [run, h.resident, encodingOk, h.formed, h.hinted]

/-- Encoding checks that fail take the illegal-instruction trap before anything else. -/
theorem run_illegal (m : State → Thread → Except Stop Eff) (hr : s.thread? = some t)
    (h : (i.wf && hintsOk i t.hints) = false) : run i m s = .next (finish i s t (.error (illegal i))) := by
  simp [run, hr, encodingOk, h]

/-- A slot without a thread is the one way in which a word's meaning stops. -/
theorem run_noThread (m : State → Thread → Except Stop Eff) (hr : s.thread? = none) : run i m s = .fault .noThread := by
  simp [run, hr]

theorem run_next_or_noThread (m : State → Thread → Except Stop Eff) :
    (∃ s', run i m s = .next s') ∨ s.thread? = none := by
  cases h : s.thread? with
  | none => exact .inr rfl
  | some t => exact .inl ⟨_, by simp only [run, h]; rfl⟩

theorem noneBad {gs : List (BitVec 5)} {vs : List Nat} (hg : ∀ r ∈ gs, t.gBad r = false) (hv : ∀ r ∈ vs, t.vBad r = false) :
    (gs.any t.gBad || vs.any t.vBad) = false := by
  simpa using And.intro hg hv

theorem readSources_readable {gs : List (BitVec 5)} {vs : List Nat} (h : Readable t gs vs) :
    readSources s t gs vs = .ok (s, t) := by
  have h1 : gs.all t.gIsFull = true := List.all_eq_true.2 h.g
  have h2 : vs.all t.vIsFull = true := List.all_eq_true.2 h.v
  have h3 : (t.port.en && gs.contains 28) = false := by
    cases he : t.port.en with
    | false => rfl
    | true => simpa using h.noPin he
  rw [readSources, h1, h2, h3, noneBad h.gGood h.vGood]
  rfl

theorem withSources_readable {gs : List (BitVec 5)} {vs : List Nat} (f : State → Thread → Except Stop Eff)
    (h : Readable t gs vs) : withSources s t gs vs f = f s t := by
  simp [withSources, readSources_readable h]

/-- PIN among the sources gives the flit at the head of its queue (R142, R318). -/
theorem readSources_pin {gs : List (BitVec 5)} {vs : List Nat} {flit : Word} {rest : List Word}
    (hg : ∀ r ∈ gs, t.gIsFull r = true) (hv : ∀ r ∈ vs, t.vIsFull r = true) (hb : ∀ r ∈ gs, t.gBad r = false)
    (hw : ∀ r ∈ vs, t.vBad r = false) (he : t.port.en = true) (h28 : (28 : BitVec 5) ∈ gs) (ht : t.taken = none) (hr : t.inRegion = false)
    (hq : s.queue s.cur.1 t.pinQueue = flit :: rest) :
    readSources s t gs vs = .ok ((s.setQueue s.cur.1 t.pinQueue rest).queueRoom s.cur.1 t.pinQueue,
      { t with taken := some (t.pinQueue, flit) }) := by
  have h1 : gs.all t.gIsFull = true := List.all_eq_true.2 hg
  have h2 : vs.all t.vIsFull = true := List.all_eq_true.2 hv
  have h3 : (t.port.en && gs.contains 28) = true := by simpa [he] using h28
  have h4 : reserve s s.cur.1 t = .ok () := by simp [reserve, reserveAll, hr]
  rw [readSources, h1, h2, h3, noneBad hb hw]
  simp [takePin, ht, hq, h4, logOp, hr]

/-- A flit that has been taken already is read again (R142). -/
theorem readSources_taken {gs : List (BitVec 5)} {vs : List Nat} {x : Nat × Word}
    (hg : ∀ r ∈ gs, t.gIsFull r = true) (hv : ∀ r ∈ vs, t.vIsFull r = true) (hb : ∀ r ∈ gs, t.gBad r = false)
    (hw : ∀ r ∈ vs, t.vBad r = false) (ht : t.taken = some x) : readSources s t gs vs = .ok (s, t) := by
  have h1 : gs.all t.gIsFull = true := List.all_eq_true.2 hg
  have h2 : vs.all t.vIsFull = true := List.all_eq_true.2 hv
  rw [readSources, h1, h2, noneBad hb hw]
  simp [takePin, ht]

/-- PIN with an empty queue parks the thread (R142). -/
theorem readSources_noFlit {gs : List (BitVec 5)} {vs : List Nat}
    (hg : ∀ r ∈ gs, t.gIsFull r = true) (hv : ∀ r ∈ vs, t.vIsFull r = true) (hb : ∀ r ∈ gs, t.gBad r = false)
    (hw : ∀ r ∈ vs, t.vBad r = false) (he : t.port.en = true) (h28 : (28 : BitVec 5) ∈ gs) (ht : t.taken = none) (hr : t.inRegion = false)
    (hq : s.queue s.cur.1 t.pinQueue = []) :
    readSources s t gs vs = .error (.park (.retry (.pinQueue t.pinQueue s.pushSeq))) := by
  have h1 : gs.all t.gIsFull = true := List.all_eq_true.2 hg
  have h2 : vs.all t.vIsFull = true := List.all_eq_true.2 hv
  have h3 : (t.port.en && gs.contains 28) = true := by simpa [he] using h28
  have h4 : reserve s s.cur.1 t = .ok () := by simp [reserve, reserveAll, hr]
  rw [readSources, h1, h2, h3, noneBad hb hw]
  simp [takePin, ht, hq, h4]

/-- A source that is empty parks the thread (R318). -/
theorem withSources_empty {gs : List (BitVec 5)} {vs : List Nat} (f : State → Thread → Except Stop Eff)
    (h : (gs.all t.gIsFull && vs.all t.vIsFull) = false) :
    withSources s t gs vs f = .error (.park (.retry
      (.register (gs.filter fun r => !t.gIsFull r) (vs.filter fun r => !t.vIsFull r)))) := by
  simp [withSources, readSources, h]

theorem writeG_keeps {d : BitVec 5} (w : Word) (core : Nat) (h : t.keeps d) :
    writeG s core t d w = .ok (s, t.wrote d w) := by
  unfold writeG Thread.wrote
  cases he : t.port.en with
  | false => simp
  | true =>
    have h29 : d ≠ 29 := fun hd => h ⟨he, hd⟩
    by_cases h28 : d = 28
    · subst h28; rfl
    · rw [if_neg (by simpa using h28), if_neg (by simpa using h29), if_neg (by simpa using h28)]

theorem retG_keeps {d : BitVec 5} (w : Word) (h : t.keeps d) : retG s t d w = .ok (.next s (t.wrote d w)) := by
  simp [retG, writeG_keeps w _ h]

/-- A result for POUT joins the queue downstream (R142, R319). -/
theorem retG_pout {d : BitVec 5} (w : Word) (he : t.port.en = true) (hd : d = 29) (hr : t.inRegion = false)
    (hq : s.poutRoom (t.poutTarget s.cur.1).1 (t.poutTarget s.cur.1).2 = true) :
    retG s t d w = .ok (.next (s.pushFlit (t.poutTarget s.cur.1).1 (t.poutTarget s.cur.1).2 w) t) := by
  subst hd
  simp [retG, writeG, he, hr, hq]

theorem retG_poutFull {d : BitVec 5} (w : Word) (he : t.port.en = true) (hd : d = 29) (hr : t.inRegion = false)
    (hq : s.poutRoom (t.poutTarget s.cur.1).1 (t.poutTarget s.cur.1).2 = false) :
    retG s t d w = .ok (.parked s t
      (.pout (t.poutTarget s.cur.1).1 (t.poutTarget s.cur.1).2 w s.pushSeq (t.pc + 4))) := by
  subst hd
  simp [retG, writeG, he, hr, hq]

theorem finish_next (s1 : State) (t1 : Thread) (h : t.atLastWord = false) :
    finish i s t (.ok (.next s1 t1)) = s1.putThread t1.advance := by
  simp [finish, h]

theorem finish_goto (s1 : State) (t1 : Thread) (pc : BitVec 19) : finish i s t (.ok (.goto s1 t1 pc)) =
    s1.putThread (t1.movedTo pc) := rfl

theorem finish_stay (s1 : State) (t1 : Thread) : finish i s t (.ok (.stay s1 t1)) = s1.putThread t1 := rfl

theorem finish_gone (s1 : State) : finish i s t (.ok (.gone s1)) = s1 := rfl

theorem finish_parked (s1 : State) (t1 : Thread) (p : Park) (h : t.atLastWord = false) :
    finish i s t (.ok (.parked s1 t1 p)) = parkIn s1 s.curSlot t1 p := by
  simp [finish, h]

theorem finish_trap (c : Nat) (v : Word) : finish i s t (.error (.trap c v)) = takeTrap s s.curSlot t c v := rfl

theorem finish_park (p : Park) (h : t.atLastWord = false) : finish i s t (.error (.park p)) = parkIn s s.curSlot t p := by
  simp [finish, h]

/-- A meaning that ends with a result for a register the thread keeps. -/
theorem finish_retG {d : BitVec 5} {w : Word} (hl : t.atLastWord = false) (hk : t.keeps d) :
    finish i s t (retG s t d w) = s.putThread (t.wrote d w).advance := by
  rw [retG_keeps w hk, finish_next _ _ hl]

@[simp] theorem Thread.wrote_closing (d : BitVec 5) (w : Word) : (t.wrote d w).closing = t.closing := by
  unfold Thread.wrote; split <;> simp

/-- The end of a parked instruction of a thread that closes no region. -/
theorem Thread.complete_open (h : t.closing = false) : t.complete = t.advance := by simp [Thread.complete, h]

/-- A parked instruction's result for a register that the thread keeps (R135). -/
theorem deliverG_keeps {d : BitVec 5} {k : Nat} (w : Word) (h : t.keeps d) (hc : t.closing = false) :
    deliverG s k t d w = (s.putSlot k (t.wrote d w).advance).wake k := by
  have e : (t.wrote d w).complete = (t.wrote d w).advance := Thread.complete_open (by simp [hc])
  rw [deliverG, writeG_keeps w _ h]
  simp only [e]
  rfl

/-! ### What a result does to the registers -/

theorem Thread.wrote_gVal_same {d : BitVec 5} {w : Word} (hp : t.port.en = false) (hg : t.g.length = 32) :
    (t.wrote d w).gVal d = if d = 0 then 0 else w := by
  have hlt : d.toNat < t.g.length := by rw [hg]; exact d.isLt
  have hw : t.wrote d w = t.fillG d w := by rw [Thread.wrote, if_neg (by simp [hp])]
  by_cases h0 : d = 0
  · subst h0; rfl
  · have hf : (t.fillG d w).g = t.g.set d.toNat w := by rw [Thread.fillG, if_neg h0]
    rw [hw, Thread.gVal, if_neg h0, if_neg h0, Thread.fillG_port, hp, hf]
    simp [hlt]

theorem Thread.wrote_gVal_other {d r : BitVec 5} {w : Word} (h : r ≠ d) : (t.wrote d w).gVal r = t.gVal r := by
  have hne : ¬ d.toNat = r.toNat := fun e => h (BitVec.eq_of_toNat_eq e.symm)
  unfold Thread.wrote
  split
  · rfl
  · unfold Thread.fillG
    split
    · rfl
    · simp only [Thread.gVal, List.getD, List.getElem?_set_ne hne]

/-! ### Checks, flags and accesses -/

@[simp] theorem check_true (e : Stop) (rest : Except Stop Eff) : check true e rest = rest := rfl
@[simp] theorem check_false (e : Stop) (rest : Except Stop Eff) : check false e rest = .error e := rfl

/-- Flags of which none is enabled are made sticky (R207). -/
theorem Thread.raise_ok {f : FlagSet} (h : f &&& t.enables = 0) : t.raise f = .ok (t.flagged f) := by
  simp [Thread.raise, h]

/-- An enabled flag traps and raises none of them (R208). -/
theorem Thread.raise_trap {f : FlagSet} (h : f &&& t.enables ≠ 0) : t.raise f = .error (.trap 15 (f.zeroExtend 64)) := by
  rw [Thread.raise, if_neg h]

/-! ### Traps -/

/-- A trap outside a handler enters one (R248). -/
theorem takeTrap_enters {k : Nat} {c : Nat} {v : Word} (hp : t.trail.lag = []) (h : t.hnd = false) (ht : t.taken = none) (hc : t.counted = none) :
    takeTrap s k t c v = (s.putSlot k (t.enterTrap (s.core (k / 16)).svec c v)).wake k := by
  simp [takeTrap, hp, h, hc, giveBack, ht]

/-! ### What releases the thread's earlier stores (R228, R238) -/

theorem released_free {f : Except Stop Eff} (h : s.blocked t.uid = false) : released s t f = f := by
  simp [released, check, h]

theorem released_blocked {f : Except Stop Eff} (h : s.blocked t.uid = true) : released s t f = .error (.park (.retry .stores)) := by
  simp [released, check, h]

end Sys2Proof.Machine
end

