-- ==== Sys2Proof/Laws/Access.lean ====
section
/-!
SUPPORT. Accesses: what an address names, the checks of one address, and what an access to the own local memory or to
a page comes to.
-/
namespace Sys2Proof.Machine

/-! ### What an address names (R155, R156) -/

theorem fixedRow_off {m o iss c off : Nat} {al own : Bool} (h : fixedRow m o iss al = some (.localMem c off own)) :
    off < 0x8_0000 := by
  unfold fixedRow at h
  split at h
  · simp at h; omega
  · split at h <;> simp at h

theorem isCanonical_of_lt {va : Word} (h : va.toNat < 2 ^ 51) : isCanonical va = true := by
  have h1 : (va.extractLsb' 0 52).toNat = va.toNat := by
    rw [BitVec.extractLsb'_toNat, Nat.shiftRight_zero, Nat.mod_eq_of_lt (by omega)]
  have h2 : (va.extractLsb' 0 52).msb = false := by
    rw [BitVec.msb_eq_decide, h1]; simp; omega
  unfold isCanonical
  rw [beq_iff_eq]
  apply BitVec.eq_of_toNat_eq
  rw [BitVec.signExtend_eq_setWidth_of_msb_false h2, BitVec.toNat_setWidth, h1, Nat.mod_eq_of_lt va.isLt]

/-- R156's first row. -/
theorem targetOf_own {c : Nat} {pod : List Nat} {va : Word} (h : va.toNat < 0x8_0000) :
    targetOf c pod va = some (.localMem c va.toNat true) := by
  have hc : isCanonical va = true := isCanonical_of_lt (by omega)
  have h1 : ¬ 0x2000_0000_0000 ≤ va.toNat := by omega
  simp only [targetOf, hc, not_true_eq_false, if_false, if_neg h1, if_pos h]

theorem targetOf_hole {c : Nat} {pod : List Nat} {va : Word} (h : 0x8_0000 ≤ va.toNat) (h' : va.toNat < 0x100_0000_0000) :
    targetOf c pod va = none := by
  have h1 : ¬ 0x2000_0000_0000 ≤ va.toNat := by omega
  have h2 : ¬ va.toNat < 0x8_0000 := by omega
  unfold targetOf
  split
  · rfl
  · simp only [if_neg h1, if_neg h2, if_pos h']

theorem targetOf_paged {c : Nat} {pod : List Nat} {va : Word} (hc : isCanonical va = true)
    (h : 0x2000_0000_0000 ≤ va.toNat) : targetOf c pod va = some .paged := by
  simp only [targetOf, hc, not_true_eq_false, if_false, if_pos h]

theorem targetOf_off {c c' off : Nat} {pod : List Nat} {va : Word} {own : Bool}
    (h : targetOf c pod va = some (.localMem c' off own)) : off < 0x8_0000 := by
  unfold targetOf at h
  simp only at h
  split at h
  · simp at h
  split at h
  · simp at h
  split at h
  · simp at h; omega
  split at h
  · simp at h
  split at h
  · exact fixedRow_off h
  split at h
  · simp at h
  · rename_i x hx
    split at h
    · simp only [Option.some.injEq] at h
      subst h
      exact fixedRow_off hx
    · split at h <;> simp at h

/-! ### Places of local memory -/

theorem Place.core_lm {c off : Nat} (h : off < 0x8_0000) : Place.core (Place.lm c off) = c := by
  unfold Place.core Place.lm; omega

theorem Place.tier_lm {c off : Nat} (h : off < 0x8_0000) (hc : c < 8192) : Place.tier (Place.lm c off) = .localMem := by
  have : Place.lm c off / Place.unit = 0 := by unfold Place.lm Place.unit; omega
  simp only [Place.tier, this]

theorem Place.module_of_lm {p : Nat} (h : Place.tier p = .localMem) : Place.module p = Place.core p / 1024 := by
  unfold Place.module
  rw [h]

theorem reachable_lm {s : State} {c off : Nat} (h : off < 0x8_0000) (hc : c < 8192) (hm : s.inPod (c / 1024) = true) :
    reachable s (Place.lm c off) = true := by
  have h1 : ¬ Place.lm c off ≥ Place.nowhere := by unfold Place.lm Place.nowhere Place.unit; omega
  have h2 := (Place.module_of_lm (Place.tier_lm h hc)).trans (congrArg (· / 1024) (Place.core_lm h))
  unfold reachable
  rw [if_neg h1, h2, hm, Place.tier_lm h hc, Bool.true_and]

/-! ### Checks of one address -/

theorem resolve_one {s : State} {core len align lane : Nat} {t : Thread} {rd wr fullBits : Bool} {va : Word} {x : Target}
    {sp : Spot} (h1 : targetOf core s.pod va = some x) (h2 : va.toNat % align = 0)
    (h3 : locate s core t ⟨rd, wr, t.sv⟩ lane len va x = .ok sp)
    (h4 : (fullBits && decide (Place.tier sp.part.loc = .cxl)) = false) :
    resolve s core t rd wr fullBits len align [(lane, va)] = .ok [sp] := by
  have e : [(lane, va)].mapM (fun l : Nat × Word =>
      locate s core t ⟨rd, wr, t.sv⟩ l.1 len l.2 ((targetOf core s.pod l.2).getD .paged)) = .ok [sp] := by
    simp only [List.mapM_cons, List.mapM_nil, h1, Option.getD_some, h3]; rfl
  have f1 : [(lane, va)].find? (fun l : Nat × Word => (targetOf core s.pod l.2).isNone) = none := by simp [h1]
  have f2 : [(lane, va)].find? (fun l : Nat × Word => decide (l.2.toNat % align ≠ 0)) = none := by simp [h2]
  have f3 : [sp].find? (fun x : Spot => fullBits && decide (Place.tier x.part.loc = .cxl)) = none := by
    rw [List.find?_cons, h4]; rfl
  simp only [resolve, f1, f2, e, f3]

theorem resolve_nowhere {s : State} {core len align lane : Nat} {t : Thread} {rd wr fullBits : Bool} {va : Word}
    (h : targetOf core s.pod va = none) :
    resolve s core t rd wr fullBits len align [(lane, va)] = .error (.trap 3 va) := by
  simp [resolve, h]

theorem resolve_misaligned {s : State} {core len align lane : Nat} {t : Thread} {rd wr fullBits : Bool} {va : Word}
    (h : targetOf core s.pod va ≠ none) (h2 : va.toNat % align ≠ 0) :
    resolve s core t rd wr fullBits len align [(lane, va)] = .error (.trap 2 va) := by
  have f1 : [(lane, va)].find? (fun l : Nat × Word => (targetOf core s.pod l.2).isNone) = none := by
    simpa [Option.isNone_iff_eq_none] using h
  have f2 : [(lane, va)].find? (fun l : Nat × Word => decide (l.2.toNat % align ≠ 0)) = some (lane, va) := by simp [h2]
  simp only [resolve, f1, f2]

/-- A page without a cached translation is walked first. -/
theorem resolve_walk {s : State} {core len align lane : Nat} {t : Thread} {rd wr fullBits : Bool} {va : Word}
    (h1 : targetOf core s.pod va = some .paged) (h2 : va.toNat % align = 0) (h3 : cachedTrans s core t.asid va wr = none) :
    resolve s core t rd wr fullBits len align [(lane, va)] = .error (.park (.walk va rd wr)) := by
  have e : [(lane, va)].mapM (fun l : Nat × Word =>
      locate s core t ⟨rd, wr, t.sv⟩ l.1 len l.2 ((targetOf core s.pod l.2).getD .paged)) =
        .error (.park (.walk va rd wr)) := by
    simp only [List.mapM_cons, h1, Option.getD_some, locate, h3]; rfl
  have f1 : [(lane, va)].find? (fun l : Nat × Word => (targetOf core s.pod l.2).isNone) = none := by simp [h1]
  have f2 : [(lane, va)].find? (fun l : Nat × Word => decide (l.2.toNat % align ≠ 0)) = none := by simp [h2]
  simp only [resolve, f1, f2, e]

theorem resolve_refused {s : State} {core len align lane : Nat} {t : Thread} {rd wr fullBits : Bool} {va : Word} {tr : Trans}
    (h1 : targetOf core s.pod va = some .paged) (h2 : va.toNat % align = 0) (h3 : cachedTrans s core t.asid va wr = some tr)
    (h4 : (Need.mk rd wr t.sv).granted tr.leaf = false) :
    resolve s core t rd wr fullBits len align [(lane, va)] = .error (.trap 3 va) := by
  have e : [(lane, va)].mapM (fun l : Nat × Word =>
      locate s core t ⟨rd, wr, t.sv⟩ l.1 len l.2 ((targetOf core s.pod l.2).getD .paged)) = .error (.trap 3 va) := by
    simp only [List.mapM_cons, h1, Option.getD_some, locate, h3, h4]; rfl
  have f1 : [(lane, va)].find? (fun l : Nat × Word => (targetOf core s.pod l.2).isNone) = none := by simp [h1]
  have f2 : [(lane, va)].find? (fun l : Nat × Word => decide (l.2.toNat % align ≠ 0)) = none := by simp [h2]
  simp only [resolve, f1, f2, e]

/-! ### Accesses -/

/-- Outside a region a request is not logged (R274). -/
theorem logReq_outside {s : State} {t : Thread} {core : Nat} {r : Req} (h : t.inRegion = false) :
    logReq s core t r = .ok (s, t) := by
  simp [logReq, h]

/-- A request of a thread without an open region changes nothing of its thread (R252). -/
theorem afterReq_open {s : State} {t : Thread} {r : Req} (h : t.levels = []) (hop : ∀ d f, r.op ≠ .tget d f) :
    afterReq s t r = t := by
  unfold afterReq
  split
  · exact absurd ‹_› (hop _ _)
  · simp [afterAccess, h]

/-- An access within the own local memory, at a scope no wider than the core, is performed at once where no earlier store
of its thread is held behind another request. -/
theorem sendReq_own {s : State} {t : Thread} {op : MemOp} {sc : Option (BitVec 4)} {p : Part} {core off : Nat}
    (hl : p.loc = Place.lm core off) (ho : off < 0x8_0000) (hc : core < 8192)
    (hn : ∀ c, sc = some c → c.toNat ≤ 1) (hr : t.inRegion = false)
    (ha : (∀ code d a b, op ≠ .atomic code d a b) ∧ ∀ w a m e, op ≠ .afaddv w a m e) (hb : s.blocked t.uid = false) :
    sendReq s core t ⟨op, [p], sc⟩ =
      match perform s t ⟨op, [p], sc⟩ with
      | .ok s2 f flags => .ok (.done s2 (afterReq s2 t ⟨op, [p], sc⟩) f flags)
      | .waits => .ok (.parked (s.drainOf t.uid) t (Req.waiting ⟨op, [p], sc⟩ s.pushSeq))
      | .error va => .error (.error va) := by
  have ht : Place.tier p.loc = .localMem := by rw [hl]; exact Place.tier_lm ho hc
  have hcore : Place.core p.loc = core := by rw [hl]; exact Place.core_lm ho
  have hfix : Req.isFixed ⟨op, [p], sc⟩ core = true := by
    simp only [Req.isFixed, List.all_cons, List.all_nil, ht, hcore, decide_true, Bool.and_true, Bool.true_and]
    rw [Bool.and_eq_true]
    refine ⟨?_, ?_⟩
    · cases sc with
      | none => rfl
      | some c => simpa using hn c rfl
    · cases op with
      | atomic code d a b => exact absurd rfl (ha.1 code d a b)
      | afaddv w a m e => exact absurd rfl (ha.2 w a m e)
      | _ => rfl
  have hadm : admitParts s core t op.needs.1 op.needs.2 [p] = .ok () := by
    simp only [admitParts, admitPart, ht, hcore, if_true]
  simp only [sendReq, List.any_cons, List.any_nil, ht, hcore, decide_true, ne_eq, not_true_eq_false, decide_false,
    Bool.and_false, Bool.or_false, Bool.false_eq_true, if_false, hadm, launchReq, hr, Bool.false_and, logReq_outside hr,
    hfix, if_true, hb]
  all_goals rfl

/-- An access to a page that is not at home in the core's own local memory leaves the core. -/
theorem sendReq_far {s : State} {t : Thread} {op : MemOp} {sc : Option (BitVec 4)} {p : Part} {core : Nat}
    (ht : Place.tier p.loc ≠ .localMem) (ht2 : Place.tier p.loc ≠ .tileStore) (hr : t.inRegion = false) :
    sendReq s core t ⟨op, [p], sc⟩ = .ok (.parked s t (.access ⟨op, [p], sc⟩)) := by
  have hadm : admitParts s core t op.needs.1 op.needs.2 [p] = .ok () := by
    simp only [admitParts, admitPart]
  have hfix : Req.isFixed ⟨op, [p], sc⟩ core = false := by simp [Req.isFixed, ht]
  simp [sendReq, ht, hadm, launchReq, hr, logReq_outside hr, hfix]

/-- A place in a page is in HBM or in the CXL tier (R163). -/
theorem Trans.place_tier {tr : Trans} {va : Word} (h : Pte.frame tr.leaf + (va.toNat % 2 ^ 52 - tr.base) < 2 ^ 50) :
    Place.tier (tr.place va) = .hbm ∨ Place.tier (tr.place va) = .cxl := by
  have hm : Pte.mod tr.leaf < 8 := Nat.mod_lt _ (by decide)
  unfold Trans.place
  split
  · right
    have : Place.cxl (Pte.mod tr.leaf) (Pte.frame tr.leaf + (va.toNat % 2 ^ 52 - tr.base)) / Place.unit = 3 := by
      unfold Place.cxl Place.unit; omega
    simp only [Place.tier, this]
  · left
    have : Place.hbm (Pte.mod tr.leaf) (Pte.frame tr.leaf + (va.toNat % 2 ^ 52 - tr.base)) / Place.unit = 2 := by
      unfold Place.hbm Place.unit; omega
    simp only [Place.tier, this]

theorem Thread.raise_none (t : Thread) : t.raise 0 = .ok t := by
  have h : (0 : FlagSet) &&& t.enables = 0 := by simp
  rw [Thread.raise_ok h]
  congr 1
  simp

/-- An access that is done, its result for a register that its thread keeps. -/
theorem access_done {s s1 : State} {t t1 : Thread} {r : Req} {f : Fill} (h : sendReq s s.cur.1 t r = .ok (.done s1 t1 f 0)) :
    access s t r = fillEff s1 t1 0 f := by
  simp only [access, h, Thread.raise_none]

theorem access_parked {s s1 : State} {t t1 : Thread} {r : Req} {p : Park} (h : sendReq s s.cur.1 t r = .ok (.parked s1 t1 p)) :
    access s t r = .ok (.parked s1 t1 p) := by
  simp only [access, h]

/-! ### A thread's own view -/

theorem ownView_plain {s : State} {t : Thread} {p n : Nat} (h1 : ∀ x ∈ s.seen, x.1 ≠ t.uid) (h2 : t.undo = []) :
    ownView s t p n = (List.range n).map fun j => s.mem.byte (p + j) := by
  have h3 : (s.seen.filter fun x => decide (x.1 = t.uid ∧ x.2.1 = t.issued)) = [] :=
    List.filter_eq_nil_iff.2 fun x hx => by simp [h1 x hx]
  simp only [ownView, h3, deferredParts, h2, List.foldl_nil, List.reverse_nil, List.flatMap_nil]
  exact Memory.read_eq s.mem p n

/-! ### Stores -/

/-- Nobody waits on a word of `[p, p + n)`. -/
def State.Unwatched (s : State) (p n : Nat) : Prop := waitedWords s p n = []

/-- Where nobody waits on a word, a performed store writes and does nothing else. -/
theorem serveRange_unwatched {s : State} {p n : Nat} (h : s.Unwatched p n) : serveRange s p n = s := by
  rw [serveRange, h]; rfl

end Sys2Proof.Machine
end

