-- ==== Sys2Proof/Laws/Decode.lean ====
section
/-!
SUPPORT. Fields of a word: what `put` places is what `fld` finds there, and every other field stays.
-/
namespace Sys2Proof

/-- A word cut at the two ends of an empty field. -/
theorem cut_at_field (rest lo n : Nat) (h : rest / 2 ^ lo % 2 ^ n = 0) :
    rest = 2 ^ lo * (2 ^ n * (rest / 2 ^ lo / 2 ^ n)) + rest % 2 ^ lo := by
  have h1 := Nat.div_add_mod rest (2 ^ lo)
  have h2 := Nat.div_add_mod (rest / 2 ^ lo) (2 ^ n)
  rw [h, Nat.add_zero] at h2
  rw [h2]
  exact h1.symm

theorem put_div {n : Nat} (x : BitVec n) (lo rest : Nat) (h : rest / 2 ^ lo % 2 ^ n = 0) :
    put x lo rest / 2 ^ lo = 2 ^ n * (rest / 2 ^ lo / 2 ^ n) + x.toNat := by
  have e : put x lo rest =
      2 ^ lo * (2 ^ n * (rest / 2 ^ lo / 2 ^ n) + x.toNat) + rest % 2 ^ lo := by
    conv => lhs; rw [put, cut_at_field rest lo n h]
    rw [Nat.mul_add, Nat.mul_comm x.toNat]
    omega
  rw [e, Nat.mul_add_div (Nat.two_pow_pos _), Nat.div_eq_of_lt (Nat.mod_lt _ (Nat.two_pow_pos _)), Nat.add_zero]

/-- The field that was put. -/
theorem fld_put_same {n : Nat} (x : BitVec n) (lo rest : Nat) (h : rest / 2 ^ lo % 2 ^ n = 0) :
    (fld (put x lo rest) lo : BitVec n) = x := by
  apply BitVec.eq_of_toNat_eq
  rw [fld, put_div x lo rest h, BitVec.toNat_ofNat, Nat.mul_add_mod, Nat.mod_eq_of_lt x.isLt]

theorem put_div_above {n : Nat} (x : BitVec n) (lo rest k : Nat) (h : rest / 2 ^ lo % 2 ^ n = 0) (hk : lo + n ≤ k) :
    put x lo rest / 2 ^ k = rest / 2 ^ k := by
  obtain ⟨j, rfl⟩ := Nat.exists_eq_add_of_le hk
  rw [Nat.pow_add, Nat.pow_add, ← Nat.div_div_eq_div_mul, ← Nat.div_div_eq_div_mul, ← Nat.div_div_eq_div_mul,
    ← Nat.div_div_eq_div_mul, put_div x lo rest h, Nat.mul_add_div (Nat.two_pow_pos _), Nat.div_eq_of_lt x.isLt,
    Nat.add_zero]

/-- Bits above the field that was put. -/
theorem bits_put_above {n : Nat} (x : BitVec n) (lo rest hi l : Nat) (h : rest / 2 ^ lo % 2 ^ n = 0) (hl : lo + n ≤ l) :
    bits (put x lo rest) hi l = bits rest hi l := by
  rw [bits, bits, put_div_above x lo rest l h hl]

theorem fld_put_above {n m : Nat} (x : BitVec n) (lo rest l : Nat) (h : rest / 2 ^ lo % 2 ^ n = 0) (hl : lo + n ≤ l) :
    (fld (put x lo rest) l : BitVec m) = fld rest l := by
  rw [fld, fld, put_div_above x lo rest l h hl]

/-- Bits below the field that was put. -/
theorem bits_put_below {n : Nat} (x : BitVec n) (lo rest hi l : Nat) (hl : hi < lo) (hle : l ≤ hi) :
    bits (put x lo rest) hi l = bits rest hi l := by
  obtain ⟨j, rfl⟩ := Nat.exists_eq_add_of_le (show hi + 1 ≤ lo from hl)
  obtain ⟨k, rfl⟩ := Nat.exists_eq_add_of_le hle
  rw [bits, bits, put, show l + k + 1 + j = l + (k + 1 + j) by omega, Nat.pow_add, Nat.mul_comm x.toNat, Nat.mul_assoc,
    Nat.mul_add_div (Nat.two_pow_pos _), show l + k + 1 - l = k + 1 by omega, Nat.pow_add, Nat.mul_assoc,
    Nat.mul_add_mod]

theorem fld_put_below {n m : Nat} (x : BitVec n) (lo rest l : Nat) (hl : l + m ≤ lo) :
    (fld (put x lo rest) l : BitVec m) = fld rest l := by
  obtain ⟨j, rfl⟩ := Nat.exists_eq_add_of_le hl
  apply BitVec.eq_of_toNat_eq
  rw [fld, fld, put, BitVec.toNat_ofNat, BitVec.toNat_ofNat, Nat.add_assoc, Nat.pow_add, Nat.mul_comm x.toNat, Nat.mul_assoc,
    Nat.mul_add_div (Nat.two_pow_pos _), Nat.pow_add, Nat.mul_assoc, Nat.mul_add_mod]

/-- Whether a field is still empty depends on what lies there alone. -/
theorem empty_put_above {n m : Nat} (x : BitVec n) (lo rest l : Nat) (h : rest / 2 ^ lo % 2 ^ n = 0) (hl : lo + n ≤ l) :
    put x lo rest / 2 ^ l % 2 ^ m = rest / 2 ^ l % 2 ^ m := by
  rw [put_div_above x lo rest l h hl]

theorem empty_put_below {n m : Nat} (x : BitVec n) (lo rest l : Nat) (hl : l + m ≤ lo) :
    put x lo rest / 2 ^ l % 2 ^ m = rest / 2 ^ l % 2 ^ m := by
  obtain ⟨j, rfl⟩ := Nat.exists_eq_add_of_le hl
  rw [put, Nat.add_assoc, Nat.pow_add, Nat.mul_comm x.toNat, Nat.mul_assoc, Nat.mul_add_div (Nat.two_pow_pos _), Nat.pow_add,
    Nat.mul_assoc, Nat.mul_add_mod]

/-- The low part of a field. -/
theorem bits_low (w hi lo h : Nat) (hh : h ≤ hi) (hl : lo ≤ h) : bits w hi lo % 2 ^ (h + 1 - lo) = bits w h lo := by
  obtain ⟨a, rfl⟩ := Nat.exists_eq_add_of_le hl
  obtain ⟨c, rfl⟩ := Nat.exists_eq_add_of_le hh
  rw [bits, bits, show lo + a + c + 1 - lo = a + 1 + c by omega, show lo + a + 1 - lo = a + 1 by omega, Nat.pow_add _ (a + 1),
    Nat.mod_mul_right_mod]

/-- A field is not `c` where its low part is not. -/
theorem bits_ne_of_low {w hi lo c : Nat} (h v : Nat) (hh : h ≤ hi) (hl : lo ≤ h) (hv : bits w h lo = v)
    (hc : c % 2 ^ (h + 1 - lo) ≠ v) : ¬ bits w hi lo = c := by
  rintro rfl
  exact hc ((bits_low w hi lo h hh hl).trans hv)

end Sys2Proof
end

