-- ==== Sys2Proof/Laws/Exec.lean ====
section
/-!
SUPPORT. The arms of exec, one equation each: what an instruction or event does is its meaning; and what a turn that would
act on other cores can do.
-/
namespace Sys2Proof.Machine

theorem exec_rstctlReset (who : Nat) (value : BitVec 8) (s : State) :
    exec (.rstctlReset who value) s = execRstctlReset who value s := rfl
theorem exec_thermalThrottle (die : Nat) (skip : BitVec 3) (s : State) :
    exec (.thermalThrottle die skip) s = execThermalThrottle die skip s := rfl
theorem exec_flitReceive (link : Nat) (seq : BitVec 12) (bad : BitVec 5) (packet : FlitOf) (s : State) :
    exec (.flitReceive link seq bad packet) s = execFlitReceive link seq bad packet s := rfl
theorem exec_flitAcknowledge (link : Nat) (seq : BitVec 12) (s : State) :
    exec (.flitAcknowledge link seq) s = execFlitAcknowledge link seq s := rfl
theorem exec_flitReplay (link : Nat) (flits : Nat) (s : State) :
    exec (.flitReplay link flits) s = execFlitReplay link flits s := rfl
theorem exec_linkRetrain (link : Nat) (trained : Bool) (lanes : List Nat) (s : State) :
    exec (.linkRetrain link trained lanes) s = execLinkRetrain link trained lanes s := rfl
theorem exec_requestTimeout (core : Nat) (slot : Nat) (s : State) :
    exec (.requestTimeout core slot) s = execRequestTimeout core slot s := rfl
theorem exec_controlWindowWrite (who : Nat) (off : Nat) (bytes : List (BitVec 8)) (s : State) :
    exec (.controlWindowWrite who off bytes) s = execControlWindowWrite who off bytes s := rfl
theorem exec_hostApertureAccess (addr : Nat) (len : Nat) (store : Option (List (BitVec 8))) (s : State) :
    exec (.hostApertureAccess addr len store) s = execHostApertureAccess addr len store s := rfl
theorem exec_sluiceWrite (off : Nat) (bytes : List (BitVec 8)) (s : State) :
    exec (.sluiceWrite off bytes) s = execSluiceWrite off bytes s := rfl
theorem exec_intakeQueueDrain (wl : Nat) (s : State) :
    exec (.intakeQueueDrain wl) s = execIntakeQueueDrain wl s := rfl
theorem exec_hbmTransferRead (addr : Nat) (attempts : List (List Nat)) (ecc : Ecc) (job : Option Nat) (s : State) :
    exec (.hbmTransferRead addr attempts ecc job) s = execHbmTransferRead addr attempts ecc job s := rfl
theorem exec_transferCountWrap (stack : Nat) (channel : Nat) (s : State) :
    exec (.transferCountWrap stack channel) s = execTransferCountWrap stack channel s := rfl
theorem exec_laneRemap (stack : Nat) (channel : Nat) (s : State) :
    exec (.laneRemap stack channel) s = execLaneRemap stack channel s := rfl
theorem exec_cxlDeviceTimeout (core : Nat) (slot : Nat) (s : State) :
    exec (.cxlDeviceTimeout core slot) s = execCxlDeviceTimeout core slot s := rfl
theorem exec_outboundMove (io : Nat) (frame : Nat) (slot : Nat) (request : PageRequest) (s : State) :
    exec (.outboundMove io frame slot request) s = execOutboundMove io frame slot request s := rfl
theorem exec_inboundMoveComplete (io : Nat) (move : Nat) (crcBad : BitVec 32) (s : State) :
    exec (.inboundMoveComplete io move crcBad) s = execInboundMoveComplete io move crcBad s := rfl
theorem exec_frameRingRefill (io : Nat) (s : State) :
    exec (.frameRingRefill io) s = execFrameRingRefill io s := rfl
theorem exec_waitaReread (core : Nat) (slot : Nat) (s : State) :
    exec (.waitaReread core slot) s = execWaitaReread core slot s := rfl
theorem exec_parkedPushRetry (core : Nat) (slot : Nat) (s : State) :
    exec (.parkedPushRetry core slot) s = execParkedPushRetry core slot s := rfl
theorem exec_pushTimeout (core : Nat) (slot : Nat) (s : State) :
    exec (.pushTimeout core slot) s = execPushTimeout core slot s := rfl
theorem exec_proxyForward (io : Nat) (mod : Nat) (wl : Nat) (s : State) :
    exec (.proxyForward io mod wl) s = execProxyForward io mod wl s := rfl
theorem exec_proxyDelivery (io : Nat) (wl : Nat) (item : BitVec 256) (s : State) :
    exec (.proxyDelivery io wl item) s = execProxyDelivery io wl item s := rfl
theorem exec_wlcfgWrite (wl : Nat) (value : BitVec 64) (s : State) :
    exec (.wlcfgWrite wl value) s = execWlcfgWrite wl value s := rfl
theorem exec_wlspillWrite (wl : Nat) (value : BitVec 64) (s : State) :
    exec (.wlspillWrite wl value) s = execWlspillWrite wl value s := rfl
theorem exec_clmapWrite (die : Nat) (value : BitVec 64) (s : State) :
    exec (.clmapWrite die value) s = execClmapWrite die value s := rfl
theorem exec_slotresWrite (n : Nat) (value : BitVec 64) (s : State) :
    exec (.slotresWrite n value) s = execSlotresWrite n value s := rfl
theorem exec_systemRegisterWrite (core : Nat) (slot : Nat) (reg : BitVec 6) (index : BitVec 64) (value : BitVec 64) (s : State) :
    exec (.systemRegisterWrite core slot reg index value) s = execSystemRegisterWrite core slot reg index value s := rfl
theorem exec_rakePop (die : Nat) (s : State) :
    exec (.rakePop die) s = execRakePop die s := rfl
theorem exec_rakeHandoff (die : Nat) (s : State) :
    exec (.rakeHandoff die) s = execRakeHandoff die s := rfl
theorem exec_rakeBackoffExpiry (die : Nat) (wl : Nat) (s : State) :
    exec (.rakeBackoffExpiry die wl) s = execRakeBackoffExpiry die wl s := rfl
theorem exec_imageLoadComplete (gang : Nat) (s : State) :
    exec (.imageLoadComplete gang) s = execImageLoadComplete gang s := rfl
theorem exec_jobFlushRequest (mod : Nat) (job : Nat) (s : State) :
    exec (.jobFlushRequest mod job) s = execJobFlushRequest mod job s := rfl
theorem exec_jobFlushReply (mod : Nat) (job : Nat) (lost : Nat) (s : State) :
    exec (.jobFlushReply mod job lost) s = execJobFlushReply mod job lost s := rfl
theorem exec_remoteAccess (core : Nat) (slot : Nat) (s : State) :
    exec (.remoteAccess core slot) s = execRemoteAccess core slot s := rfl
theorem exec_accessCompletion (core : Nat) (slot : Nat) (s : State) :
    exec (.accessCompletion core slot) s = execAccessCompletion core slot s := rfl
theorem exec_walkComplete (core : Nat) (slot : Nat) (s : State) :
    exec (.walkComplete core slot) s = execWalkComplete core slot s := rfl
theorem exec_sendRetryAttempt (core : Nat) (slot : Nat) (s : State) :
    exec (.sendRetryAttempt core slot) s = execSendRetryAttempt core slot s := rfl
theorem exec_copyComplete (n : Nat) (s : State) :
    exec (.copyComplete n) s = execCopyComplete n s := rfl
theorem exec_coreSleep (core : Nat) (s : State) :
    exec (.coreSleep core) s = execCoreSleep core s := rfl
theorem exec_harrowScrub (loc : Nat) (finding : Ecc) (s : State) :
    exec (.harrowScrub loc finding) s = execHarrowScrub loc finding s := rfl
theorem exec_matrixProductComplete (core : Nat) (residueFails : Bool) (s : State) :
    exec (.matrixProductComplete core residueFails) s = execMatrixProductComplete core residueFails s := rfl
theorem exec_rotationDelivery (core : Nat) (s : State) :
    exec (.rotationDelivery core) s = execRotationDelivery core s := rfl
theorem exec_add (d : BitVec 5) (a : BitVec 5) (b : BitVec 5) (s : State) :
    exec (.add d a b) s = execAdd d a b s := rfl
theorem exec_sub (d : BitVec 5) (a : BitVec 5) (b : BitVec 5) (s : State) :
    exec (.sub d a b) s = execSub d a b s := rfl
theorem exec_and (d : BitVec 5) (a : BitVec 5) (b : BitVec 5) (s : State) :
    exec (.and d a b) s = execAnd d a b s := rfl
theorem exec_or (d : BitVec 5) (a : BitVec 5) (b : BitVec 5) (s : State) :
    exec (.or d a b) s = execOr d a b s := rfl
theorem exec_xor (d : BitVec 5) (a : BitVec 5) (b : BitVec 5) (s : State) :
    exec (.xor d a b) s = execXor d a b s := rfl
theorem exec_andn (d : BitVec 5) (a : BitVec 5) (b : BitVec 5) (s : State) :
    exec (.andn d a b) s = execAndn d a b s := rfl
theorem exec_orn (d : BitVec 5) (a : BitVec 5) (b : BitVec 5) (s : State) :
    exec (.orn d a b) s = execOrn d a b s := rfl
theorem exec_shl (d : BitVec 5) (a : BitVec 5) (b : BitVec 5) (s : State) :
    exec (.shl d a b) s = execShl d a b s := rfl
theorem exec_shr (d : BitVec 5) (a : BitVec 5) (b : BitVec 5) (s : State) :
    exec (.shr d a b) s = execShr d a b s := rfl
theorem exec_sra (d : BitVec 5) (a : BitVec 5) (b : BitVec 5) (s : State) :
    exec (.sra d a b) s = execSra d a b s := rfl
theorem exec_rol (d : BitVec 5) (a : BitVec 5) (b : BitVec 5) (s : State) :
    exec (.rol d a b) s = execRol d a b s := rfl
theorem exec_slt (d : BitVec 5) (a : BitVec 5) (b : BitVec 5) (s : State) :
    exec (.slt d a b) s = execSlt d a b s := rfl
theorem exec_sltu (d : BitVec 5) (a : BitVec 5) (b : BitVec 5) (s : State) :
    exec (.sltu d a b) s = execSltu d a b s := rfl
theorem exec_seq (d : BitVec 5) (a : BitVec 5) (b : BitVec 5) (s : State) :
    exec (.seq d a b) s = execSeq d a b s := rfl
theorem exec_min (d : BitVec 5) (a : BitVec 5) (b : BitVec 5) (s : State) :
    exec (.min d a b) s = execMin d a b s := rfl
theorem exec_max (d : BitVec 5) (a : BitVec 5) (b : BitVec 5) (s : State) :
    exec (.max d a b) s = execMax d a b s := rfl
theorem exec_minz (d : BitVec 5) (a : BitVec 5) (b : BitVec 5) (s : State) :
    exec (.minz d a b) s = execMinz d a b s := rfl
theorem exec_maxz (d : BitVec 5) (a : BitVec 5) (b : BitVec 5) (s : State) :
    exec (.maxz d a b) s = execMaxz d a b s := rfl
theorem exec_clz (d : BitVec 5) (a : BitVec 5) (s : State) :
    exec (.clz d a) s = execClz d a s := rfl
theorem exec_ctz (d : BitVec 5) (a : BitVec 5) (s : State) :
    exec (.ctz d a) s = execCtz d a s := rfl
theorem exec_popc (d : BitVec 5) (a : BitVec 5) (s : State) :
    exec (.popc d a) s = execPopc d a s := rfl
theorem exec_sext (d : BitVec 5) (a : BitVec 5) (w : BitVec 2) (s : State) :
    exec (.sext d a w) s = execSext d a w s := rfl
theorem exec_zext (d : BitVec 5) (a : BitVec 5) (w : BitVec 2) (s : State) :
    exec (.zext d a w) s = execZext d a w s := rfl
theorem exec_mul (d : BitVec 5) (a : BitVec 5) (b : BitVec 5) (s : State) :
    exec (.mul d a b) s = execMul d a b s := rfl
theorem exec_div (d : BitVec 5) (a : BitVec 5) (b : BitVec 5) (s : State) :
    exec (.div d a b) s = execDiv d a b s := rfl
theorem exec_divz (d : BitVec 5) (a : BitVec 5) (b : BitVec 5) (s : State) :
    exec (.divz d a b) s = execDivz d a b s := rfl
theorem exec_rem (d : BitVec 5) (a : BitVec 5) (b : BitVec 5) (s : State) :
    exec (.rem d a b) s = execRem d a b s := rfl
theorem exec_remz (d : BitVec 5) (a : BitVec 5) (b : BitVec 5) (s : State) :
    exec (.remz d a b) s = execRemz d a b s := rfl
theorem exec_mulh (d : BitVec 5) (a : BitVec 5) (b : BitVec 5) (s : State) :
    exec (.mulh d a b) s = execMulh d a b s := rfl
theorem exec_mulhz (d : BitVec 5) (a : BitVec 5) (b : BitVec 5) (s : State) :
    exec (.mulhz d a b) s = execMulhz d a b s := rfl
theorem exec_mulhsz (d : BitVec 5) (a : BitVec 5) (b : BitVec 5) (s : State) :
    exec (.mulhsz d a b) s = execMulhsz d a b s := rfl
theorem exec_addi (d : BitVec 5) (a : BitVec 5) (imm : BitVec 16) (s : State) :
    exec (.addi d a imm) s = execAddi d a imm s := rfl
theorem exec_slti (d : BitVec 5) (a : BitVec 5) (imm : BitVec 16) (s : State) :
    exec (.slti d a imm) s = execSlti d a imm s := rfl
theorem exec_sltiu (d : BitVec 5) (a : BitVec 5) (imm : BitVec 16) (s : State) :
    exec (.sltiu d a imm) s = execSltiu d a imm s := rfl
theorem exec_andi (d : BitVec 5) (a : BitVec 5) (imm : BitVec 16) (s : State) :
    exec (.andi d a imm) s = execAndi d a imm s := rfl
theorem exec_ori (d : BitVec 5) (a : BitVec 5) (imm : BitVec 16) (s : State) :
    exec (.ori d a imm) s = execOri d a imm s := rfl
theorem exec_xori (d : BitVec 5) (a : BitVec 5) (imm : BitVec 16) (s : State) :
    exec (.xori d a imm) s = execXori d a imm s := rfl
theorem exec_shli (d : BitVec 5) (a : BitVec 5) (n : BitVec 6) (s : State) :
    exec (.shli d a n) s = execShli d a n s := rfl
theorem exec_shri (d : BitVec 5) (a : BitVec 5) (n : BitVec 6) (s : State) :
    exec (.shri d a n) s = execShri d a n s := rfl
theorem exec_srai (d : BitVec 5) (a : BitVec 5) (n : BitVec 6) (s : State) :
    exec (.srai d a n) s = execSrai d a n s := rfl
theorem exec_roli (d : BitVec 5) (a : BitVec 5) (n : BitVec 6) (s : State) :
    exec (.roli d a n) s = execRoli d a n s := rfl
theorem exec_ldhi (d : BitVec 5) (imm : BitVec 16) (s : State) :
    exec (.ldhi d imm) s = execLdhi d imm s := rfl
theorem exec_addpc (d : BitVec 5) (imm : BitVec 16) (s : State) :
    exec (.addpc d imm) s = execAddpc d imm s := rfl
theorem exec_beq (a : BitVec 5) (b : BitVec 5) (o : BitVec 16) (s : State) :
    exec (.beq a b o) s = execBeq a b o s := rfl
theorem exec_bne (a : BitVec 5) (b : BitVec 5) (o : BitVec 16) (s : State) :
    exec (.bne a b o) s = execBne a b o s := rfl
theorem exec_blt (a : BitVec 5) (b : BitVec 5) (o : BitVec 16) (s : State) :
    exec (.blt a b o) s = execBlt a b o s := rfl
theorem exec_bge (a : BitVec 5) (b : BitVec 5) (o : BitVec 16) (s : State) :
    exec (.bge a b o) s = execBge a b o s := rfl
theorem exec_bltu (a : BitVec 5) (b : BitVec 5) (o : BitVec 16) (s : State) :
    exec (.bltu a b o) s = execBltu a b o s := rfl
theorem exec_bgeu (a : BitVec 5) (b : BitVec 5) (o : BitVec 16) (s : State) :
    exec (.bgeu a b o) s = execBgeu a b o s := rfl
theorem exec_j (o : BitVec 26) (s : State) :
    exec (.j o) s = execJ o s := rfl
theorem exec_jal (o : BitVec 26) (s : State) :
    exec (.jal o) s = execJal o s := rfl
theorem exec_jr (a : BitVec 5) (s : State) :
    exec (.jr a) s = execJr a s := rfl
theorem exec_jalr (d : BitVec 5) (a : BitVec 5) (s : State) :
    exec (.jalr d a) s = execJalr d a s := rfl
theorem exec_ldb (d : BitVec 5) (b : BitVec 5) (o : BitVec 12) (s : State) :
    exec (.ldb d b o) s = execLdb d b o s := rfl
theorem exec_ldh (d : BitVec 5) (b : BitVec 5) (o : BitVec 12) (s : State) :
    exec (.ldh d b o) s = execLdh d b o s := rfl
theorem exec_ldw (d : BitVec 5) (b : BitVec 5) (o : BitVec 12) (s : State) :
    exec (.ldw d b o) s = execLdw d b o s := rfl
theorem exec_ldd (d : BitVec 5) (b : BitVec 5) (o : BitVec 12) (s : State) :
    exec (.ldd d b o) s = execLdd d b o s := rfl
theorem exec_ldbz (d : BitVec 5) (b : BitVec 5) (o : BitVec 12) (s : State) :
    exec (.ldbz d b o) s = execLdbz d b o s := rfl
theorem exec_ldhz (d : BitVec 5) (b : BitVec 5) (o : BitVec 12) (s : State) :
    exec (.ldhz d b o) s = execLdhz d b o s := rfl
theorem exec_ldwz (d : BitVec 5) (b : BitVec 5) (o : BitVec 12) (s : State) :
    exec (.ldwz d b o) s = execLdwz d b o s := rfl
theorem exec_stb (src : BitVec 5) (b : BitVec 5) (o : BitVec 12) (s : State) :
    exec (.stb src b o) s = execStb src b o s := rfl
theorem exec_sth (src : BitVec 5) (b : BitVec 5) (o : BitVec 12) (s : State) :
    exec (.sth src b o) s = execSth src b o s := rfl
theorem exec_stw (src : BitVec 5) (b : BitVec 5) (o : BitVec 12) (s : State) :
    exec (.stw src b o) s = execStw src b o s := rfl
theorem exec_std (src : BitVec 5) (b : BitVec 5) (o : BitVec 12) (s : State) :
    exec (.std src b o) s = execStd src b o s := rfl
theorem exec_lda (d : BitVec 5) (b : BitVec 5) (c : BitVec 4) (o : BitVec 8) (s : State) :
    exec (.lda d b c o) s = execLda d b c o s := rfl
theorem exec_ldc (d : BitVec 5) (b : BitVec 5) (c : BitVec 4) (o : BitVec 8) (s : State) :
    exec (.ldc d b c o) s = execLdc d b c o s := rfl
theorem exec_ldo (d : BitVec 5) (b : BitVec 5) (c : BitVec 4) (o : BitVec 8) (s : State) :
    exec (.ldo d b c o) s = execLdo d b c o s := rfl
theorem exec_stl (src : BitVec 5) (b : BitVec 5) (c : BitVec 4) (o : BitVec 8) (s : State) :
    exec (.stl src b c o) s = execStl src b c o s := rfl
theorem exec_stp (src : BitVec 5) (b : BitVec 5) (c : BitVec 4) (o : BitVec 8) (s : State) :
    exec (.stp src b c o) s = execStp src b c o s := rfl
theorem exec_stf (src : BitVec 5) (b : BitVec 5) (c : BitVec 4) (o : BitVec 8) (s : State) :
    exec (.stf src b c o) s = execStf src b c o s := rfl
theorem exec_empty (b : BitVec 5) (o : BitVec 8) (s : State) :
    exec (.empty b o) s = execEmpty b o s := rfl
theorem exec_aadd (d : BitVec 5) (a : BitVec 5) (b : BitVec 5) (c : BitVec 4) (z : BitVec 2) (s : State) :
    exec (.aadd d a b c z) s = execAadd d a b c z s := rfl
theorem exec_aand (d : BitVec 5) (a : BitVec 5) (b : BitVec 5) (c : BitVec 4) (z : BitVec 2) (s : State) :
    exec (.aand d a b c z) s = execAand d a b c z s := rfl
theorem exec_aor (d : BitVec 5) (a : BitVec 5) (b : BitVec 5) (c : BitVec 4) (z : BitVec 2) (s : State) :
    exec (.aor d a b c z) s = execAor d a b c z s := rfl
theorem exec_axor (d : BitVec 5) (a : BitVec 5) (b : BitVec 5) (c : BitVec 4) (z : BitVec 2) (s : State) :
    exec (.axor d a b c z) s = execAxor d a b c z s := rfl
theorem exec_amin (d : BitVec 5) (a : BitVec 5) (b : BitVec 5) (c : BitVec 4) (z : BitVec 2) (s : State) :
    exec (.amin d a b c z) s = execAmin d a b c z s := rfl
theorem exec_amax (d : BitVec 5) (a : BitVec 5) (b : BitVec 5) (c : BitVec 4) (z : BitVec 2) (s : State) :
    exec (.amax d a b c z) s = execAmax d a b c z s := rfl
theorem exec_aminz (d : BitVec 5) (a : BitVec 5) (b : BitVec 5) (c : BitVec 4) (z : BitVec 2) (s : State) :
    exec (.aminz d a b c z) s = execAminz d a b c z s := rfl
theorem exec_amaxz (d : BitVec 5) (a : BitVec 5) (b : BitVec 5) (c : BitVec 4) (z : BitVec 2) (s : State) :
    exec (.amaxz d a b c z) s = execAmaxz d a b c z s := rfl
theorem exec_aswap (d : BitVec 5) (a : BitVec 5) (b : BitVec 5) (c : BitVec 4) (z : BitVec 2) (s : State) :
    exec (.aswap d a b c z) s = execAswap d a b c z s := rfl
theorem exec_acas (d : BitVec 5) (a : BitVec 5) (b : BitVec 5) (c : BitVec 4) (z : BitVec 2) (s : State) :
    exec (.acas d a b c z) s = execAcas d a b c z s := rfl
theorem exec_afaddv (a : BitVec 5) (b : BitVec 5) (c : BitVec 4) (z : BitVec 2) (s : State) :
    exec (.afaddv a b c z) s = execAfaddv a b c z s := rfl
theorem exec_brset (a : BitVec 5) (b : BitVec 5) (f : BitVec 4) (s : State) :
    exec (.brset a b f) s = execBrset a b f s := rfl
theorem exec_bradd (a : BitVec 5) (b : BitVec 5) (f : BitVec 4) (s : State) :
    exec (.bradd a b f) s = execBradd a b f s := rfl
theorem exec_brget (d : BitVec 5) (a : BitVec 5) (f : BitVec 4) (s : State) :
    exec (.brget d a f) s = execBrget d a f s := rfl
theorem exec_fence (c : BitVec 4) (s : State) :
    exec (.fence c) s = execFence c s := rfl
theorem exec_waita (d : BitVec 5) (a : BitVec 5) (b : BitVec 5) (c : BitVec 4) (s : State) :
    exec (.waita d a b c) s = execWaita d a b c s := rfl
theorem exec_fadd (d : BitVec 5) (a : BitVec 5) (b : BitVec 5) (r : BitVec 3) (p : BitVec 1) (s : State) :
    exec (.fadd d a b r p) s = execFadd d a b r p s := rfl
theorem exec_fsub (d : BitVec 5) (a : BitVec 5) (b : BitVec 5) (r : BitVec 3) (p : BitVec 1) (s : State) :
    exec (.fsub d a b r p) s = execFsub d a b r p s := rfl
theorem exec_fmul (d : BitVec 5) (a : BitVec 5) (b : BitVec 5) (r : BitVec 3) (p : BitVec 1) (s : State) :
    exec (.fmul d a b r p) s = execFmul d a b r p s := rfl
theorem exec_fdiv (d : BitVec 5) (a : BitVec 5) (b : BitVec 5) (r : BitVec 3) (p : BitVec 1) (s : State) :
    exec (.fdiv d a b r p) s = execFdiv d a b r p s := rfl
theorem exec_fsqrt (d : BitVec 5) (a : BitVec 5) (r : BitVec 3) (p : BitVec 1) (s : State) :
    exec (.fsqrt d a r p) s = execFsqrt d a r p s := rfl
theorem exec_fmin (d : BitVec 5) (a : BitVec 5) (b : BitVec 5) (p : BitVec 1) (s : State) :
    exec (.fmin d a b p) s = execFmin d a b p s := rfl
theorem exec_fmax (d : BitVec 5) (a : BitVec 5) (b : BitVec 5) (p : BitVec 1) (s : State) :
    exec (.fmax d a b p) s = execFmax d a b p s := rfl
theorem exec_feq (d : BitVec 5) (a : BitVec 5) (b : BitVec 5) (p : BitVec 1) (s : State) :
    exec (.feq d a b p) s = execFeq d a b p s := rfl
theorem exec_flt (d : BitVec 5) (a : BitVec 5) (b : BitVec 5) (p : BitVec 1) (s : State) :
    exec (.flt d a b p) s = execFlt d a b p s := rfl
theorem exec_fle (d : BitVec 5) (a : BitVec 5) (b : BitVec 5) (p : BitVec 1) (s : State) :
    exec (.fle d a b p) s = execFle d a b p s := rfl
theorem exec_fclass (d : BitVec 5) (a : BitVec 5) (p : BitVec 1) (s : State) :
    exec (.fclass d a p) s = execFclass d a p s := rfl
theorem exec_fsgn (d : BitVec 5) (a : BitVec 5) (b : BitVec 5) (p : BitVec 1) (s : State) :
    exec (.fsgn d a b p) s = execFsgn d a b p s := rfl
theorem exec_fcvt (d : BitVec 5) (a : BitVec 5) (r : BitVec 3) (p : BitVec 1) (s : State) :
    exec (.fcvt d a r p) s = execFcvt d a r p s := rfl
theorem exec_fcvti (d : BitVec 5) (a : BitVec 5) (r : BitVec 3) (p : BitVec 1) (s : State) :
    exec (.fcvti d a r p) s = execFcvti d a r p s := rfl
theorem exec_icvtf (d : BitVec 5) (a : BitVec 5) (r : BitVec 3) (p : BitVec 1) (s : State) :
    exec (.icvtf d a r p) s = execIcvtf d a r p s := rfl
theorem exec_fma (d : BitVec 5) (a : BitVec 5) (b : BitVec 5) (c : BitVec 5) (r : BitVec 3) (p : BitVec 1) (s : State) :
    exec (.fma d a b c r p) s = execFma d a b c r p s := rfl
theorem exec_fms (d : BitVec 5) (a : BitVec 5) (b : BitVec 5) (c : BitVec 5) (r : BitVec 3) (p : BitVec 1) (s : State) :
    exec (.fms d a b c r p) s = execFms d a b c r p s := rfl
theorem exec_fnma (d : BitVec 5) (a : BitVec 5) (b : BitVec 5) (c : BitVec 5) (r : BitVec 3) (p : BitVec 1) (s : State) :
    exec (.fnma d a b c r p) s = execFnma d a b c r p s := rfl
theorem exec_vld (d : BitVec 5) (b : BitVec 5) (m : BitVec 2) (o : BitVec 12) (s : State) :
    exec (.vld d b m o) s = execVld d b m o s := rfl
theorem exec_vst (src : BitVec 5) (b : BitVec 5) (m : BitVec 2) (o : BitVec 12) (s : State) :
    exec (.vst src b m o) s = execVst src b m o s := rfl
theorem exec_vlds (d : BitVec 5) (a : BitVec 5) (b : BitVec 5) (w : BitVec 2) (m : BitVec 2) (s : State) :
    exec (.vlds d a b w m) s = execVlds d a b w m s := rfl
theorem exec_vsts (d : BitVec 5) (a : BitVec 5) (b : BitVec 5) (w : BitVec 2) (m : BitVec 2) (s : State) :
    exec (.vsts d a b w m) s = execVsts d a b w m s := rfl
theorem exec_vgath (d : BitVec 5) (a : BitVec 5) (b : BitVec 5) (w : BitVec 2) (m : BitVec 2) (s : State) :
    exec (.vgath d a b w m) s = execVgath d a b w m s := rfl
theorem exec_vscat (d : BitVec 5) (a : BitVec 5) (b : BitVec 5) (w : BitVec 2) (m : BitVec 2) (s : State) :
    exec (.vscat d a b w m) s = execVscat d a b w m s := rfl
theorem exec_vadd (d : BitVec 4) (a : BitVec 4) (b : BitVec 4) (m : BitVec 2) (w : BitVec 2) (s : State) :
    exec (.vadd d a b m w) s = execVadd d a b m w s := rfl
theorem exec_vsub (d : BitVec 4) (a : BitVec 4) (b : BitVec 4) (m : BitVec 2) (w : BitVec 2) (s : State) :
    exec (.vsub d a b m w) s = execVsub d a b m w s := rfl
theorem exec_vmul (d : BitVec 4) (a : BitVec 4) (b : BitVec 4) (m : BitVec 2) (w : BitVec 2) (s : State) :
    exec (.vmul d a b m w) s = execVmul d a b m w s := rfl
theorem exec_vmulh (d : BitVec 4) (a : BitVec 4) (b : BitVec 4) (m : BitVec 2) (w : BitVec 2) (s : State) :
    exec (.vmulh d a b m w) s = execVmulh d a b m w s := rfl
theorem exec_vmin (d : BitVec 4) (a : BitVec 4) (b : BitVec 4) (m : BitVec 2) (w : BitVec 2) (s : State) :
    exec (.vmin d a b m w) s = execVmin d a b m w s := rfl
theorem exec_vmax (d : BitVec 4) (a : BitVec 4) (b : BitVec 4) (m : BitVec 2) (w : BitVec 2) (s : State) :
    exec (.vmax d a b m w) s = execVmax d a b m w s := rfl
theorem exec_vand (d : BitVec 4) (a : BitVec 4) (b : BitVec 4) (m : BitVec 2) (w : BitVec 2) (s : State) :
    exec (.vand d a b m w) s = execVand d a b m w s := rfl
theorem exec_vor (d : BitVec 4) (a : BitVec 4) (b : BitVec 4) (m : BitVec 2) (w : BitVec 2) (s : State) :
    exec (.vor d a b m w) s = execVor d a b m w s := rfl
theorem exec_vxor (d : BitVec 4) (a : BitVec 4) (b : BitVec 4) (m : BitVec 2) (w : BitVec 2) (s : State) :
    exec (.vxor d a b m w) s = execVxor d a b m w s := rfl
theorem exec_vshl (d : BitVec 4) (a : BitVec 4) (b : BitVec 4) (m : BitVec 2) (w : BitVec 2) (s : State) :
    exec (.vshl d a b m w) s = execVshl d a b m w s := rfl
theorem exec_vshr (d : BitVec 4) (a : BitVec 4) (b : BitVec 4) (m : BitVec 2) (w : BitVec 2) (s : State) :
    exec (.vshr d a b m w) s = execVshr d a b m w s := rfl
theorem exec_vsra (d : BitVec 4) (a : BitVec 4) (b : BitVec 4) (m : BitVec 2) (w : BitVec 2) (s : State) :
    exec (.vsra d a b m w) s = execVsra d a b m w s := rfl
theorem exec_vabs (d : BitVec 4) (a : BitVec 4) (m : BitVec 2) (w : BitVec 2) (s : State) :
    exec (.vabs d a m w) s = execVabs d a m w s := rfl
theorem exec_vcmp (d : BitVec 4) (a : BitVec 4) (b : BitVec 4) (m : BitVec 2) (w : BitVec 2) (c : BitVec 3) (s : State) :
    exec (.vcmp d a b m w c) s = execVcmp d a b m w c s := rfl
theorem exec_vfadd (d : BitVec 4) (a : BitVec 4) (b : BitVec 4) (m : BitVec 2) (f : BitVec 2) (s : State) :
    exec (.vfadd d a b m f) s = execVfadd d a b m f s := rfl
theorem exec_vfsub (d : BitVec 4) (a : BitVec 4) (b : BitVec 4) (m : BitVec 2) (f : BitVec 2) (s : State) :
    exec (.vfsub d a b m f) s = execVfsub d a b m f s := rfl
theorem exec_vfmul (d : BitVec 4) (a : BitVec 4) (b : BitVec 4) (m : BitVec 2) (f : BitVec 2) (s : State) :
    exec (.vfmul d a b m f) s = execVfmul d a b m f s := rfl
theorem exec_vfdiv (d : BitVec 4) (a : BitVec 4) (b : BitVec 4) (m : BitVec 2) (f : BitVec 2) (s : State) :
    exec (.vfdiv d a b m f) s = execVfdiv d a b m f s := rfl
theorem exec_vfmin (d : BitVec 4) (a : BitVec 4) (b : BitVec 4) (m : BitVec 2) (f : BitVec 2) (s : State) :
    exec (.vfmin d a b m f) s = execVfmin d a b m f s := rfl
theorem exec_vfmax (d : BitVec 4) (a : BitVec 4) (b : BitVec 4) (m : BitVec 2) (f : BitVec 2) (s : State) :
    exec (.vfmax d a b m f) s = execVfmax d a b m f s := rfl
theorem exec_vfexp2 (d : BitVec 4) (a : BitVec 4) (m : BitVec 2) (f : BitVec 2) (s : State) :
    exec (.vfexp2 d a m f) s = execVfexp2 d a m f s := rfl
theorem exec_vfrcp (d : BitVec 4) (a : BitVec 4) (m : BitVec 2) (f : BitVec 2) (s : State) :
    exec (.vfrcp d a m f) s = execVfrcp d a m f s := rfl
theorem exec_vfrsq (d : BitVec 4) (a : BitVec 4) (m : BitVec 2) (f : BitVec 2) (s : State) :
    exec (.vfrsq d a m f) s = execVfrsq d a m f s := rfl
theorem exec_vfcmp (d : BitVec 4) (a : BitVec 4) (b : BitVec 4) (m : BitVec 2) (f : BitVec 2) (c : BitVec 2) (s : State) :
    exec (.vfcmp d a b m f c) s = execVfcmp d a b m f c s := rfl
theorem exec_vfma (d : BitVec 4) (a : BitVec 4) (b : BitVec 4) (c : BitVec 4) (m : BitVec 2) (f : BitVec 2) (s : State) :
    exec (.vfma d a b c m f) s = execVfma d a b c m f s := rfl
theorem exec_vsel (d : BitVec 5) (a : BitVec 5) (b : BitVec 5) (w : BitVec 2) (m : BitVec 2) (s : State) :
    exec (.vsel d a b w m) s = execVsel d a b w m s := rfl
theorem exec_vperm (d : BitVec 5) (a : BitVec 5) (b : BitVec 5) (w : BitVec 2) (m : BitVec 2) (s : State) :
    exec (.vperm d a b w m) s = execVperm d a b w m s := rfl
theorem exec_vbcst (d : BitVec 5) (a : BitVec 5) (w : BitVec 2) (m : BitVec 2) (s : State) :
    exec (.vbcst d a w m) s = execVbcst d a w m s := rfl
theorem exec_vins (d : BitVec 5) (a : BitVec 5) (b : BitVec 5) (w : BitVec 2) (s : State) :
    exec (.vins d a b w) s = execVins d a b w s := rfl
theorem exec_vext (d : BitVec 5) (a : BitVec 5) (b : BitVec 5) (w : BitVec 2) (s : State) :
    exec (.vext d a b w) s = execVext d a b w s := rfl
theorem exec_vredi (d : BitVec 5) (a : BitVec 5) (o : BitVec 3) (w : BitVec 2) (m : BitVec 2) (s : State) :
    exec (.vredi d a o w m) s = execVredi d a o w m s := rfl
theorem exec_vredf (d : BitVec 5) (a : BitVec 5) (r : BitVec 3) (f : BitVec 2) (m : BitVec 2) (s : State) :
    exec (.vredf d a r f m) s = execVredf d a r f m s := rfl
theorem exec_vcvt (d : BitVec 5) (a : BitVec 5) (src : BitVec 4) (t : BitVec 4) (x : BitVec 1) (m : BitVec 2) (r : BitVec 3) (s : State) :
    exec (.vcvt d a src t x m r) s = execVcvt d a src t x m r s := rfl
theorem exec_mand (d : BitVec 5) (a : BitVec 5) (b : BitVec 5) (s : State) :
    exec (.mand d a b) s = execMand d a b s := rfl
theorem exec_mor (d : BitVec 5) (a : BitVec 5) (b : BitVec 5) (s : State) :
    exec (.mor d a b) s = execMor d a b s := rfl
theorem exec_mnot (d : BitVec 5) (a : BitVec 5) (s : State) :
    exec (.mnot d a) s = execMnot d a s := rfl
theorem exec_mpopc (d : BitVec 5) (a : BitVec 5) (s : State) :
    exec (.mpopc d a) s = execMpopc d a s := rfl
theorem exec_mma (d : BitVec 3) (a : BitVec 5) (b : BitVec 5) (c : BitVec 1) (s : State) :
    exec (.mma d a b c) s = execMma d a b c s := rfl
theorem exec_mmrt (d : BitVec 3) (a : BitVec 5) (b : BitVec 5) (g : BitVec 2) (s : State) :
    exec (.mmrt d a b g) s = execMmrt d a b g s := rfl
theorem exec_mdist (d : BitVec 3) (a : BitVec 5) (b : BitVec 5) (s : State) :
    exec (.mdist d a b) s = execMdist d a b s := rfl
theorem exec_mcbk (n : BitVec 3) (a : BitVec 5) (s : State) :
    exec (.mcbk n a) s = execMcbk n a s := rfl
theorem exec_mldb (a : BitVec 5) (b : BitVec 5) (s : State) :
    exec (.mldb a b) s = execMldb a b s := rfl
theorem exec_mst (d : BitVec 3) (a : BitVec 5) (b : BitVec 5) (f : BitVec 4) (r : BitVec 3) (x : BitVec 1) (s : State) :
    exec (.mst d a b f r x) s = execMst d a b f r x s := rfl
theorem exec_mld (d : BitVec 3) (a : BitVec 5) (b : BitVec 5) (f : BitVec 4) (s : State) :
    exec (.mld d a b f) s = execMld d a b f s := rfl
theorem exec_mzero (d : BitVec 3) (s : State) :
    exec (.mzero d) s = execMzero d s := rfl
theorem exec_mflg (d : BitVec 3) (g : BitVec 5) (c : BitVec 1) (s : State) :
    exec (.mflg d g c) s = execMflg d g c s := rfl
theorem exec_mtopk (d : BitVec 3) (a : BitVec 5) (b : BitVec 5) (e : BitVec 1) (s : State) :
    exec (.mtopk d a b e) s = execMtopk d a b e s := rfl
theorem exec_cpy (d : BitVec 5) (a : BitVec 5) (b : BitVec 5) (src : BitVec 4) (c : BitVec 2) (s : State) :
    exec (.cpy d a b src c) s = execCpy d a b src c s := rfl
theorem exec_cpyr (d : BitVec 5) (a : BitVec 5) (b : BitVec 5) (src : BitVec 4) (c : BitVec 2) (s : State) :
    exec (.cpyr d a b src c) s = execCpyr d a b src c s := rfl
theorem exec_pump (d : BitVec 5) (a : BitVec 5) (b : BitVec 5) (src : BitVec 4) (x : BitVec 1) (c : BitVec 2) (s : State) :
    exec (.pump d a b src x c) s = execPump d a b src x c s := rfl
theorem exec_talloc (d : BitVec 5) (a : BitVec 5) (s : State) :
    exec (.talloc d a) s = execTalloc d a s := rfl
theorem exec_tseal (a : BitVec 5) (src : BitVec 4) (s : State) :
    exec (.tseal a src) s = execTseal a src s := rfl
theorem exec_tget (a : BitVec 5) (b : BitVec 5) (s : State) :
    exec (.tget a b) s = execTget a b s := rfl
theorem exec_tdrop (a : BitVec 5) (s : State) :
    exec (.tdrop a) s = execTdrop a s := rfl
theorem exec_tabandon (a : BitVec 5) (b : BitVec 5) (s : State) :
    exec (.tabandon a b) s = execTabandon a b s := rfl
theorem exec_tfree (a : BitVec 5) (s : State) :
    exec (.tfree a) s = execTfree a s := rfl
theorem exec_tinfo (d : BitVec 5) (a : BitVec 5) (s : State) :
    exec (.tinfo d a) s = execTinfo d a s := rfl
theorem exec_wpush (d : BitVec 5) (a : BitVec 5) (b : BitVec 5) (s : State) :
    exec (.wpush d a b) s = execWpush d a b s := rfl
theorem exec_wpop (d : BitVec 5) (a : BitVec 5) (s : State) :
    exec (.wpop d a) s = execWpop d a s := rfl
theorem exec_wtry (d : BitVec 5) (a : BitVec 5) (s : State) :
    exec (.wtry d a) s = execWtry d a s := rfl
theorem exec_wstat (d : BitVec 5) (a : BitVec 5) (s : State) :
    exec (.wstat d a) s = execWstat d a s := rfl
theorem exec_launch (d : BitVec 5) (a : BitVec 5) (b : BitVec 5) (s : State) :
    exec (.launch d a b) s = execLaunch d a b s := rfl
theorem exec_jopen (d : BitVec 5) (a : BitVec 5) (s : State) :
    exec (.jopen d a) s = execJopen d a s := rfl
theorem exec_jwait (d : BitVec 5) (a : BitVec 5) (s : State) :
    exec (.jwait d a) s = execJwait d a s := rfl
theorem exec_jsucc (d : BitVec 5) (a : BitVec 5) (b : BitVec 5) (s : State) :
    exec (.jsucc d a b) s = execJsucc d a b s := rfl
theorem exec_jsuccRel (d : BitVec 5) (s : State) :
    exec (.jsuccRel d) s = execJsuccRel d s := rfl
theorem exec_jsuccDis (d : BitVec 5) (s : State) :
    exec (.jsuccDis d) s = execJsuccDis d s := rfl
theorem exec_send (a : BitVec 5) (b : BitVec 5) (s : State) :
    exec (.send a b) s = execSend a b s := rfl
theorem exec_sendR (a : BitVec 5) (b : BitVec 5) (s : State) :
    exec (.sendR a b) s = execSendR a b s := rfl
theorem exec_recvm (d : BitVec 5) (a : BitVec 5) (s : State) :
    exec (.recvm d a) s = execRecvm d a s := rfl
theorem exec_portcfg (a : BitVec 5) (s : State) :
    exec (.portcfg a) s = execPortcfg a s := rfl
theorem exec_rempty (d : BitVec 5) (s : State) :
    exec (.rempty d) s = execRempty d s := rfl
theorem exec_remptyV (d : BitVec 5) (s : State) :
    exec (.remptyV d) s = execRemptyV d s := rfl
theorem exec_rbegin (l : BitVec 4) (imm : BitVec 16) (s : State) :
    exec (.rbegin l imm) s = execRbegin l imm s := rfl
theorem exec_rpres (b : BitVec 5) (n : BitVec 10) (s : State) :
    exec (.rpres b n) s = execRpres b n s := rfl
theorem exec_rpresA (d : BitVec 3) (s : State) :
    exec (.rpresA d) s = execRpresA d s := rfl
theorem exec_sysr (d : BitVec 5) (x : BitVec 5) (n : BitVec 6) (s : State) :
    exec (.sysr d x n) s = execSysr d x n s := rfl
theorem exec_sysw (a : BitVec 5) (x : BitVec 5) (n : BitVec 6) (s : State) :
    exec (.sysw a x n) s = execSysw a x n s := rfl
theorem exec_setrnd (m : BitVec 3) (s : State) :
    exec (.setrnd m) s = execSetrnd m s := rfl
theorem exec_trap (imm : BitVec 15) (s : State) :
    exec (.trap imm) s = execTrap imm s := rfl
theorem exec_sleep (n : BitVec 2) (s : State) :
    exec (.sleep n) s = execSleep n s := rfl
theorem exec_tcswap (a : BitVec 5) (b : BitVec 5) (k : BitVec 1) (s : State) :
    exec (.tcswap a b k) s = execTcswap a b k s := rfl
theorem exec_tlbinv (a : BitVec 5) (b : BitVec 5) (src : BitVec 4) (f : BitVec 2) (s : State) :
    exec (.tlbinv a b src f) s = execTlbinv a b src f s := rfl
theorem exec_brk (imm : BitVec 15) (s : State) :
    exec (.brk imm) s = execBrk imm s := rfl
theorem exec_himm (d : BitVec 24) (s : State) :
    exec (.himm d) s = execHimm d s := rfl
theorem exec_hmod (d : BitVec 24) (s : State) :
    exec (.hmod d) s = execHmod d s := rfl
theorem exec_hmod2 (d : BitVec 24) (s : State) :
    exec (.hmod2 d) s = execHmod2 d s := rfl
theorem exec_illegalInstructionWord (w : BitVec 32) (s : State) :
    exec (.illegalInstructionWord w) s = execIllegalInstructionWord w s := rfl
theorem exec_divideResultWritten (core : Nat) (slot : Nat) (s : State) :
    exec (.divideResultWritten core slot) s = execDivideResultWritten core slot s := rfl
theorem exec_selectionMergeComplete (core : Nat) (slot : Nat) (s : State) :
    exec (.selectionMergeComplete core slot) s = execSelectionMergeComplete core slot s := rfl
theorem exec_hostWriteBackInvalidate (addr : Nat) (bytes : List (BitVec 8)) (s : State) :
    exec (.hostWriteBackInvalidate addr bytes) s = execHostWriteBackInvalidate addr bytes s := rfl
theorem exec_powerGood (s : State) :
    exec .powerGood s = execPowerGood s := rfl
theorem exec_mhlTrainRetry (s : State) :
    exec .mhlTrainRetry s = execMhlTrainRetry s := rfl
theorem exec_thermalShutdown (s : State) :
    exec .thermalShutdown s = execThermalShutdown s := rfl
theorem exec_currentExcess (s : State) :
    exec .currentExcess s = execCurrentExcess s := rfl
theorem exec_powerLimitExpiry (s : State) :
    exec .powerLimitExpiry s = execPowerLimitExpiry s := rfl
theorem exec_fatalError (s : State) :
    exec .fatalError s = execFatalError s := rfl
theorem exec_attestation (s : State) :
    exec .attestation s = execAttestation s := rfl
theorem exec_raiseFusedMinimum (s : State) :
    exec .raiseFusedMinimum s = execRaiseFusedMinimum s := rfl
theorem exec_snapshotTrigger (s : State) :
    exec .snapshotTrigger s = execSnapshotTrigger s := rfl
theorem exec_armDebug (s : State) :
    exec .armDebug s = execArmDebug s := rfl
theorem exec_resumeHaltedThread (s : State) :
    exec .resumeHaltedThread s = execResumeHaltedThread s := rfl
theorem exec_armErrorInjection (s : State) :
    exec .armErrorInjection s = execArmErrorInjection s := rfl
theorem exec_stageImageChunk (s : State) :
    exec .stageImageChunk s = execStageImageChunk s := rfl
theorem exec_commitStagedImage (s : State) :
    exec .commitStagedImage s = execCommitStagedImage s := rfl
theorem exec_unknownRequest (s : State) :
    exec .unknownRequest s = execUnknownRequest s := rfl
theorem exec_synci (s : State) :
    exec .synci s = execSynci s := rfl
theorem exec_gbar (s : State) :
    exec .gbar s = execGbar s := rfl
theorem exec_gexit (s : State) :
    exec .gexit s = execGexit s := rfl
theorem exec_waitm (s : State) :
    exec .waitm s = execWaitm s := rfl
theorem exec_rend (s : State) :
    exec .rend s = execRend s := rfl
theorem exec_rfail (s : State) :
    exec .rfail s = execRfail s := rfl
theorem exec_eret (s : State) :
    exec .eret s = execEret s := rfl
theorem exec_yield (s : State) :
    exec .yield s = execYield s := rfl

/-- Every word but a hint runs its meaning in the one frame (R317): a thread, the encoding checks, the meaning. -/
theorem exec_runs (i : Instr) (hw : i.isWord = true) (hh : (∀ d, i ≠ .himm d) ∧ (∀ d, i ≠ .hmod d) ∧ ∀ d, i ≠ .hmod2 d) :
    ∃ m : State → Thread → Except Stop Eff, ∀ s, exec i s = run i m s := by
  cases i
  case himm d => exact absurd rfl (hh.1 d)
  case hmod d => exact absurd rfl (hh.2.1 d)
  case hmod2 d => exact absurd rfl (hh.2.2 d)
  all_goals first
    | exact ⟨_, fun _ => rfl⟩
    | simp [Instr.isWord] at hw

/-! ### A turn that acts on other cores (R140, R148) -/

/-- What a turn that has come to `o` answers: `o`, or the thread parked until the issues of the cycle are over. -/
theorem afterOthers_cases (s : State) (k : Nat) (t : Thread) (o : Host.Outcome State Fault Refusal) :
    afterOthers s k t o = o ∨ (∃ s1, o = .next s1 ∧ agreeElsewhere (k / 16) s s1 = false) ∧
      afterOthers s k t o = .next (parkIn s k t (.retry .issues)) := by
  cases o with
  | next s1 => cases h : agreeElsewhere (k / 16) s s1 <;> simp [afterOthers, h]
  | fault _ => exact .inl rfl
  | refused _ => exact .inl rfl

end Sys2Proof.Machine
end

