-- ==== Sys2Proof/Tests/Slice0.lean ====
section
/-!
SUPPORT. The model's own tests: words of the opcode map that the spec's chapters spell out, ill-formed terms for each check of
WellFormed, single steps with results worked out from the spec by hand, and, for each obligation with hypotheses, operands
and states that meet all of them together (`test_met_…`). An equation among the hypotheses that only names a term is met by
that term and is not repeated here.
-/
namespace Sys2Proof.Tests
open Sys2Proof Sys2Proof.Machine
set_option Elab.async false

/-! ### Helpers -/

/-- Each word of 32 bits decodes to its instruction. -/
def readsAs (l : List (Nat × Instr)) : Bool := l.all fun p => decide (decodeTableWord 32 p.1 = some p.2)

/-- All of the list hold. -/
def met (l : List Bool) : Bool := l.all id

/-- `Issuable`, evaluated. -/
def issuableB (i : Instr) (s : State) (t : Thread) : Bool := decide (s.thread? = some t) && i.wf && hintsOk i t.hints

/-- `Issues`, evaluated. -/
def issuesB (i : Instr) (s : State) (t : Thread) : Bool := issuableB i s t && !t.atLastWord

/-- `Readable`, evaluated. -/
def readableB (t : Thread) (gs : List (BitVec 5)) (vs : List Nat) : Bool :=
  gs.all (fun r => t.gIsFull r && !t.gBad r) && vs.all (fun r => t.vIsFull r && !t.vBad r) && !(t.port.en && gs.contains 28)

theorem issuableB_spec (i : Instr) (s : State) (t : Thread) : issuableB i s t = true ↔ Issuable i s t := by
  constructor
  · intro h
    simp only [issuableB, Bool.and_eq_true, decide_eq_true_eq] at h
    exact ⟨h.1.1, h.1.2, h.2⟩
  · rintro ⟨h1, h2, h3⟩
    simp [issuableB, h1, h2, h3]

theorem issuesB_spec (i : Instr) (s : State) (t : Thread) : issuesB i s t = true ↔ Issues i s t := by
  constructor
  · intro h
    simp only [issuesB, Bool.and_eq_true, Bool.not_eq_true'] at h
    exact ⟨(issuableB_spec i s t).1 h.1, h.2⟩
  · rintro ⟨h1, h2⟩
    simp [issuesB, (issuableB_spec i s t).2 h1, h2]

theorem readableB_spec (t : Thread) (gs : List (BitVec 5)) (vs : List Nat) :
    readableB t gs vs = true ↔ Readable t gs vs := by
  constructor
  · intro h
    simp only [readableB, Bool.and_eq_true, List.all_eq_true, Bool.not_eq_true', Bool.and_eq_false_iff] at h
    refine ⟨fun r hr => (h.1.1 r hr).1, fun r hr => (h.1.2 r hr).1, fun hp hm => ?_, fun r hr => (h.1.1 r hr).2,
      fun r hr => (h.1.2 r hr).2⟩
    rcases h.2 with h | h
    · simp [hp] at h
    · simp_all
  · rintro ⟨h1, h2, h3, h4, h5⟩
    simp only [readableB, Bool.and_eq_true, List.all_eq_true, Bool.not_eq_true', Bool.and_eq_false_iff]
    refine ⟨⟨fun r hr => ⟨h1 r hr, h4 r hr⟩, fun r hr => ⟨h2 r hr, h5 r hr⟩⟩, ?_⟩
    cases hp : t.port.en
    · exact .inl rfl
    · exact .inr (by simpa using h3 hp)

/-- A fresh thread at 0x100 with the given g registers. -/
def tw (l : List (Nat × Word)) : Thread :=
  { Thread.start 1 with pc := 0x100, g := l.foldl (fun g e => g.set e.1 e.2) (List.replicate 32 0) }

/-- The machine up, with one thread, in slot 0 of core 0. -/
def on (t : Thread) : State := { State.reset with status := 2, slots := [(0, .busy t)] }

/-- The state that an outcome holds, if it is a next state. -/
def nextOf : Host.Outcome State Fault Refusal → Option State
  | .next s => some s
  | _ => none

/-- What the thread of slot 0 of core 0 is after instruction `i` of a thread `t` on its own. -/
def after (i : Instr) (t : Thread) : Option Thread := (nextOf (exec i (on t))).bind fun s => s.threadIn 0 0

/-! ### Words of the opcode map -/

/-- INT (R312): the words of ADD and SEXT as spec/15 has them. -/
theorem test_decode_int : readsAs [
    (0x04A32000, .add 5 3 4), (0x04A32001, .sub 5 3 4), (0x04A32002, .and 5 3 4), (0x04A32003, .or 5 3 4),
    (0x04A32004, .xor 5 3 4), (0x04A32005, .andn 5 3 4), (0x04A32006, .orn 5 3 4), (0x04A32007, .shl 5 3 4),
    (0x04A32008, .shr 5 3 4), (0x04A32009, .sra 5 3 4), (0x04A3200A, .rol 5 3 4), (0x04A3200B, .slt 5 3 4),
    (0x04A3200C, .sltu 5 3 4), (0x04A3200D, .seq 5 3 4), (0x04A3200E, .min 5 3 4), (0x04A3200F, .max 5 3 4),
    (0x04A32010, .minz 5 3 4), (0x04A32011, .maxz 5 3 4), (0x04E80012, .clz 7 8), (0x04E80013, .ctz 7 8),
    (0x04E80014, .popc 7 8), (0x04E80095, .sext 7 8 2), (0x04E80056, .zext 7 8 1)] = true := by decide

/-- MULDIV (R312). -/
theorem test_decode_muldiv : readsAs [
    (0x092A5800, .mul 9 10 11), (0x092A5801, .div 9 10 11), (0x092A5802, .divz 9 10 11), (0x092A5803, .rem 9 10 11),
    (0x092A5804, .remz 9 10 11), (0x092A5805, .mulh 9 10 11), (0x092A5806, .mulhz 9 10 11),
    (0x092A5807, .mulhsz 9 10 11)] = true := by decide

/-- The I format (R311, R312): words of spec/14 and spec/15. -/
theorem test_decode_immediate : readsAs [
    (0x0CA3FFFC, .addi 5 3 0xFFFC), (0x10A3FFFC, .slti 5 3 0xFFFC), (0x14A3FFFC, .sltiu 5 3 0xFFFC),
    (0x18C08000, .andi 6 0 0x8000), (0x1CC08000, .ori 6 0 0x8000), (0x20C08000, .xori 6 0 0x8000),
    (0x24A60003, .shli 5 6 3), (0x24A60043, .shri 5 6 3), (0x24A60083, .srai 5 6 3), (0x24A600C3, .roli 5 6 3),
    (0x29200000, .ldhi 9 0), (0x2C800034, .addpc 4 0x34)] = true := by decide

/-- Branches and jumps (R311): words of spec/14 and spec/15. -/
theorem test_decode_control : readsAs [
    (0x30640003, .beq 3 4 3), (0x34A6FFFE, .bne 5 6 0xFFFE), (0x38640003, .blt 3 4 3), (0x3C640003, .bge 3 4 3),
    (0x40640003, .bltu 3 4 3), (0x44640003, .bgeu 3 4 3), (0x4BFFFFFB, .j 0x3FFFFFB), (0x4C000008, .jal 8),
    (0x501F0000, .jr 31), (0x53E50001, .jalr 31 5)] = true := by decide

/-- LD, ST, LDSYNC, STSYNC (R312): words of spec/16. -/
theorem test_decode_loads : readsAs [
    (0x54A60002, .ldb 5 6 2), (0x54A61002, .ldh 5 6 2), (0x54A62002, .ldw 5 6 2), (0x54A63002, .ldd 5 6 2),
    (0x54A64002, .ldbz 5 6 2), (0x54A65002, .ldhz 5 6 2), (0x54A66002, .ldwz 5 6 2), (0x58FE0FFE, .stb 7 30 0xFFE),
    (0x58FE1FFE, .sth 7 30 0xFFE), (0x58FE2FFE, .stw 7 30 0xFFE), (0x58FE3FFE, .std 7 30 0xFFE),
    (0x5CA60500, .lda 5 6 5 0), (0x5CA41301, .ldc 5 4 3 1), (0x5CA42301, .ldo 5 4 3 1), (0x60E80301, .stl 7 8 3 1),
    (0x60E81301, .stp 7 8 3 1), (0x60E82301, .stf 7 8 3 1), (0x60083000, .empty 8 0)] = true := by decide

/-- ATOM, BANKRED and the fences (R312): words of spec/16. -/
theorem test_decode_atomics : readsAs [
    (0x64A63AE0, .aadd 5 6 7 5 3), (0x64A63AE1, .aand 5 6 7 5 3), (0x64A63AE2, .aor 5 6 7 5 3),
    (0x64A63AE3, .axor 5 6 7 5 3), (0x64A63AE4, .amin 5 6 7 5 3), (0x64A63AE5, .amax 5 6 7 5 3),
    (0x64A63AE6, .aminz 5 6 7 5 3), (0x64A63AE7, .amaxz 5 6 7 5 3), (0x64A63AE8, .aswap 5 6 7 5 3),
    (0x64A63AE9, .acas 5 6 7 5 3), (0x6406124A, .afaddv 6 2 4 2), (0x68040008, .brset 4 0 2),
    (0x68042809, .bradd 4 5 2), (0x68C4000A, .brget 6 4 2), (0x6C000014, .fence 5), (0x6C000001, .synci),
    (0x6CA63822, .waita 5 6 7 8)] = true := by decide

/-- FP and FMA3 (R312): words of spec/17. -/
theorem test_decode_float : readsAs [
    (0x70A63820, .fadd 5 6 7 0 1), (0x70A63821, .fsub 5 6 7 0 1), (0x70A63822, .fmul 5 6 7 0 1),
    (0x70A63823, .fdiv 5 6 7 0 1), (0x70A60024, .fsqrt 5 6 0 1), (0x708531E5, .fmin 4 5 6 1),
    (0x708531E6, .fmax 4 5 6 1), (0x708531E7, .feq 4 5 6 1), (0x708531E8, .flt 4 5 6 1), (0x708531E9, .fle 4 5 6 1),
    (0x708501EA, .fclass 4 5 1), (0x708531EB, .fsgn 4 5 6 1), (0x708501CC, .fcvt 4 5 7 0),
    (0x708501CD, .fcvti 4 5 7 0), (0x708501CE, .icvtf 4 5 7 0), (0x74A63A04, .fma 5 6 7 8 0 1),
    (0x74A63A05, .fms 5 6 7 8 0 1), (0x74A63A06, .fnma 5 6 7 8 0 1)] = true := by decide

/-- VLD, VST and VMEMX (R313): words of spec/17. -/
theorem test_decode_vmem : readsAs [
    (0x78661002, .vld 3 6 1 2), (0x7C672000, .vst 3 7 2 0), (0x80434830, .vlds 2 3 9 3 0),
    (0x80434831, .vsts 2 3 9 3 0), (0x80862826, .vgath 4 6 5 2 1), (0x80862827, .vscat 4 6 5 2 1)] = true := by decide

/-- VINT (R313): words of spec/17. -/
theorem test_decode_vint : readsAs [
    (0x84C48080, .vadd 3 1 2 0 2), (0x84C48081, .vsub 3 1 2 0 2), (0x84C48082, .vmul 3 1 2 0 2),
    (0x84C48083, .vmulh 3 1 2 0 2), (0x84C48084, .vmin 3 1 2 0 2), (0x84C48085, .vmax 3 1 2 0 2),
    (0x84C48086, .vand 3 1 2 0 2), (0x84C48087, .vor 3 1 2 0 2), (0x84C48088, .vxor 3 1 2 0 2),
    (0x84C48089, .vshl 3 1 2 0 2), (0x84C4808A, .vshr 3 1 2 0 2), (0x84C4808B, .vsra 3 1 2 0 2),
    (0x84C4008C, .vabs 3 1 0 2), (0x84514252, .vcmp 1 4 5 2 1 2)] = true := by decide

/-- VFLT and VFMA (R313): words of spec/17. -/
theorem test_decode_vfloat : readsAs [
    (0x88C48080, .vfadd 3 1 2 0 2), (0x88C48081, .vfsub 3 1 2 0 2), (0x88C48082, .vfmul 3 1 2 0 2),
    (0x88C48083, .vfdiv 3 1 2 0 2), (0x88C48084, .vfmin 3 1 2 0 2), (0x88C48085, .vfmax 3 1 2 0 2),
    (0x88840186, .vfexp2 2 1 1 2), (0x890C0087, .vfrcp 4 3 0 2), (0x890C0088, .vfrsq 4 3 0 2),
    (0x88D9C0D3, .vfcmp 3 6 7 0 3 3), (0x8D048C80, .vfma 4 1 2 3 0 2)] = true := by decide

/-- VXFR, VCVT and MASK (R313): words of spec/17. -/
theorem test_decode_vector : readsAs [
    (0x90A73880, .vsel 5 7 7 2 0), (0x90A73881, .vperm 5 7 7 2 0), (0x90A70082, .vbcst 5 7 2 0),
    (0x90A73883, .vins 5 7 7 2), (0x90A73884, .vext 5 7 7 2), (0x90C20195, .vredi 6 2 1 2 1),
    (0x90C20096, .vredf 6 2 0 2 1), (0x94221180, .vcvt 1 2 2 3 0 0 0), (0x98221800, .mand 1 2 3),
    (0x98221801, .mor 1 2 3), (0x98220002, .mnot 1 2), (0x98A10003, .mpopc 5 1)] = true := by decide

/-- MAT and MATC (R313): words of spec/18. -/
theorem test_decode_matrix : readsAs [
    (0x9C94C000, .mma 1 5 6 0), (0x9C94C100, .mma 1 5 6 1), (0x9C086240, .mmrt 0 2 3 1), (0x9D10A400, .mdist 2 4 5),
    (0xA1140000, .mcbk 2 5), (0xA014C200, .mldb 5 6), (0xA11D0460, .mst 2 7 8 3 0 0), (0xA1A54640, .mld 3 9 10 2),
    (0xA0800800, .mzero 1), (0xA0940A01, .mflg 1 5 1), (0xA010AD00, .mtopk 0 4 5 1)] = true := by decide

/-- COPY and TILE (R314): words of spec/18 and spec/19. -/
theorem test_decode_copy : readsAs [
    (0xA5242A80, .cpy 9 4 5 5 0), (0xA4042A11, .cpyr 0 4 5 4 1), (0xA4E612C2, .pump 7 6 2 5 1 0),
    (0xA8A60000, .talloc 5 6), (0xA8050051, .tseal 5 5), (0xA8053802, .tget 5 7), (0xA8050003, .tdrop 5),
    (0xA8053004, .tabandon 5 6), (0xA8050005, .tfree 5), (0xA9250006, .tinfo 9 5)] = true := by decide

/-- WL, GANG, MSG and RGN (R314): words of spec/19. -/
theorem test_decode_work : readsAs [
    (0xAC442800, .wpush 2 4 5), (0xAC640001, .wpop 3 4), (0xAC640002, .wtry 3 4), (0xACC40003, .wstat 6 4),
    (0xAC462804, .launch 2 6 5), (0xB0000000, .gbar), (0xB0000001, .gexit), (0xB1440002, .jopen 10 4),
    (0xB16A0003, .jwait 11 10), (0xB18A6804, .jsucc 12 10 13), (0xB1800014, .jsuccRel 12), (0xB1800024, .jsuccDis 12),
    (0xB4041000, .send 4 2), (0xB4041010, .sendR 4 2), (0xB4000001, .waitm), (0xB4650002, .recvm 3 5),
    (0xB4040003, .portcfg 4), (0xB4E00004, .rempty 7), (0xB4E00014, .remptyV 7), (0xB8400005, .rbegin 2 5),
    (0xB8C10000, .rpres 6 0), (0xB8420000, .rpresA 2), (0xB8030000, .rend), (0xB8040000, .rfail)] = true := by decide

/-- SYS and HINT (R311, R314): words of spec/14 and spec/19. -/
theorem test_decode_system : readsAs [
    (0xBCA000E0, .sysr 5 0 7), (0xBC070201, .sysw 7 0 16), (0xBCC044A0, .sysr 6 8 37), (0xBC000022, .setrnd 1),
    (0xBC009003, .trap 0x12), (0xBC000004, .eret), (0xBC000005, .yield), (0xBC000046, .sleep 2),
    (0xBC053007, .tcswap 5 6 0), (0xBC0532C8, .tlbinv 5 6 5 2), (0xBC000009, .brk 0), (0xFC000012, .himm 0x12),
    (0xFD0000F7, .hmod 0xF7), (0xFE000007, .hmod2 7)] = true := by decide

/-! ### Well-formedness -/

/-- An ill-formed term for each check of WellFormed; each is refused. -/
theorem test_wf_refuses : [Instr.sext 1 2 3, .zext 1 2 3, .lda 1 2 9 0, .ldc 1 2 9 0, .ldo 1 2 15 0, .stl 1 2 9 0, .stp 1 2 9 0,
    .stf 1 2 9 0, .aadd 1 2 3 9 3, .aadd 1 2 3 0 1, .aand 1 2 3 0 1, .aor 1 2 3 0 0, .axor 1 2 3 9 2, .amin 1 2 3 0 1,
    .amax 1 2 3 0 1, .aminz 1 2 3 0 1, .amaxz 1 2 3 0 1, .aswap 1 2 3 0 1, .acas 1 2 3 0 1, .afaddv 1 16 0 3, .afaddv 1 2 9 3,
    .afaddv 1 2 0 1, .brset 1 2 1, .bradd 1 2 7, .brget 1 2 14, .fence 9, .waita 1 2 3 9, .fadd 1 2 3 6 0, .fsub 1 2 3 6 0,
    .fmul 1 2 3 6 1, .fdiv 1 2 3 6 0, .fsqrt 1 2 6 0, .fcvt 1 2 6 0, .fcvti 1 2 6 0, .icvtf 1 2 6 0, .fma 1 2 3 4 6 0,
    .fms 1 2 3 4 6 0, .fnma 1 2 3 4 6 0, .vld 16 1 0 0, .vst 16 1 0 0, .vlds 16 1 2 0 0, .vsts 16 1 2 0 0, .vgath 16 1 2 0 0,
    .vgath 1 1 16 0 0, .vscat 16 1 2 0 0, .vscat 1 1 31 0 0, .vcmp 4 1 2 0 0 0, .vcmp 1 1 2 0 0 6, .vfcmp 4 1 2 0 0 0,
    .vsel 16 1 2 0 0, .vsel 1 16 2 0 0, .vsel 1 2 16 0 0, .vperm 16 1 2 0 0, .vbcst 16 1 0 0, .vins 16 1 2 0, .vext 1 16 2 0,
    .vredi 1 16 0 0 0, .vredf 1 16 0 0 0, .vredf 1 2 6 0 0].all (fun i => !i.wf) = true := by decide

theorem test_wf_refuses_more : [Instr.vcvt 16 1 2 3 0 0 0, .vcvt 1 16 2 3 0 0 0, .vcvt 1 2 0 3 0 0 0, .vcvt 1 2 15 3 0 0 0,
    .vcvt 1 2 14 2 0 0 0, .vcvt 1 2 14 3 1 0 0, .vcvt 1 2 3 2 1 0 0, .vcvt 1 2 7 9 1 0 0, .vcvt 1 2 2 7 1 0 0, .vcvt 1 2 2 7 0 0 6,
    .mand 4 1 2, .mor 1 4 2, .mnot 1 4, .mpopc 1 4, .mmrt 1 2 3 2, .mst 1 2 3 1 0 0, .mst 1 2 3 13 0 0, .mst 1 2 3 3 6 0,
    .mld 1 2 3 3, .cpy 1 2 3 9 0, .cpy 1 2 3 0 2, .cpy 1 2 3 0 1, .cpyr 1 2 3 0 1, .pump 1 2 16 0 1 0, .pump 1 2 3 0 0 0,
    .pump 1 2 0 0 0 1, .tseal 1 9, .wpush 16 1 2, .wpop 16 1, .wtry 16 1, .launch 16 1 2, .send 1 16, .sendR 1 16, .recvm 16 1,
    .remptyV 16, .sysr 1 2 43, .sysw 1 2 43, .sleep 3, .tlbinv 1 2 3 3, .tlbinv 0 0 2 0, .tlbinv 1 0 3 0, .tlbinv 1 2 3 1].all
      (fun i => !i.wf) = true := by decide

/-- Words with a reserved value or an unassigned code decode to nothing (R8, R315, R316). -/
theorem test_decode_refuses : [0x00000000, 0xFFFFFFFF, 0x04A3201F, 0x04E800D5, 0x0BFFFFFF, 0xC0000000, 0x50000002, 0xA5242AF0].all
    (fun w => decide (decodeTableWord 32 w = none)) = true := by decide

/-! ### The hypotheses of the obligations: encoding, the step, integers, control -/

theorem test_met_DecodeInvertsEncode : [Instr.add 31 0 31, .tlbinv 0 0 1 0, .himm 0xFFFFFF].all (fun i => i.isWord && i.wf) = true := by
  decide +kernel

theorem test_met_DecodedWordIsItsEncoding : decodeWord 0xBC0532C8 = .ok (.tlbinv 5 6 5 2) := rfl

/-- A thread about to issue the word of ADDI g5, g3, -4; the leading thread of a pair about to issue word `w`. -/
def fetching : State := (on (tw [])).withFetchWord 32 0x0CA3FFFC

def fetchingPair (w : Nat) : State := ((on (tw [])).withFetchWord 32 w).modSlot 0 fun t => { t with pair := true }

/-- A place on die 1, and a load of it by thread 2. -/
def far : Nat := Place.hbm 0 0x30_0000_0000

def farLoad : Req := ⟨.load 5 true, [⟨0x2000_0000_0000, far, 8, [], 0⟩], none⟩

/-- The same machine with a store of thread 1 to that place pending behind the load of thread 2, in slot 1, which came first. -/
def held (s : State) : State :=
  { s with
    stores := [⟨1, 0, 0, 0, far, [1], false⟩], arrived := [(2, 0)]
    slots := s.slots ++ [(1, .busy { Thread.start 2 with park := some (.access farLoad) })] }

/-- The instruction of thread `t` waits for such a store. -/
def heldB (i : Instr) (s : State) (t : Thread) : Bool := issuesB i (held s) t && (held s).blocked t.uid

/-- Core 0 issues, and the word that it fetches decodes to `i`: by its turn of the agenda, or with none, or with an event first. -/
def fetchedB (s : State) (i : Option Instr) (pair : Bool) : Bool :=
  let s0 := match s.agenda with | .issue _ :: rest => { s with agenda := rest } | _ => s
  !s.stopped && issues s 0 && decide (issuable s = some 0) &&
    match pickSlot s0 0 s.now (issueOrder (s.core 0).lastSlot) s0 with
    | (some (n, t), acc) => decide (acc.threadIn 0 n = some t ∧ n < 16 ∧ t.owed = none) && !t.spoiled && !fetchPoisoned acc 0 t &&
      (beginIssue acc 0 n s.now t).thread?.any fun u => decide (u.pair = pair) &&
        match decodeWord (fetchedWord (fillBuffer (beginIssue acc 0 n s.now t) 0 u)), i with
        | .ok x, some y => decide (x = y)
        | .error _, none => true
        | _, _ => false
    | _ => false

/-- An instruction of the thread of slot 0 changes nothing that another core issues from, or does. -/
def staysB (i : Instr) (s : State) (stays : Bool) : Bool :=
  match exec i s with
  | .next s1 => agreeElsewhere 0 s (settle s1) == stays
  | _ => false

/-- A thread of core 1 that waits for a message, its mailbox empty. -/
def mailWaiter : Thread := { Thread.start 9 with park := some (.retry .mailbox) }

/-- A thread about to send a message to core 1; the thread that has waited for the issues of the cycle with that word, fetched. -/
def sender : Thread := { tw [(4, 1 <<< 4), (2, 0)] with v := List.replicate 16 7 }

def senderOn (t : Thread) : State := { on t with slots := [(0, .busy t), (16, .busy mailWaiter)] }

theorem test_met_StepExecutesDecodedWord :
    (met [fetchedB fetching (some (.addi 5 3 0xFFFC)) false, fetchedB ((on (tw [])).withFetchWord 32 0) none false,
      fetchedB { fetching with agenda := [] } (some (.addi 5 3 0xFFFC)) false,
      fetchedB { fetching with agenda := [.event .fatalError, .issue 0] } (some (.addi 5 3 0xFFFC)) false,
      fetchedB { fetching with agenda := [.issue 7] } (some (.addi 5 3 0xFFFC)) false, !issues fetching 7,
      fetchedB (fetchingPair 0x58FE3FFE) (some (.std 7 30 0xFFE)) true, comparesAt (tw []) (.std 7 30 0xFFE),
      fetchedB (fetchingPair 0x0CA3FFFC) (some (.addi 5 3 0xFFFC)) true, !comparesAt (tw []) (.addi 5 3 0xFFFC),
      (nextOf (exec (.addi 5 3 0xFFFC) (on (tw []).runAhead))).isSome, staysB (.addi 5 3 0xFFFC) (on (tw [])) true,
      decide ((tw []).pc.toNat % 4 = 0), decide ((tw []).fetchBuf = none)]) = true := by decide +kernel

theorem test_met_StepExecutesDecodedWord_resumes :
    (let t := { sender with park := some (.retry .issues) }
    met [decide (issuable (senderOn t) = none), !(senderOn t).stopped, !t.spoiled, !t.pair, decide (t.owed = none),
      decide ((senderOn t).residents.find? (fun e => decide (e.2.park = some (.retry .issues))) = some (0, t)),
      decide (NatMap.get (senderOn t).slots 0 .empty = .busy t)]) = true := by decide +kernel

/-- Thread with the operands of the integer tests: the extreme values, and shift amounts 63 and 64. -/
def ti : Thread := tw [(1, 0x8000_0000_0000_0000), (2, 63), (3, 64), (4, 0xFFFF_FFFF_FFFF_FFFF)]

def integerForms : List Instr :=
  [.add 5 1 4, .sub 0 1 4, .and 5 1 4, .or 5 1 4, .xor 5 1 4, .andn 5 1 4, .orn 5 1 4, .shl 5 4 2, .shr 5 4 3, .sra 5 1 2, .rol 5 1 2,
   .slt 5 1 4, .sltu 5 1 4, .seq 5 1 1, .min 5 1 4, .max 5 1 4, .minz 5 1 4, .maxz 31 1 4, .clz 5 0, .ctz 5 1, .popc 5 4, .sext 5 1 2,
   .zext 5 1 0, .mul 5 1 4, .mulh 5 1 4, .mulhz 5 1 4, .mulhsz 5 1 4, .addi 5 1 0xFFFF, .slti 5 1 0x8000, .sltiu 5 1 0, .andi 5 1 0xFFFF,
   .ori 5 1 0, .xori 5 1 0xFFFF, .shli 5 1 63, .shri 5 1 63, .srai 5 1 63, .roli 5 1 0, .ldhi 5 0xFFFF, .addpc 5 0x8000]

theorem test_met_ScalarArithmeticCompletes :
    (integerForms.all fun i => match Claims.scalarResult ti i with
      | some (d, gs, _) => issuesB i (on ti) ti && readableB ti gs [] && decide (ti.keeps d)
      | none => false) = true := by decide +kernel

theorem test_met_ScalarArithmeticCompletes_lastWord :
    (met [issuableB (.add 5 1 4) (on { ti with pc := 0x7FFFC }) { ti with pc := 0x7FFFC }, { ti with pc := 0x7FFFC }.atLastWord,
      readableB { ti with pc := 0x7FFFC } [1, 4] []]) = true := by decide +kernel

theorem test_met_EmptySourcesPark :
    ([Instr.add 5 1 4, .div 5 4 1, .srai 5 1 3].all fun i =>
      issuesB i (on { ti with gFull := 0xFFFFFFFD }) { ti with gFull := 0xFFFFFFFD } && !{ ti with gFull := 0xFFFFFFFD }.gIsFull 1 &&
      issuesB i (on { ti with badG := 2 }) { ti with badG := 2 } && { ti with badG := 2 }.gBad 1 && ti.gIsFull 1 && ti.gIsFull 3 &&
      ti.gIsFull 4) = true := by
  decide +kernel

/-- A thread with its port enabled. -/
def tp : Thread := { ti with port := ⟨true, 0, 0, 1⟩ }

theorem test_met_PortRegistersComplete :
    (met [issuesB (.add 5 28 28) (on tp) tp, tp.gIsFull 28, decide (tp.keeps 5), decide ((on tp).queue 0 tp.pinQueue = []),
      decide (((on tp).pushFlit 0 tp.pinQueue 7).queue 0 tp.pinQueue = [7]),
      issuesB (.add 29 1 4) (on tp) tp, readableB tp [1, 4] [],
      (on tp).poutRoom (tp.poutTarget 0).1 (tp.poutTarget 0).2, [28].all (fun r => tp.gIsFull r && !tp.gBad r), !tp.inRegion,
      !((on tp).setQueue (tp.poutTarget 0).1 (tp.poutTarget 0).2 (List.replicate 8 1)).poutRoom (tp.poutTarget 0).1 (tp.poutTarget 0).2,
      issuesB (.add 29 1 4) ((on tp).setQueue (tp.poutTarget 0).1 (tp.poutTarget 0).2 (List.replicate 8 1)) tp]) = true := by decide +kernel

theorem test_met_DivisionsParkAndFill :
    (met [[Instr.div 5 1 4, .divz 5 1 0, .rem 5 1 4, .remz 0 1 0].all (fun i => (Claims.quotient ti i).any fun x =>
        issuesB i (on ti) ti && readableB ti x.2.1 []),
      decide ((on { ti with park := some (.divide 5 7 DZ) }).threadIn 0 0 = some { ti with park := some (.divide 5 7 DZ) }),
      decide (DZ &&& ti.enables = 0), decide (DZ &&& { ti with fpst := 0x3F00 }.enables ≠ 0)]) = true := by decide +kernel

def controlForms : List Instr :=
  [.beq 1 1 0x7FFF, .bne 1 4 3, .blt 1 4 3, .bge 4 1 3, .bltu 1 4 3, .bgeu 4 1 3, .j 0x1FEBF, .jal 8, .jr 3, .jalr 31 3]

theorem test_met_TransfersOfControl :
    (met [controlForms.all (fun i => (Claims.transferOf ti i).any fun x => issuableB i (on ti) ti && readableB ti x.srcs [] && x.taken &&
        decide (x.target.toNat < 0x8_0000) && decide (x.target.toNat % 4 = 0)),
      (Claims.transferOf ti (.beq 1 4 3)).any fun x => !x.taken && !ti.atLastWord,
      (Claims.transferOf ti (.jr 2)).any fun x => x.register && decide (x.target.toNat % 4 ≠ 0),
      (Claims.transferOf ti (.j 0x1FFC0)).any fun x => decide (x.target.toNat = 0x8_0000)]) = true := by decide +kernel

theorem test_met_HintsWaitForTheirInstruction :
    (met [decide ((on ti).thread? = some ti), decide (ti.hints.length < 2), !ti.atLastWord, { ti with pc := 0x7FFFC }.atLastWord,
      decide (2 ≤ { ti with hints := [⟨0, 1⟩, ⟨1, 0⟩] }.hints.length)]) = true := by decide +kernel

theorem test_met_IllegalEncodingsTrap :
    (met [decide ((on ti).thread? = some ti), !((Instr.sext 1 2 3).wf && hintsOk (.sext 1 2 3) []),
      !((Instr.add 1 2 3).wf && hintsOk (.add 1 2 3) [⟨0, 5⟩])]) = true := by decide +kernel

/-! ### Memory -/

/-- `Claims.InOwnMemory`, evaluated. -/
def inOwnB (s : State) (x : Claims.Access) (off : Nat) : Bool :=
  decide (targetOf s.cur.1 s.pod x.va = some (.localMem s.cur.1 off true)) && decide (x.va.toNat % x.size = 0) &&
    (match x.scope with | some c => decide (c.toNat ≤ 1) | none => true) && decide (s.cur.1 < 8192) && s.inPod (s.cur.1 / 1024)

/-- `Claims.InPage`, evaluated. -/
def inPageB (s : State) (t : Thread) (x : Claims.Access) (write : Bool) (tr : Trans) : Bool :=
  decide (targetOf s.cur.1 s.pod x.va = some .paged) && decide (x.va.toNat % x.size = 0) &&
    decide (cachedTrans s s.cur.1 t.asid x.va write = some tr) && (Need.mk (!write) write t.sv).granted tr.leaf &&
    decide (Pte.frame tr.leaf + (x.va.toNat % 2 ^ 52 - tr.base) < 2 ^ 50)

/-- The translation of the page at 0x2000_0000_0000 to the HBM frame 64, readable and writable where it says. -/
def page0 (wr : Bool) : Trans :=
  ⟨0, 0x2000_0000_0000, 0x2_0000, (1#64 <<< 63) ||| (1#64 <<< 62) ||| (1#64 <<< 60) ||| (1#64 <<< 58) |||
    (if wr then 1#64 <<< 59 else 0) ||| 3#64 ||| (0x40#64 <<< 17), 0⟩

/-- That page, not readable. -/
def unreadable : Trans := { page0 true with leaf := (page0 true).leaf &&& ~~~(1#64 <<< 58) }

/-- The machine of `on`, with that translation in core 0's TLB. -/
def onPage (t : Thread) (wr : Bool := true) : State := (on t).modCore 0 fun c => { c with tlb := [page0 wr] }

/-- An open level: it goes on at 0x40, has rolled back once of three times, its snapshot at the start of the area. -/
def level0 : Level := ⟨0x40, 3, 2, 512, ⟨List.replicate 32 5, BitVec.allOnes 32, List.replicate 16 6, BitVec.allOnes 16, 1, 2, 3, 2, ⟨false, 0, 0, 0⟩⟩, []⟩

/-- The last bytes of local memory, of the page, of what no memory is. -/
def tm : Thread := tw [(6, 0x7FFF8), (7, 0x2000_0001_FFF8), (8, 0x8_0000), (9, 0x8000_0000_0000_0000), (10, 0xFF_FFFF_FFF8), (11, 0x2000_0002_0000),
  (12, 0x2000_0000_0001)]

def loadForms (b : BitVec 5) : List Instr :=
  [.ldb 5 b 7, .ldh 5 b 3, .ldw 5 b 1, .ldd 5 b 0, .ldbz 5 b 0, .ldhz 0 b 0, .ldwz 5 b 0, .lda 5 b 1 0]

def storeForms (b : BitVec 5) : List Instr := [.stb b b 7, .sth b b 3, .stw b b 1, .std 0 b 0, .stl b b 1 0]

theorem test_met_AddressesNameTheirRegions :
    (met [!isCanonical 0x8000_0000_0000_0000, decide ((0x7FFFF : Word).toNat < 0x8_0000),
      decide (0x8_0000 ≤ (0xFF_FFFF_FFFF : Word).toNat ∧ (0xFF_FFFF_FFFF : Word).toNat < 0x100_0000_0000),
      isCanonical 0x2000_0000_0000, isCanonical 0xFFFF_FFFF_FFFF_FFFF,
      [Instr.ldd 5 8 0, .ldb 5 9 0, .ldb 5 10 7].all (fun i => (Claims.loadOf tm i).any fun x =>
        issuableB i (on tm) tm && readableB tm x.1.srcs [] && decide (targetOf 0 [0] x.1.va = none)),
      (Claims.storeOf tm (.stw 5 12 0)).any (fun x => issuableB (.stw 5 12 0) (on tm) tm && readableB tm x.1.srcs [] &&
        decide (targetOf 0 [0] x.1.va ≠ none) && decide (x.1.va.toNat % x.1.size ≠ 0))]) = true := by decide +kernel

theorem test_met_LocalLoadsComplete :
    ((loadForms 6).all fun i => (Claims.loadOf tm i).any fun x => issuesB i (on tm) tm && readableB tm x.1.srcs [] &&
      inOwnB (on tm) x.1 x.1.va.toNat && !((on tm).drainTo tm.uid [(Place.lm 0 x.1.va.toNat, x.1.size)]).poisonIn (Place.lm 0 x.1.va.toNat) x.1.size &&
      decide (tm.keeps x.2.1) && decide ((on tm).pendingOf tm.uid = [] ∧ (on tm).seen = [] ∧ tm.undo = [])) = true := by decide +kernel

theorem test_met_LocalStoresComplete :
    ((storeForms 6).all fun i => (Claims.storeOf tm i).any fun x => issuesB i (on tm) tm && readableB tm x.1.srcs [] &&
      inOwnB (on tm) x.1 x.1.va.toNat && !tm.inRegion && decide (tm.levels = []) &&
      issuesB i (on { tm with levels := [level0], hnd := true }) { tm with levels := [level0], hnd := true } &&
      !{ tm with levels := [level0], hnd := true }.inRegion && decide ((on tm).coreOf tm.uid = 0 ∧ ((on tm).drainOf tm.uid).coreOf tm.uid = 0) &&
      decide ((on tm).blocked tm.uid = false) && heldB i (on tm) tm &&
      decide (((held (on tm)).drainOf tm.uid).coreOf tm.uid = 0)) = true := by decide +kernel

theorem test_met_StoreChangesItsBytesOnly :
    decide (waitedWords (on tm) 0x7FFF8 8 = []) = true := by decide +kernel

theorem test_met_PagedAccessesLeaveTheCore :
    (met [(loadForms 7).all (fun i => (Claims.loadOf tm i).any fun x => issuesB i (onPage tm) tm && readableB tm x.1.srcs [] &&
        inPageB (onPage tm) tm x.1 false (page0 true)),
      (storeForms 7).all (fun i => (Claims.storeOf tm i).any fun x => issuesB i (onPage tm) tm && readableB tm x.1.srcs [] &&
        inPageB (onPage tm) tm x.1 true (page0 true) && !tm.inRegion),
      (Claims.loadOf tm (.ldd 5 11 0)).any (fun x => decide (targetOf 0 [0] x.1.va = some .paged) &&
        decide (x.1.va.toNat % 8 = 0) && decide (cachedTrans (onPage tm) 0 tm.asid x.1.va false = none)),
      (Claims.storeOf tm (.std 5 11 0)).any (fun x => decide (targetOf 0 [0] x.1.va = some .paged) &&
        decide (x.1.va.toNat % 8 = 0) && decide (cachedTrans (onPage tm) 0 tm.asid x.1.va true = none)),
      (Claims.loadOf tm (.ldd 5 7 0)).any (fun x => let s := (on tm).modCore 0 fun c => { c with tlb := [unreadable] }
        decide (targetOf 0 [0] x.1.va = some .paged) && decide (cachedTrans s 0 tm.asid x.1.va false = some unreadable) &&
        !(Need.mk true false tm.sv).granted unreadable.leaf),
      (Claims.storeOf tm (.std 5 7 0)).any (fun x => decide (targetOf 0 [0] x.1.va = some .paged) &&
        decide (cachedTrans (onPage tm false) 0 tm.asid x.1.va true = some (page0 false)) &&
        !(Need.mk false true tm.sv).granted (page0 false).leaf)]) = true := by decide +kernel

/-- The thread parked on a request. -/
def parkedOn (r : Req) : Thread := { tm with park := some (.access r) }

/-- `Claims.Parked`, evaluated, for slot 0 of core 0. -/
def parkedB (s : State) (t : Thread) (r : Req) : Bool :=
  decide (s.threadIn 0 0 = some t) && decide (t.park = some (.access r)) && deliveredTo s 0 t r && !(s.arrive t r).behind t r && !(r.releases && s.blocked t.uid) &&
    r.parts.all (fun p => reachable (Claims.atHome s t r) p.loc) && decide (badPart (Claims.atHome s t r) t r = none) &&
    decide (t.levels = []) && !t.closing

def frame64 : Nat := Place.hbm 0 0x80_0000

def loadPart : Part := ⟨0x2000_0000_0000, frame64, 8, [], 0⟩

/-- A load on its way to a place; the thread that waits for it. -/
def loadAt (p : Nat) : Req := ⟨.load 5 true, [{ loadPart with loc := p }], none⟩

def loading0 (p : Nat) : Thread := parkedOn (loadAt p)

theorem test_met_AccessCompletionPerformsTheAccess :
    (met [parkedB (on (loading0 frame64)) (loading0 frame64) (loadAt frame64), !(on tm).poisonIn frame64 8, decide (tm.keeps 5),
      -- its packet has not come to die 1; a request that came before it waits; a transfer was delivered poisoned
      !deliveredTo (on (loading0 (Place.hbm 0 0x30_0000_0000))) 0 (loading0 (Place.hbm 0 0x30_0000_0000)) (loadAt (Place.hbm 0 0x30_0000_0000)),
      reachable (on tm) (Place.hbm 0 0x30_0000_0000), (held (on (parkedOn ⟨.store, [⟨0, frame64, 1, [9], 0⟩], some 3⟩))).blocked 1,
      decide ((held (on (parkedOn ⟨.store, [⟨0, frame64, 1, [9], 0⟩], some 3⟩))).threadIn 0 0 = some (parkedOn ⟨.store, [⟨0, frame64, 1, [9], 0⟩], some 3⟩)),
      Req.releases ⟨.store, [⟨0, frame64, 1, [9], 0⟩], some 3⟩,
      (({ on (loading0 frame64) with arrived := [(2, 0)], slots := [(0, .busy (loading0 frame64)), (1, .busy { loading0 frame64 with uid := 2 })] } : State).arrive
        (loading0 frame64) (loadAt frame64)).behind (loading0 frame64) (loadAt frame64),
      decide (badPart { on (loading0 frame64) with badTransfers := [(1, 0, frame64 / 64)] } (loading0 frame64) (loadAt frame64) = some 0x2000_0000_0000),
      !Place.ownOf ((on (loading0 frame64)).coreOf 1) frame64,
      deliveredTo (on (loading0 frame64)) 0 (loading0 frame64) (loadAt frame64),
      [Park.ending none, .ending (some (5, 7))].all (fun p => decide ((on { tm with park := some p }).threadIn 0 0 = some { tm with park := some p })),
      parkedB (on (parkedOn ⟨.store, [⟨0, frame64, 1, [9], 0⟩], none⟩)) (parkedOn ⟨.store, [⟨0, frame64, 1, [9], 0⟩], none⟩)
        ⟨.store, [⟨0, frame64, 1, [9], 0⟩], none⟩,
      decide (Place.tier frame64 ≠ .localMem),
      { on tm with poisoned := [frame64 / 64] }.poisonIn frame64 8]) = true := by decide +kernel

/-! ### Full bits, atomics, fences, bank slots -/

def tf : Thread := tw [(1, 0x7FFF8), (2, 0x7FFC0), (3, 5), (4, 0x2000_0001_FFC0), (6, 0x200_0000_3FF8)]

theorem test_met_FullBitsSynchronise :
    (met [[Instr.ldc 5 1 0 0, .ldo 5 1 1 0, .stp 3 1 0 0, .stf 3 1 1 0, .empty 1 0].all (fun i => (Claims.fullBitOf tf i).any fun x =>
        issuesB i (on tf) tf && readableB tf x.1.srcs [] && inOwnB (on tf) x.1 0x7FFF8), !tf.inRegion, decide (tf.keeps 5),
      [Instr.ldc 5 1 0 0, .ldo 5 1 1 0, .stp 3 1 0 0, .stf 3 1 1 0, .empty 1 0].all (fun i => heldB i (on tf) tf), !(on tf).blocked 1,
      decide (tf.levels = []), ((on tf).drainOf 1).full 0x7FFF8, !((on tf).drainOf 1).poisonIn 0x7FFF8 8,
      !(((on tf).setFull 0x7FFF8 false).drainOf 1).full 0x7FFF8]) = true := by decide +kernel

/-- `Claims.Reaches` of the thread `tf`, evaluated, in local memory (`va` below 0x8_0000) or in the page of `onPage`. -/
def reachesB (s : State) (va : Word) (size p : Nat) : Bool :=
  decide (va.toNat % size = 0) &&
    ((decide (targetOf 0 s.pod va = some (.localMem 0 va.toNat true)) && decide (p = Place.lm 0 va.toNat) && s.inPod 0) ||
      (decide (targetOf 0 s.pod va = some .paged) && decide (cachedTrans s 0 0 va true = some (page0 true)) &&
        (Need.mk true true tf.sv).granted (page0 true).leaf && decide (p = (page0 true).place va) &&
        decide (Pte.frame (page0 true).leaf + (va.toNat % 2 ^ 52 - (page0 true).base) < 2 ^ 50)))

def atomicForms (b : BitVec 5) (z : BitVec 2) : List Instr :=
  [.aadd 5 b 3 0 z, .aand 5 b 3 0 z, .aor 5 b 3 0 z, .axor 5 b 3 0 z, .amin 5 b 3 0 z, .amax 5 b 3 0 z, .aminz 5 b 3 0 z, .amaxz 5 b 3 0 z,
   .aswap 0 b 3 0 z]

theorem test_met_AtomicsReadAndWriteInOneStep :
    (met [(atomicForms 1 3 ++ atomicForms 4 2).all (fun i => (Claims.atomicOf tf i).any fun x =>
        issuesB i (onPage tf) tf && readableB tf x.srcs [] && reachesB (onPage tf) x.va (if x.size = 2 then 4 else 8)
          (if x.va.toNat < 0x8_0000 then x.va.toNat else (page0 true).place x.va)),
      issuesB (.acas 5 1 3 0 3) (onPage { tf with hints := [⟨2, 7⟩] }) { tf with hints := [⟨2, 7⟩] },
      (Claims.atomicOf { tf with hints := [⟨2, 7⟩] } (.acas 5 1 3 0 3)).any (fun x => readableB { tf with hints := [⟨2, 7⟩] } x.srcs []),
      !tf.inRegion, parkedB (on (parkedOn ⟨.atomic 0 5 5 0, [⟨0x7FFF8, 0x7FFF8, 8, [], 0⟩], some 0⟩)) (parkedOn ⟨.atomic 0 5 5 0, [⟨0x7FFF8, 0x7FFF8, 8, [], 0⟩], some 0⟩)
        ⟨.atomic 0 5 5 0, [⟨0x7FFF8, 0x7FFF8, 8, [], 0⟩], some 0⟩,
      !((on tf).drainOf 1).poisonIn 0x7FFF8 8]) = true := by decide +kernel

theorem test_met_AfaddvAddsALineInOneStep :
    (met [issuesB (.afaddv 4 15 0 3) (onPage tf) tf, readableB tf [4] [15], reachesB (onPage tf) (tf.gVal 4) 64 ((page0 true).place (tf.gVal 4)),
      decide (Place.tier ((page0 true).place (tf.gVal 4)) ≠ .cxl), issuesB (.afaddv 2 0 1 2) (on tf) tf,
      reachesB (on tf) (tf.gVal 2) 64 0x7FFC0, !tf.inRegion,
      parkedB (on (parkedOn ⟨.afaddv true 0 0 0, [⟨0x7FFC0, 0x7FFC0, 64, [], 0⟩], some 0⟩)) (parkedOn ⟨.afaddv true 0 0 0, [⟨0x7FFC0, 0x7FFC0, 64, [], 0⟩], some 0⟩)
        ⟨.afaddv true 0 0 0, [⟨0x7FFC0, 0x7FFC0, 64, [], 0⟩], some 0⟩,
      !((on tf).drainOf 1).poisonIn 0x7FFC0 64,
      -- the line's lanes are zero, the register's largest finite values: no flag; 2^-1074 with 1: inexact, and enabled
      decide (flagsOf [roundTo 1 .rne ((decodeFloat (floatFmt 1) 0).add (decodeFloat (floatFmt 1) 0x7FEF_FFFF_FFFF_FFFF))] = 0),
      decide (flagsOf [roundTo 1 .rne ((decodeFloat (floatFmt 1) 1).add (decodeFloat (floatFmt 1) 0x3FF0_0000_0000_0000))] &&&
        { tf with fpst := 0x3F00 }.enables ≠ 0)]) = true := by decide +kernel

theorem test_met_FencesAndWaitsComplete :
    (met [issuesB (.fence 1) (on tf) tf, issuesB (.fence 2) (on tf) tf, heldB (.fence 1) (on tf) tf, heldB (.waita 5 1 3 1) (on tf) tf,
      !(on tf).blocked 1, !((held (on tf)).drainOf 1).poisonIn 0x7FFF8 8, issuesB .synci (on tf) tf,
      parkedB (on (parkedOn ⟨.fence, [], some 8⟩)) (parkedOn ⟨.fence, [], some 8⟩) ⟨.fence, [], some 8⟩,
      issuesB (.waita 5 1 3 1) (on tf) tf, readableB tf [1, 3] [], inOwnB (on tf) ⟨[1, 3], tf.gVal 1, 8, some 1⟩ 0x7FFF8, !tf.inRegion,
      !((on tf).drainOf 1).poisonIn 0x7FFF8 8, decide (((on tf).drainOf 1).word 0x7FFF8 ≠ tf.gVal 3), decide (tf.keeps 5),
      decide (((on tf).drainOf 1).word 0x7FFF8 = tf.gVal 0), issuesB (.waita 5 1 0 1) (on tf) tf]) = true := by decide +kernel

/-- The same thread, privileged. -/
def tfp : Thread := { tf with sv := true }

def bankReq : Req := ⟨.bankSet 2 0, [⟨0x200_0000_3FF8, Place.tile 0 0x3FF8, 8, [], 0⟩], none⟩

theorem test_met_BankSlotsAccumulate :
    (met [decide ([2, 3, 4, 5, 6, 13].map (fun f => contribution f 0x7F) ≠ []), decide ((BankSlot.reset.add .nan).value = none),
      decide ((BankSlot.reset.add (contribution 13 5)).value = some (.fin false (5 * 2 ^ 149) (-149))),
      decide (Claims.slotValue [contribution 13 5, contribution 13 0xFFFF_FFFF_FFFF_FFFB] = some (.zero .byMode)),
      decide (targetOf 0 (on tfp).pod (tfp.gVal 6) = some (.tileStore 0 0x3FF8 false)), decide ((tfp.gVal 6).toNat % 8 = 0),
      decide (0x3FF8 < 0x4000), ((on tfp).die 0).tpOpen || tfp.sv, issuesB (.brset 6 3 2) (on tfp) tfp, issuesB (.bradd 6 3 13) (on tfp) tfp,
      issuesB (.brget 5 6 6) (on tfp) tfp, readableB tfp [6, 3] [], !tfp.inRegion, decide (tfp.keeps 5),
      parkedB (on (parkedOn bankReq)) (parkedOn bankReq) bankReq,
      decide (((bankAt (on tfp) (Place.tile 0 0x3FF8)).read 2 .rne).2 &&& tfp.enables = 0)]) = true := by decide +kernel

/-! ### Floating point and vectors -/

/-- f64 operands: 1, the largest finite value, 0, infinity, -1, the least subnormal; and every flag enabled where said. -/
def tq : Thread := tw [(1, 0x3FF0_0000_0000_0000), (2, 0x7FEF_FFFF_FFFF_FFFF), (3, 0), (4, 0x7FF0_0000_0000_0000), (6, 0xBFF0_0000_0000_0000), (7, 1)]

def tqe : Thread := { tq with fpst := 0x3F00 }

def floatForms : List Instr :=
  [.fadd 5 1 1 7 1, .fsub 5 1 2 0 1, .fmul 5 2 2 5 1, .fma 5 1 2 7 3 1, .fms 5 1 2 1 7 0, .fnma 0 1 1 1 7 1, .fmin 5 3 4 1, .fmax 5 3 4 1,
   .feq 5 1 1 0, .flt 5 1 2 1, .fle 5 1 2 1, .fclass 5 7 1, .fsgn 5 1 6 1, .fcvt 5 2 7 1, .fcvti 5 4 7 1, .icvtf 5 2 7 0]

theorem test_met_FloatsRoundOnce :
    (met [floatForms.all (fun i => (Claims.floatResult tq i).any fun x => issuesB i (on tq) tq && readableB tq x.2.1 [] && decide (tq.keeps x.1) &&
        decide (x.2.2.2 &&& tq.enables = 0)),
      [Instr.fadd 5 1 7 7 1, .fmul 5 2 2 7 1, .fcvti 5 4 7 1].all fun i => (Claims.floatResult tqe i).any fun x => issuesB i (on tqe) tqe &&
        decide (x.2.2.2 &&& tqe.enables ≠ 0)]) = true := by decide +kernel

theorem test_met_FloatDivisionsPark :
    (met [issuesB (.fdiv 5 1 3 7 1) (on tq) tq, readableB tq [1, 3] [], issuesB (.fsqrt 5 1 0 1) (on tq) tq,
      match Claims.floatOf tq 1 1, Claims.floatOf tq 1 3 with | .fin .., .zero _ => true | _, _ => false,
      match Claims.floatOf tq 1 3, Claims.floatOf tq 1 4 with | .zero _, .inf _ => true | _, _ => false,
      match Claims.floatOf tq 1 2, Claims.floatOf tq 1 7 with | .fin .., .fin .. => true | _, _ => false,
      match Claims.floatOf tq 1 6 with | .fin true _ _ => true | _ => false,
      match Claims.floatOf tq 1 7 with | .fin false _ _ => true | _ => false]) = true := by decide +kernel

theorem test_met_RepresentableValuesRoundToThemselves :
    ([1, 2, 3, 4, 5, 6].all fun c => decide (2 ^ (floatFmt c).width - 1 < 2 ^ (floatFmt c).width) &&
      decide (decodeFloat (floatFmt c) 1 ≠ .nan) && decide (decodeFloat (floatFmt c) (floatFmt c).infBits ≠ .nan)) = true := by decide +kernel

/-- A thread with vectors of all ones and of f64 and f32 numbers, and a mask of the low lanes. -/
def tv : Thread := { tw [(1, 7), (2, 64)] with
  m1 := 0x5, v := [0, BitVec.allOnes 512, 0x7FEF_FFFF_FFFF_FFFF_3FF0_0000_3F80_0000#512] ++ List.replicate 13 1 }

def tve : Thread := { tv with fpst := 0x3F00 }

def laneForms (m w : BitVec 2) : List Instr :=
  [.vadd 5 1 2 m w, .vsub 5 1 2 m w, .vmul 5 1 2 m w, .vmulh 5 1 2 m w, .vmin 5 1 2 m w, .vmax 5 1 2 m w, .vand 5 1 2 m w, .vor 5 1 2 m w,
   .vxor 5 1 2 m w, .vshl 5 1 2 m w, .vshr 5 1 2 m w, .vsra 5 1 2 m w, .vabs 5 1 m w, .vperm 5 1 2 w m, .vbcst 15 1 w m]

def floatLaneForms (m f : BitVec 2) : List Instr :=
  [.vfadd 5 2 3 m f, .vfsub 5 2 3 m f, .vfmul 5 2 3 m f, .vfma 5 2 3 4 m f, .vfmin 5 2 3 m f, .vfmax 5 2 3 m f, .vfexp2 5 2 m f,
   .vfrcp 5 2 m f, .vfrsq 15 2 m f]

theorem test_met_LaneOperationsComplete :
    (met [(laneForms 0 0 ++ laneForms 1 3 ++ floatLaneForms 0 0 ++ floatLaneForms 1 1).all (fun i => (Claims.laneOp tv i).any fun x =>
        issuesB i (on tv) tv && readableB tv x.gs x.vs && (decide (x.mask = 0) || tv.vIsFull x.d && !tv.vBad x.d) &&
        decide (Claims.activeFlags x (tv.mVal x.mask) &&& tv.enables = 0)),
      (Claims.laneOp tve (.vfadd 5 2 3 0 0)).any fun x => decide (Claims.activeFlags x (tve.mVal x.mask) &&& tve.enables ≠ 0)]) = true := by
  decide +kernel

theorem test_met_VectorDivisionsAndConversions :
    (met [issuesB (.vfdiv 15 1 2 1 1) (on tv) tv, readableB tv [] [1, 2], tv.vIsFull 15, !tv.vBad 15,
      [Instr.vcvt 15 2 1 2 0 1 7, .vcvt 15 2 2 7 0 0 1, .vcvt 15 2 14 3 0 0 7, .vcvt 15 2 12 8 1 0 0].all (fun i => issuesB i (on tv) tv),
      issuesB (.vcvt 15 2 1 5 0 0 7) (on tve) tve,
      decide ((convert 1 5 false (tve.mode 7) (lane (tve.vVal 2) 64 0) []).2 &&& tve.enables ≠ 0)]) = true := by decide +kernel

theorem test_met_MasksComplete :
    (met [issuesB (.vcmp 3 1 2 1 0 5) (on tv) tv, issuesB (.vcmp 0 1 2 0 3 0) (on tv) tv, readableB tv [] [1, 2],
      issuesB (.vfcmp 3 1 2 1 0 3) (on tv) tv, issuesB (.vfcmp 1 2 2 0 1 0) (on tv) tv, issuesB (.vfcmp 1 1 2 0 0 1) (on tve) tve,
      decide ((fpCompare (laneFmt 0) (vfcond 1) (lane (tve.vVal 1) 32 0) (lane (tve.vVal 2) 32 0)).2 &&& tve.enables ≠ 0),
      issuesB (.mand 3 0 1) (on tv) tv, issuesB (.mor 0 1 2) (on tv) tv, issuesB (.mnot 1 3) (on tv) tv, issuesB (.mpopc 31 0) (on tv) tv,
      decide (tv.keeps 31)]) = true := by decide +kernel

theorem test_met_VectorTransfersComplete :
    (met [issuesB (.vsel 15 1 2 3 1) (on tv) tv, readableB tv [] [1, 2], issuesB (.vins 15 1 2 0) (on tv) tv, readableB tv [1, 2] [15],
      issuesB (.vext 5 15 2 3) (on tv) tv, readableB tv [2] [15], decide (tv.keeps 5),
      [0, 1, 2, 3, 4, 5, 6, 7].all (fun o => issuesB (.vredi 5 1 o 0 1) (on tv) tv), issuesB (.vredf 5 2 7 0 0) (on tv) tv,
      issuesB (.vredf 5 2 0 1 1) (on tve) tve,
      decide (flagsOf [roundTo 2 .rne (Exact.sum [decodeFloat (floatFmt 2) 1, decodeFloat (floatFmt 2) 0x3F800000])] &&& tve.enables ≠ 0)]) = true := by
  decide +kernel

/-! ### Vector memory -/

/-- A thread at the edges of local memory, the index vector all ones (-1 in each lane). -/
def tx : Thread := { tw [(1, 0x7FFC0), (2, 8), (3, 0x7FF00), (4, 0x6_0000)] with m1 := 3, m2 := 0xFF, v := [0, BitVec.allOnes 512] ++ List.replicate 14 7 }

theorem test_met_StridedAndIndexedAccessesComplete :
    ([Instr.vlds 15 1 2 3 0, .vlds 2 1 0 0 1, .vgath 15 1 1 3 1, .vsts 15 1 2 3 0, .vscat 2 1 1 2 1].all fun i => (Claims.laneAccess tx i).any fun x =>
      issuesB i (on tx) tx && readableB tx x.gs x.vs && decide (tx.hmodScope = none) && (on tx).inPod 0 &&
      ((Claims.activeOnes x.n (tx.mVal x.mask)).all fun j =>
        decide (targetOf 0 (on tx).pod (x.addr j) = some (.localMem 0 (x.addr j).toNat true)) && decide ((x.addr j).toNat % x.n = 0) &&
        rawAttr (lmAttr (on tx) 0 (x.addr j).toNat) && !(on tx).poisonIn (Place.lm 0 (x.addr j).toNat) x.n) && !tx.inRegion &&
      decide ((on tx).coreOf tx.uid = 0)) = true := by
  decide +kernel

/-- The local memory of core 0 in the format, with scales or without, that the attribute names. -/
def onFmt (t : Thread) (attr : BitVec 9) : State := (on t).modCore 0 fun c => { c with lmfmt := [attr, attr, attr, attr] }

/-- Lanes of format 5, the largest finite value in each, under a scale that takes them out of f32's range. -/
def tooLarge : State := (((onFmt { tx with fpst := 0x3F00 } 0x15).write 0x6_0000 (List.replicate 16 0x7B))).write (0x6_0000 + scaleOffset 0x15 0) [0xFE]

theorem test_met_VectorLoadsAndStoresComplete_trap :
    (met [issuesB (.vld 15 4 0 0) tooLarge { tx with fpst := 0x3F00 }, decide (tx.atIssue = none), !tooLarge.poisonIn 0x6_0000 16,
      decide (((decodeLanes 0x15 (List.replicate 16 0x7B) (some 0xFE) [] (Mode.ofCode tx.rnd)).foldl (fun acc x => acc ||| x.2) 0) &&&
        { tx with fpst := 0x3F00 }.enables ≠ 0)]) = true := by decide +kernel

theorem test_met_VectorLoadsAndStoresComplete :
    (met [rawAttr (lmAttr (on tx) 0 0x7FFC0), issuesB (.vld 15 1 1 0) (on tx) tx, readableB tx [1] (vdSource 1 15),
      inOwnB (on tx) ⟨[1], Claims.scaled tx 1 0 64, 64, tx.hmodScope⟩ 0x7FFC0, !(on tx).poisonIn 0x7FFC0 64,
      !rawAttr (lmAttr (onFmt tx 0xE) 0 0x7FFC0), !inScaleArea (lmAttr (onFmt tx 0xE) 0 0x7FFC0) (0x7FFC0 % 0x2_0000),
      inOwnB (onFmt tx 0xE) ⟨[1], Claims.scaled tx 1 0 64, 16, tx.hmodScope⟩ 0x7FFC0, !(onFmt tx 0xE).poisonIn 0x7FFC0 16,
      issuesB (.vld 15 1 0 0) (onFmt tx 0x15) tx, inOwnB (onFmt tx 0x15) ⟨[1], Claims.scaled tx 1 0 64, 16, tx.hmodScope⟩ 0x7FFC0,
      inScaleArea (lmAttr (onFmt tx 0x15) 0 0x7FFC0) (0x7FFC0 % 0x2_0000),
      issuesB (.vld 15 4 1 0) (onFmt tx 0x15) tx, inOwnB (onFmt tx 0x15) ⟨[4], Claims.scaled tx 4 0 64, 16, tx.hmodScope⟩ 0x6_0000,
      !inScaleArea (lmAttr (onFmt tx 0x15) 0 0x6_0000) 0, !(onFmt tx 0x15).poisonIn (0x6_0000 + scaleOffset 0x15 0) 1,
      issuesB (.vst 15 1 0 0) (on tx) tx, readableB tx [1] [15], !tx.inRegion, (List.range 8).any (fun j => !(tx.mVal 1).getLsbD j)]) = true := by
  decide +kernel

/-! ### The matrix unit -/

/-- An accumulator of zeros. -/
def acc0 : Acc := ⟨List.replicate 1024 0, 0, false, false⟩

/-- A thread with two accumulators and operand addresses; the machine with integer blocks (format 7) everywhere. -/
def ta : Thread := { tw [(1, 0x4000), (2, 0x100), (3, 128), (4, 0x8000), (6, 64), (7, 0x6_0000)] with acc := [acc0, { acc0 with kindInt := true }] }

def onInts (t : Thread) : State := (on t).modCore 0 fun c => { c with bsfmt := 7, lmfmt := [7, 7, 7, 7] }

/-- A product that waits in the unit. -/
def prod0 : Product := ⟨1, 1, false, 7, 7, [], [], [], [], [], [], none⟩

def onQueue (n : Nat) : State := (onInts ta).modCore 0 fun c => { c with products := List.replicate n prod0 }

/-- A sealed tile of two consumptions, of class 2 and format 7, that the thread's job holds. -/
def tth : Thread := { ta with job := 7, sv := true, g := ta.g.set 6 0x0020_0200_0000_4000 }

def onTile : State := ((onInts tth).modCore 0 fun c => { c with tsfmt := 7 }).modDie 0 fun d => { d with
  tiles := [⟨0x4000, 2, 2, 2, 3, false, true, 2, 7, false, 0⟩], tpOpen := true }

theorem test_met_MatrixProductsEnterTheQueue :
    (met [issuesB (.mma 0 1 2 0) (onInts ta) ta, issuesB (.mdist 0 1 2) (onInts ta) ta, readableB ta [1, 2] [], decide (ta.accAt 0 = some acc0),
      match plainA (onInts ta) ta (ta.gVal 1) true with
      | .ok x => (productPair x.attr ((onInts ta).core 0).bsfmt).isSome && x.clear x.attr && !poisonA ((onInts ta).drainOf 1) x.attr x.loc x.unit
      | .error _ => false,
      issuesB (.mma 0 6 2 1) onTile tth, decide (tth.accAt 0 = some acc0),
      match handleA onTile tth (tth.gVal 6), consumeTile onTile 0 tth (tth.gVal 6) 1 .read with
      | .ok x, .ok (s1, _, _) => (productPair x.attr (onTile.core 0).bsfmt).isSome && x.clear x.attr && decide (s1.cur = (0, 0)) &&
        !poisonA (s1.drainOf 1) x.attr x.loc x.unit
      | _, _ => false,
      bOffsetOk ((onInts ta).core 0).bsfmt (ta.gVal 2), decide (((onQueue 7).core 0).products.length < 8),
      !poisonB ((onInts ta).drainOf 1) 0 ((onInts ta).core 0).bsfmt (ta.gVal 2).toNat,
      issuesB (.mma 0 1 2 0) (onQueue 8) ta, decide (8 ≤ ((onQueue 8).core 0).products.length),
      heldB (.mma 0 1 2 0) (onInts ta) ta, heldB (.mdist 0 1 2) (onInts ta) ta, heldB (.mma 0 6 2 1) onTile tth,
      [onInts ta, held (onInts ta)].all (fun s => !s.blocked 1 || match plainA s ta (ta.gVal 1) true with
        | .ok x => (productPair x.attr (s.core 0).bsfmt).isSome && x.clear x.attr
        | .error _ => false),
      match handleA (held onTile) tth (tth.gVal 6), consumeTile (held onTile) 0 tth (tth.gVal 6) 1 .read with
      | .ok x, .ok _ => (productPair x.attr (onTile.core 0).bsfmt).isSome && x.clear x.attr
      | _, _ => false]) = true := by decide +kernel

/-- The tile's consumer before the tile is sealed; a product that waits for an entry of the queue, of an MMA or an MMRT. -/
def onUnsealed : State := onTile.modDie 0 fun d => { d with tiles := d.tiles.map fun x => { x with sealed := false } }

def enqueued (h : Option Handoff) : Thread := { ta with park := some (.enqueue prod0 h 3) }

theorem test_met_MatrixProductsEnterTheQueue_waits :
    (met [match plainA { onInts ta with poisoned := [0x4000 / 64] } ta (ta.gVal 1) true with
      | .ok x => x.clear x.attr && poisonA (({ onInts ta with poisoned := [0x4000 / 64] } : State).drainOf 1) x.attr x.loc x.unit
      | .error _ => false,
      match plainA (onQueue 8) ta (ta.gVal 1) true with
      | .ok x => (productPair x.attr ((onQueue 8).core 0).bsfmt).isSome && x.clear x.attr && !poisonA ((onQueue 8).drainOf 1) x.attr x.loc x.unit
      | .error _ => false,
      !poisonB ((onQueue 8).drainOf 1) 0 ((onQueue 8).core 0).bsfmt (ta.gVal 2).toNat, decide (ta.atIssue = none),
      issuesB (.mma 0 6 2 1) onUnsealed tth,
      match handleA onUnsealed tth (tth.gVal 6), consumeTile onUnsealed 0 tth (tth.gVal 6) 1 .read with
      | .ok x, .error (.park (.retry (.seal 0 0x4000))) => (productPair x.attr (onUnsealed.core 0).bsfmt).isSome && x.clear x.attr
      | _, _ => false,
      [none, some ⟨false, 0x4000, 0x100, 7⟩].all fun h => decide ((on (enqueued h)).waiters (enqueueOrder (on (enqueued h)) 0) = [(3, 0, enqueued h)])])
      = true := by decide +kernel

theorem test_met_CompletedProductsWriteTheirAccumulators :
    (met [decide (((onQueue 1).core 0).products = [prod0]), decide ((onQueue 1).slotOf 1 = some (0, ta) ∧ NatMap.get (onQueue 1).slots 0 .empty = .busy ta),
      decide (ta.accAt 1 = some { acc0 with kindInt := true }), decide (((onQueue 1).core 0).injection = none),
      (onQueue 1).residents.all (fun e => decide (e.2.park = none))]) = true := by decide +kernel

theorem test_met_ProductsFormExactSums :
    (met [decide (attrFmt 7 = 7 ∧ attrGeom 7 = 0), decide (attrFmt 8 = 8 ∧ attrGeom 8 = 0),
      decide ((List.replicate 12288 (0x80 : Byte)).length = 12288)]) = true := by decide +kernel

/-- The worked case of spec/09 (R212): a row of 2^12, 31 ones and zeros against the same column, in bf16, ends as 0x4B80_0010 with NX. -/
theorem test_mma_chunks_round_once :
    (let row := ([0x4580] ++ List.replicate 31 0x3F80 ++ List.replicate 160 0).map (decodeFloat (floatFmt 3))
     decide (accumulate false 16 [] 12 (decodeFloat (floatFmt 2) 0, 0, 0) row row = (0x4B80_0010, NX))) = true := by decide +kernel

/-- A product of blocks of one repeated byte each, its scales all `scale`. -/
def blocks (attrA attrB : BitVec 9) (a b scale : Byte) : Product :=
  ⟨1, 0, false, attrA, attrB, List.replicate 12288 a, List.replicate 12288 b, List.replicate 768 scale, [], List.replicate 16 0x3F80, [], none⟩

/-- Each row of R211's table of float pairs, unscaled and scaled on either side; and an e5m2 block whose scale of A is 255. -/
theorem test_met_ProductsFormExactSums_pairs :
    Claims.FloatPair 5 6 384 384 ∧ Claims.FloatPair 0x15 6 384 16 ∧ Claims.FloatPair 0x26 0x25 384 32 ∧ Claims.FloatPair 5 0x16 384 16 ∧
      Claims.FloatPair 3 4 192 16 ∧ Claims.FloatPair 14 0x2E 768 32 ∧ attrGeom 0x15 = 1 ∧ attrGeom 6 = 0 ∧
      Claims.chunkSum (blocks 0x15 6 0x38 0x3C 255) 384 16 0 0 0 = .nan := by
  refine ⟨.inl ?_, .inl ?_, .inl ?_, .inl ?_, .inr (.inl ?_), .inr (.inr ?_), ?_, ?_, ?_⟩ <;> decide +kernel

/-- The 32 rows lie in the own local memory, unpoisoned. -/
def rowsB (base pitch : Nat) : Bool :=
  (List.range 32).all fun i => decide (targetOf 0 [0] (BitVec.ofNat 64 base + BitVec.ofNat 64 i * BitVec.ofNat 64 pitch) =
    some (.localMem 0 (base + pitch * i) true)) && !(onInts ta).poisonIn (Place.lm 0 (base + pitch * i)) 128

theorem test_met_AccumulatorTransfersComplete :
    (met [issuesB (.mzero 1) (onInts ta) ta, issuesB (.mflg 1 5 1) (onInts ta) ta, !((onInts ta).core 0).busyAcc 1 1, decide (ta.keeps 5),
      issuesB (.mld 0 1 3 11) (onInts ta) ta, issuesB (.mld 0 1 3 2) (onInts ta) ta, readableB ta [1, 3] [], rowsB 0x4000 128,
      issuesB (.mst 0 1 6 3 7 0) (onInts ta) ta, mstTarget false 3, issuesB (.mst 1 1 6 9 0 1) (onInts ta) ta, mstTarget true 9,
      decide ((ta.gVal 6).toNat = 32 * (fmtWidth 3 / 8) ∧ (ta.gVal 1).toNat % 64 = 0 ∧ fmtWidth 9 = 16), rowsB 0x4000 64, !ta.inRegion,
      issuesB (.mflg 1 5 0) (onQueue 1) ta, ((onQueue 1).core 0).busyAcc 1 1, decide ((onInts ta).coreOf ta.uid = 0)]) = true := by decide +kernel

/-- The thread with its accumulator 0 poisoned by a rollback. -/
def tap : Thread := { ta with acc := [{ acc0 with poisoned := true, flags := NX }] }

theorem test_met_AccumulatorTransfersComplete_waits :
    (met [issuesB (.mzero 1) (onQueue 1) ta, issuesB (.mld 1 1 3 2) (onQueue 1) ta, issuesB (.mst 1 1 6 9 0 1) (onQueue 1) ta,
      (ta.accAt 1).any fun x => !x.poisoned,
      decide ((ta.gVal 1).toNat % 128 = 0 ∧ (ta.gVal 3).toNat = 128 ∧ (ta.gVal 6).toNat = 32 * (fmtWidth 9 / 8)),
      issuesB (.mzero 0) (onInts tap) tap, !((onInts tap).core 0).busyAcc 1 0, issuableB (.mflg 0 5 1) (onInts tap) tap,
      issuableB (.mst 0 1 6 3 7 0) (onInts tap) tap, readableB tap [1, 6] [], (tap.accAt 0).any (·.poisoned)]) = true := by decide +kernel

/-- A rotation that has sent its B half, the words of its western neighbour empty. -/
def rot0 : Rotation := ⟨true, 0x4000, 0x100, 7, 7, [], [], [], [], [], [], false, true⟩

def onRotation : State := { (onInts ta).modCore 0 fun c => { c with rotation := some rot0 } with
  emptyWords := (List.range 1536).map fun i => Place.lm (westOf true 0) 0x4000 / 8 + i }

theorem test_met_RotationsHandOnTheirBlocks :
    (met [issuesB (.mmrt 0 1 2 1) (onInts ta) ta, readableB ta [1, 2] [], !ta.inRegion, decide (ta.atIssue = none),
      match plainA (onInts ta) ta (ta.gVal 1) false with
      | .ok x => decide (x.loc = 0x4000) && pairable x.attr && (productPair x.attr ((onInts ta).core 0).bsfmt).isSome && x.clear x.attr && !poisonA (onInts ta) x.attr x.loc x.unit
      | .error _ => false,
      aFull (onInts ta) 0 0x4000, bReady (onInts ta) 0 (ta.gVal 2).toNat, decide (((onInts ta).core 0).rotation = none),
      (onInts ta).residents.all (fun e => decide (e.2.park = none)), decide (0x7_D000 + 12288 ≤ 0x8_0000),
      decide ((onRotation.core 0).rotation = some rot0),
      decide (waitedWords ((onInts ta).drainOf ta.uid) (Place.lm 0 0x4000) 12288 = []),
      decide (waitedWords onRotation (Place.lm (westOf true 0) 0x4000) 12288 = []),
      (let sp := scaleSpan (lmAttr onRotation (westOf true 0) 0x4000) (Place.lm (westOf true 0) 0) 0x4000 32
       decide (waitedWords onRotation sp.1 sp.2 = []))]) = true := by decide +kernel

/-- A handler's thread that has an MMRT of its region still to send the block of 0x4000 away. -/
def tar : Thread := { ta with levels := [level0], hnd := true, undo := [(512, .publish (.rotate ⟨false, 0x4000, 0x100, 7⟩))] }

theorem test_met_RotationsHandOnTheirBlocks_waits :
    (met [!aFull ((onInts ta).setFull 0x4000 false) 0 0x4000, issuesB (.mmrt 0 1 2 1) ((onInts ta).setFull 0x4000 false) ta,
      issuesB (.mmrt 0 1 2 1) (onInts tar) tar, !tar.inRegion, rotationPending tar false 0x4000 0x100, !rotationPending tar true 0x4000 0x100,
      !rotationPending ta true 0x4000 0x100, heldB (.mmrt 0 1 2 1) (onInts ta) ta, aFull (held (onInts ta)) 0 0x4000, bReady (held (onInts ta)) 0 0x100,
      match plainA (held (onInts ta)) ta (ta.gVal 1) false with
      | .ok x => decide (x.loc = 0x4000) && pairable x.attr && (productPair x.attr ((onInts ta).core 0).bsfmt).isSome && x.clear x.attr
      | .error _ => false,
      issuesB (.mmrt 0 1 2 1) (onQueue 8) ta, aFull (onQueue 8) 0 0x4000, bReady (onQueue 8) 0 0x100]) = true := by decide +kernel

theorem test_met_RotationsHandOnTheirBlocks_words : aEmpty onRotation (westOf true 0) 0x4000 = true := by
  simp only [aEmpty, State.full, List.all_eq_true, List.mem_range]
  intro i hi
  have h : (Place.lm (westOf true 0) 0x4000 + 8 * i) / 8 = Place.lm (westOf true 0) 0x4000 / 8 + i := by omega
  simp [onRotation, h, hi]

/-- A product in the queue whose A operand, of format 14, names codebook register 7. -/
def onBooks : State := (onInts ta).modCore 0 fun c => { c with products := [{ prod0 with attrA := 0x1CE }] }

theorem test_met_OperandLoadsComplete :
    (met [!ta.inRegion, decide (targetOf 0 (onInts ta).pod (ta.gVal 1) = some (.localMem 0 0x4000 true)), (onInts ta).inPod 0,
      decide (ta.atIssue = none), issuesB (.mcbk 7 1) (onInts ta) ta, !((onInts ta).core 0).usesBook 7, ((onBooks).core 0).usesBook 7, issuesB (.mcbk 7 1) onBooks ta, !(onInts ta).poisonIn (Place.lm 0 0x4000) 32, issuesB (.mldb 1 3) (onInts ta) ta, readableB ta [1, 3] [],
      bOffsetOk (lmAttr (onInts ta) 0 0x4000) (ta.gVal 3), inUnit (lmAttr (onInts ta) 0 0x4000) 0x4000 12288,
      decide (((onInts ta).core 0).products = []), decide (((onQueue 1).core 0).products ≠ []), decide ((onInts ta).coreOf ta.uid = 0),
      !(onInts ta).blocked 1, heldB (.mldb 1 3) (onInts ta) ta, decide (((held (onInts ta)).core 0).products = [])]) = true := by decide +kernel

/-- 32 empty selection states of K 3 and CAP 4 at 0x8000. -/
def onStates (t : Thread) : State := (List.range 32).foldl (fun s r => s.write (0x8000 + r * topStride 4) [3, 0, 4, 0]) (onInts t)

theorem test_met_SelectionsMerge :
    (met [issuesB (.mtopk 0 4 2 1) (onStates ta) ta, readableB ta [4, 2] [], decide (topCap (ownView (onStates ta) ta 0x8000 4) = 4),
      decide (badState (onStates ta) ta 0x8000 4 = none), !((onStates ta).core 0).busyAcc 1 0,
      (List.range 32).all (fun r => !(onStates ta).poisonIn (0x8000 + r * topStride 4) 160),
      decide ((on { ta with park := some (.select [(0x8000, [1])] NX) }).threadIn 0 0 = some { ta with park := some (.select [(0x8000, [1])] NX) }),
      decide (NX &&& ta.enables = 0), decide (NX &&& { ta with fpst := 0x3F00 }.enables ≠ 0)]) = true := by decide +kernel

/-! ### Copies, pumps, page moves -/

/-- A copy record: 100 bytes of format 7 from 0x7FF80 to the page at 0x2000_0000_0000. -/
def copyRecord : List Byte :=
  toBytes 8 0x7FF80 ++ toBytes 8 0x2000_0000_0000 ++ [7, 1] ++ List.replicate 6 0 ++ toBytes 4 100 ++ toBytes 4 1 ++ toBytes 4 1 ++ toBytes 4 1 ++
    List.replicate 88 0

def tc : Thread := tw [(1, 0x6000), (2, 9), (3, 0x2000_0000_0008)]

def onCopy : State := (onPage tc).write 0x6000 copyRecord

/-- A ragged record: two rows of up to two 4-byte elements from 0x7FF00 to 0x7000, 8 bytes apart, their entries at 0x6100: the first
of two elements, the second as said. -/
def raggedRecord : List Byte :=
  toBytes 8 0x7FF00 ++ toBytes 8 0x7000 ++ [2, 2] ++ List.replicate 6 0 ++ toBytes 4 2 ++ toBytes 4 2 ++ toBytes 4 1 ++ toBytes 4 1 ++
    List.replicate 24 0 ++ toBytes 8 8 ++ List.replicate 16 0 ++ toBytes 8 0x6100 ++ List.replicate 32 0

def onRagged (second : Nat) : State := ((on tc).write 0x6000 raggedRecord).write 0x6100 (toBytes 8 (2 * 2 ^ 32) ++ toBytes 8 second)

/-- The record at 0x6000 reads so, and its rows pass their checks; or, where said, a row's source address is misaligned. -/
def copyMet (s : State) (record : List Byte) (ragged bad : Bool) : Bool :=
  let x := shapeOf record ragged
  decide (ownView s tc 0x6000 128 = record) && !s.poisonIn 0x6000 128 && (!ragged || !rowsPoison s x) &&
    match shapeRows x ragged (if ragged then rowsArray s tc x else none) with
    | some rows => if bad then (rows.find? fun r => decide (r.sva.toNat % x.size ≠ 0)).isSome
      else !rows.isEmpty && rows.all fun r => decide (r.sva.toNat % x.size = 0) &&
        (Claims.sourceParts s tc r ++ Claims.destParts s tc r ++ Claims.padParts s tc r).all fun e =>
          match e.2 with | .ok _ => true | .error _ => false
    | none => false

/-- A command of that copy. -/
def command0 : Copy := ⟨1, 0, some 5, 9, 0, 0x6000, 0, [⟨[(0x7FF80, frame64, 100)], []⟩], 100, 0, [], 0, 0, [], 0, false⟩

/-- One whose destination no path leads to, and one whose source is in a module that is not of the pod. -/
def cutCommand : Copy := { command0 with rows := [⟨[(0x7FF80, far, 100)], []⟩] }

def deadCommand : Copy := { command0 with rows := [⟨[(Place.lm 1024 0, 0x7000, 100)], []⟩] }

theorem test_met_CopiesComplete :
    (met [issuesB (.cpy 5 1 2 0 0) onCopy tc, issuesB (.cpy 0 1 2 5 1) onCopy tc, issuesB (.cpyr 5 1 2 0 0) (onRagged 0x1_0000_0010) tc, readableB tc [1, 2] [],
      !tc.inRegion, !tc.port.en, decide (tc.atIssue = none), decide (targetOf 0 onCopy.pod (tc.gVal 1) = some (.localMem 0 0x6000 true)),
      copyMet onCopy copyRecord false false, copyMet (onRagged 0x1_0000_0010) raggedRecord true false, copyMet (onRagged 2) raggedRecord true true,
      copyFree { on tc with copies := [command0] } 0 command0,
      answersAt (on tc) 0 0x7FF80, answersFrom (on tc) 0x7FF80 frame64,
      decide (command0.rows = [⟨[(0x7FF80, frame64, 100)], []⟩] ∧ command0.bad = []), decide (waitedWords (on tc) frame64 4096 = []), decide (frame64 % 8 = 0),
      Place.hasFullBits frame64, heldB (.cpy 5 1 2 0 0) onCopy tc, copyMet (held onCopy) copyRecord false false,
      heldB (.cpyr 5 1 2 0 0) (onRagged 0x1_0000_0010) tc, copyMet (held (onRagged 0x1_0000_0010)) raggedRecord true false,
      copyMet (onRagged 0x1_0000_0002) raggedRecord true true, command0.answered (on tc), !command0.cutOff (on tc),
      cutCommand.cutOff (on tc), copyFree { on tc with copies := [cutCommand] } 0 cutCommand,
      !answersAt (on tc) 0 (Place.lm 1024 0), answersFrom (on tc) (Place.lm 1024 0) 0x7000,
      decide (deadCommand.rows = [⟨[(Place.lm 1024 0, 0x7000, 100)], []⟩] ∧ (on tc).slotOf deadCommand.owner = some (0, tc))]) = true := by decide +kernel

/-- The tables that map 0x2000_0000_0000 for address space 0 to the leaf `e`, at HBM 0x50_0000. -/
def tables (e : Word) (s : State) : State :=
  let put (tbl l : Nat) (v : Word) (s : State) : State := s.writeWord (Place.hbm 0 (tbl + 8 * walkIndex 0x2000_0000_0000 l)) v
  let s : State := { s with asroot := [(0, (true, 0x80))] }
  put 0x50_0000 4 e (put 0x40_0000 3 (0x8000_0000_0000_0000 + 0x50_0000) (put 0x30_0000 2 (0x8000_0000_0000_0000 + 0x40_0000)
    (put 0x20_0000 1 (0x8000_0000_0000_0000 + 0x30_0000) (put 0x10_0000 0 (0x8000_0000_0000_0000 + 0x20_0000) s))))

/-- A resident leaf that streams, and one whose page is away in CXL slot 8, not elided. -/
def resident : Word := 0xFC00_0000_0080_0003

def away : Word := 0xEC00_0000_0000_8000

theorem test_met_PumpsComplete :
    (met [issuesB (.pump 5 3 0 0 0 0) (on tc) tc, issuesB (.pump 0 3 0 0 0 1) (on tc) tc, issuesB (.pump 5 3 1 0 1 0) (on tc) tc,
      readableB tc [3] [1], !tc.port.en, decide (tc.atIssue = none), decide (targetOf 0 (on tc).pod (tc.gVal 3) = some .paged),
      match pumpLeaf (tables resident (on tc)) tc (tc.gVal 3) with | .ok (e, _) => Pte.res e | .error _ => false,
      match pumpLeaf (tables away (on tc)) tc (tc.gVal 3) with
      | .ok (e, entry) => !Pte.res e && (movingIo (startMove (tables away (on tc)) 0 0x1000_0000 entry e) 0 0x1000_0000).isSome
      | .error _ => false,
      heldB (.pump 5 3 0 0 0 0) (on tc) tc, !(on tc).blocked 1,
      match pumpLeaf (on tc) tc (tc.gVal 3) with | .error (.trap _ _) => true | _ => false]) = true := by decide +kernel

/-- Job 7 live with five counted items; worklist 3 enabled, its pushes timed. -/
def withJob (s : State) : State :=
  (s.setJob 7 { Job.free with live := true, count := 5 }).setWl 3 { Worklist.reset with en := true, bound := 0, tout := 1 }

/-- The thread of the pumps with an arrival item in v1: key 5, job 7, worklist 3. -/
def tca : Thread := { tc with v := [(0 : VWord), 0x7_0000_0005 ||| (3 <<< 256)] ++ List.replicate 14 0 }

/-- The arrival of that PUMP of page 0x1000_0000, with no room at the pump where said. -/
def arrives (leaf : Word) (full : Bool) : Option (Except Stop (State × Thread)) :=
  match pumpLeaf (withJob (tables leaf (on tca))) tca (tca.gVal 3) with
  | .ok (e, entry) =>
    let s := withJob (tables leaf (on tca))
    let s2 := if Pte.res e then s else startMove s 0 0x1000_0000 entry e
    let s3 := if full then s2.modIo 0 fun x => { x with arrivalsUsed := 1024 } else s2
    if Pte.res e || decide (movingIo s3 0 0x1000_0000 = some 0) then some (pumpArrival s3 tca 0 0x1000_0000 (tca.vVal 1)) else none
  | .error _ => none

theorem test_met_PumpsComplete_arrival :
    (met [issuesB (.pump 5 3 1 0 1 0) (on tca) tca, issuesB (.pump 0 3 1 0 1 1) (on tca) tca, decide (tca.atIssue = none), decide (nearIo 0 = 0),
      decide (screenArrival (withJob (tables away (on tca))) tca (tca.vVal 1) = none),
      [away, resident].all (fun leaf => match arrives leaf false with | some (.ok (s1, _)) => decide (s1.cur = (0, 0)) | _ => false),
      match arrives away true with | some (.error (.park (.retry (.arrivalQueue 0)))) => true | _ => false]) = true := by decide +kernel

/-- A move of the page in slot 0x8000 whose frame has come, and one that waits for a frame. -/
def move0 : Move := ⟨0, 0x1000_0000, Place.hbm 0 0x50_0000, away, 0x8000, some 0x80_0000, [], []⟩

def onMove : State := (tables away (on tc)).modIo 0 fun x => { x with moves := [{ move0 with frame := none }], spareFrames := [0x80_0000, 0xA0_0000] }

theorem test_met_PageMovesLand :
    (met [decide (((onMove.modIo 0 fun x => { x with moves := [move0] }).io 0).moves[0]? = some move0), decide (onMove.word move0.entry = move0.old),
      decide ((tables resident (on tc)).word move0.entry ≠ move0.old), decide (waitedWords (on tc) (Place.hbm 0 (0x80_0000 + 4096 * 31)) 4096 = []),
      decide (4095 < 4096), decide ((on tc).inbound = []), (on tc).residents.all (fun e => decide (e.2.park = none)), decide (ioOf { on tc with decoders := [⟨0, 2 ^ 40, 1⟩] } 0x8000 = some 1),
      !moveHeld (onMove.modIo 0 fun x => { x with moves := [move0] }) move0, decide (((on tc).core 0).mailbox.length < 64),
      decide (0x80_0000 + 0x2_0000 ≤ 2 ^ 50 ∧ 0x8000 + 0x2_0100 ≤ 2 ^ 50 ∧ (on tc).modNum < 8), sectorStored ((on tc).write (Place.hbm 0 (0x80_0000 + 4096 * 31)) [1]) (Place.hbm 0 (0x80_0000 + 4096 * 31)),
      decide ((onMove.io 0).moves = [{ move0 with frame := none }]), decide ((onMove.io 0).spareFrames = [0x80_0000, 0xA0_0000])]) = true := by
  decide +kernel

/-! ### Tiles and worklists -/

/-- A thread of job 7 that asks for a tile of class 2, partition 2, two consumptions; with a handle of the tile at 0x4_0000. -/
def tt : Thread := { tw [(1, 0x0007_0000_003C_A002), (2, 0x0020_0200_0004_0000), (3, 0x8000), (4, 1), (6, 2), (7, 4095)] with job := 7 }

def pools (s : State) : State := s.modDie 0 fun d => { d with tpcap := List.replicate 16 4, tpmin := List.replicate 16 1, tpLow := 4 }

/-- The machine with job 7, and with the tile of base 0x4_0000 and generation 2 as said. -/
def onTiles (sealed persistent : Bool) (count : BitVec 12) : State := (pools (withJob (on tt))).modDie 0 fun d => { d with
  tiles := [⟨0x4_0000, 2, 2, 2, count, persistent, sealed, 2, 7, false, 0⟩] }

def isTile0 (s : State) : Bool := match currentTile s (tt.gVal 2) with | some (d, x) => decide (d = 0) && decide (x.base = 0x4_0000) && tileAdmits s tt x | none => false

theorem test_met_TilesComplete :
    (met [!tt.inRegion, issuesB (.talloc 5 1) (pools (withJob (on tt))) tt, readableB tt [1, 2, 3, 4, 6, 7] [], decide (tt.keeps 5),
      requestOk (pools (withJob (on tt))) 0 tt (tt.gVal 1), decide (reqClass (tt.gVal 1) = 2 ∧ reqPart (tt.gVal 1) = 2 ∧ reqDieOf 0 (tt.gVal 1) = 0),
      decide ((pools (withJob (on tt))).waiters (tallocWaiter 0 2) = []), decide (((pools (withJob (on tt))).die 0).admits 2 2 ≠ []),
      decide ((((pools (withJob (on tt))).modDie 0 fun d => { d with tpLow := 1024 }).die 0).admits 2 2 = []),
      requestOk ((pools (withJob (on tt))).modDie 0 fun d => { d with tpLow := 1024 }) 0 tt (tt.gVal 1),
      isTile0 (onTiles false false 2), issuesB (.tseal 2 5) (onTiles false false 2) tt, issuesB (.tseal 2 5) (onTiles true false 2) tt,
      issuesB (.tfree 2) (onTiles true true 0) tt, issuesB (.tdrop 2) (onTiles true false 2) tt, isTile0 (onTiles true false 1),
      issuesB (.tabandon 2 0) (onTiles true false 2) tt, issuesB (.tabandon 2 4) (onTiles true false 2) tt, issuesB (.tabandon 2 7) (onTiles true false 2) tt,
      decide ((tt.gVal 4).toNat < 2 ∧ 2 ≤ (tt.gVal 7).toNat ∧ (tt.gVal 7).toNat ≤ 4095), issuesB (.tget 2 3) (onTiles true false 1) tt,
      (tgetDest (onTiles true false 1) (tt.gVal 3) (tileSize 2)).isSome,
      (match currentTile (onTiles true true 0) (tt.gVal 2) with | some (_, x) => tileAdmits (onTiles true true 0) tt x && x.persistent | none => false),
      issuesB (.tinfo 5 2) (onTiles true true 0) tt, decide (currentTile (onTiles true true 0) (tt.gVal 3) = none),
      issuesB (.tinfo 5 3) (onTiles true true 0) tt, issuableB (.tdrop 3) (onTiles true true 0) tt, issuableB (.tfree 3) (onTiles true true 0) tt]) = true := by
  decide +kernel

theorem test_met_TilesComplete_waits :
    (met [isTile0 (onTiles false false 2), issuesB (.tdrop 2) (onTiles false false 2) tt, issuesB (.tabandon 2 4) (onTiles false false 2) tt,
      issuesB (.tget 2 3) (onTiles false false 2) tt, (tgetDest (onTiles false false 2) (tt.gVal 3) (tileSize 2)).isSome,
      isTile0 (onTiles true false 0), issuableB (.tdrop 2) (onTiles true false 0) tt, issuableB (.tget 2 3) (onTiles true false 0) tt,
      issuesB (.tget 2 3) (onTiles true true 0) tt, issuesB (.tget 2 3) (onTiles true false 2) tt, decide (tt.levels = [] ∧ tt.undo = []),
      issuableB (.tseal 3 5) (onTiles true true 0) tt, issuableB (.tabandon 3 4) (onTiles true true 0) tt, issuableB (.tget 3 3) (onTiles true true 0) tt,
      (tgetDest (onTiles true true 0) (tt.gVal 3) 0).isSome, heldB (.tseal 2 5) (onTiles false false 2) tt,
      isTile0 (held (onTiles false false 2)), !(onTiles false false 2).blocked 1,
      let r : Req := ⟨.tget ⟨0x8000, 0x8000, tileSize 2, [], 0⟩ (some (0, 0x4_0000, 2)), [⟨tileAddress (tt.gVal 2), Place.tile 0 0x4_0000, tileSize 2, [], 0⟩], none⟩
      parkedB (on (parkedOn r)) (parkedOn r) r]) = true := by decide +kernel

/-- An entry of a worklist with key `k`. -/
def entry (k seq : Nat) : Entry := ⟨⟨BitVec.ofNat 32 k, 7, 0⟩, 0, seq, false⟩

theorem test_met_WindowHoldsTheLeastKeys :
    (met [decide ({ Worklist.reset with bound := 1, window := [entry 1 0, entry 2 1], held := [entry 2 2] }.window.length ≤ 2),
      decide (leastHeld { Worklist.reset with bound := 1, window := [entry 1 0, entry 2 1], held := [entry 2 2] } = some 2),
      decide (([entry 1 0, entry 2 1].map (·.seq)).Nodup)]) = true := by decide +kernel

/-- A thread with worklist 3 of its own module in g1, a key and a meta word of class 1 and of job 7 in g2. -/
def tl : Thread := { tw [(1, 0x3), (2, 0x1000_0007_0000_0005)] with job := 7 }

def push0 : Push := ⟨3, pushItem 0x1000_0007_0000_0005 0, .thread 0, true, false⟩

/-- Job 7 held for a job before it, its hold area full. -/
def heldJob (s : State) : State := s.setJob 7 { s.job 7 with pred := some 8 }

def parkedPush (at' : Nat) (full : Bool) : State :=
  let s := withJob (on { tl with park := some (.push 0 push0 0 4) })
  { if full then heldJob s else s with now := at' }

theorem test_met_WorklistsComplete :
    (met [issuesB (.wpush 0 1 2) (withJob (on tl)) tl, issuesB (.launch 15 1 2) (withJob (on tl)) tl, readableB tl [1, 2] [0, 15], !tl.inRegion,
      decide (tl.counted = none), decide ((pushItem (tl.gVal 2) 0).cls = 1), decide (wlTarget (withJob (on tl)) (tl.gVal 1) = some (0, 3)),
      jobLive (withJob (on tl)) 7, ((withJob (on tl)).wl 3).en,
      match countUp (withJob (on tl)) 7 with
      | some s1 => (match (placePush (s1.drainOf 1) 0 0 push0).1 with | some s2 => decide (s2.cur = (0, 0)) | none => false) &&
        (placePush ((heldJob s1).drainOf 1) 0 0 push0).1.isNone && !s1.blocked 1 && decide (pushNode (s1.drainOf 1) 0 0 push0 = coreNode 0)
      | none => false,
      heldB (.wpush 0 1 2) (withJob (on tl)) tl,
      match countUp (held (withJob (on tl))) 7 with | some s1 => s1.blocked 1 | none => false,
      (placePush (parkedPush 0 false) 0 0 push0).1.isSome, (placePush (parkedPush 0 true) 0 0 push0).1.isNone,
      (Park.push 0 push0 0 4).arrived (parkedPush 0 false) 0 { tl with park := some (.push 0 push0 0 4) },
      decide ((parkedPush 2048 true).threadIn 0 0 = some { tl with park := some (.push 0 push0 0 4) }), decide (((parkedPush 2048 true).wl 3).tout ≠ 15),
      decide (0 + 2 ^ (((parkedPush 2048 true).wl 3).tout.toNat + 10) ≤ 2048), decide (ownTarget (withJob (on tl)) (tl.gVal 1) = some 3),
      issuesB (.wstat 5 1) (withJob (on tl)) tl, decide (tl.keeps 5), issuesB (.wpop 5 1) (withJob (on tl)) tl, issuesB (.wtry 15 1) (withJob (on tl)) tl,
      (popAt (withJob (on tl)) 3 (panOf 0)).1.isNone,
      match (popAt ((withJob (on tl)).setWl 3 { (withJob (on tl)).wl 3 with window := [entry 1 0] }) 3 (panOf 0)).1 with
      | some (x, _) => !x.poison
      | none => false]) = true := by decide +kernel

/-- The same thread with an item that hints die 1. -/
def tlFar : Thread := { tw [(1, 0x3), (2, 0x1200_0007_0000_0005)] with job := 7 }

def pushFar : Push := ⟨3, pushItem 0x1200_0007_0000_0005 0, .thread 0, true, false⟩

theorem test_met_WorklistsComplete_away :
    (met [issuesB (.wpush 0 1 2) (withJob (on tlFar)) tlFar, readableB tlFar [1, 2] [0], decide (tlFar.counted = none), !tlFar.inRegion,
      decide ((pushItem (tlFar.gVal 2) 0).cls = 1), decide (wlTarget (withJob (on tlFar)) (tlFar.gVal 1) = some (0, 3)),
      match countUp (withJob (on tlFar)) 7 with
      | some s1 => decide (pushNode (s1.drainOf 1) 0 0 pushFar ≠ coreNode 0) && !s1.blocked 1
      | none => false,
      let t := { tlFar with park := some (.push 0 pushFar 0 4) }
      decide ((withJob (on t)).threadIn 0 0 = some t) && !(Park.push 0 pushFar 0 4).arrived (withJob (on t)) 0 t]) = true := by decide +kernel

/-! ### Messages, jobs and gangs, recovery regions -/

/-- A thread of job 3, number 1 of gang 4: a mailbox and a register of its own module as targets, a descriptor, a job number. -/
def tg : Thread := { tw [(1, 0x2003), (2, 0x210_2000), (3, 0x848), (6, 0x7F80), (7, 9), (8, 10), (10, 0x1000_0000_0000_7000)] with
  job := 3, gang := 4, index := 1 }

def message0 : Message := ⟨false, 0x2003, 0⟩

/-- The same thread, parked on a SEND of attempt `n`, due at once, with the mailbox of core 3 full where it says so. -/
def onSend (n : Nat) (full : Bool) : State := (on { tg with park := some (.send message0 n 0 true) }).modCore 3 fun c =>
  { c with mailbox := if full then List.replicate 64 0 else [] }

/-- A thread that sends to its own core's mailbox, full where it says so. -/
def tgh : Thread := { tg with g := tg.g.set 1 0x2000 }

def onHome (full : Bool) : State := (on tgh).modCore 0 fun c => { c with mailbox := if full then List.replicate 64 0 else [] }

/-- A message to core 1023, which its packet has still to reach. -/
def toFar : Park := .send ⟨false, 0x23FF, 0⟩ 0 0 true

theorem test_met_MessagesComplete_first :
    (met [issuesB (.send 1 15) (onHome false) tgh, issuesB (.send 1 15) (onHome true) tgh, readableB tgh [1] [15], sendTargetOk (onHome false) false (tgh.gVal 1),
      sendsHome (onHome false) 0 (tgh.gVal 1), (deliverMessage ((onHome false).drainOf 1) ⟨false, 0x2000, 0⟩).any (fun s1 => decide (s1.cur = (0, 0))),
      (deliverMessage ((onHome true).drainOf 1) ⟨false, 0x2000, 0⟩).isNone, !sendsHome (on tg) 0 (tg.gVal 1),
      decide ((onSend 0 false).blocked 1 = false ∧ 0 ≤ (onSend 0 false).now),
      (Park.send message0 0 0 true).arrived (onSend 0 false) 0 { tg with park := some (.send message0 0 0 true) },
      decide ((on { tg with park := some toFar }).threadIn 0 0 = some { tg with park := some toFar }),
      !toFar.arrived (on { tg with park := some toFar }) 0 { tg with park := some toFar }, heldB (.send 1 15) (on tg) tg, !(on tg).blocked 1,
      (deliverMessage ((onSend 0 true).unload 1) message0).isNone, (deliverMessage ((onSend 63 true).unload 1) message0).isNone,
      (deliverMessage ((onSend 0 false).unload 1) message0).isSome]) = true := by decide +kernel

/-- A message for register 5 of the thread of slot 2 of core 3, a g or a v register; that register empty or full. -/
def toReg (v : Bool) : Message := ⟨true, if v then 0x252_2003 else 0x52_2003, 9⟩

def onReg (full : Bool) : State :=
  { on tg with slots := [(0, .busy tg), (50, .busy (if full then { tg with uid := 2 } else { tg.emptyG 5 with uid := 2, vFull := 0xFFDF }))] }

theorem test_met_MessagesComplete_registers :
    ([false, true].all fun v => decide ((sendModule (on tg) (toReg v).target * 1024 + sendCore (toReg v).target) * 16 + sendTid (toReg v).target = 50) &&
      decide (sendReg (toReg v).target = 5) && (sendKindV (toReg v).target == v) && decide (NatMap.get (on tg).slots 50 .empty = .empty) &&
      [false, true].all fun full => match NatMap.get (onReg full).slots 50 .empty with
        | .busy u => (if v then u.vIsFull 5 else u.gFull.getLsbD 5) == full && (deliverMessage (onReg full) (toReg v)).isSome == !full
        | _ => false) = true := by decide +kernel

theorem test_met_MessagesComplete :
    (met [issuesB (.send 1 15) (on tg) tg, issuesB (.sendR 2 0) (on tg) tg, readableB tg [1, 2, 3] [15, 0], !tg.inRegion,
      sendTargetOk (on tg) false (tg.gVal 1), sendTargetOk (on tg) true (tg.gVal 2),
      (deliverMessage ((on tg).drainOf 1) message0).any (fun s1 => decide (s1.cur = (0, 0))),
      (deliverMessage ((on tg).drainOf 1) ⟨true, tg.gVal 2, 0⟩).isNone, decide (((on tg).drainOf 1).cur = (0, 0)),
      (deliverMessage (onSend 1 false) message0).isSome, (deliverMessage (onSend 63 true) message0).isNone,
      decide ((onSend 62 true).threadIn 0 0 = some { tg with park := some (.send message0 62 0 true) }),
      decide (64 ≤ ((onSend 62 true).core 3).mailbox.length), issuesB .waitm (on tg) tg, issuesB (.recvm 15 5) (on tg) tg, decide (tg.keeps 5),
      decide (((on tg).core 0).mailbox = []), decide ((((on tg).modCore 0 fun c => { c with mailbox := [1, 2] }).core 0).mailbox = [1, 2]),
      decide (((on tg).core 0).mailPending = []), issuesB (.portcfg 3) (on tg) tg, portOk 0 (tg.gVal 3), issuesB (.rempty 31) (on tg) tg,
      issuesB (.remptyV 15) (on tg) tg]) = true := by decide +kernel

def gang0 (arrived : List Nat) : Gang := {
  job := 3, size := 2, live := [0, 1], exited := false, arrived := arrived, scope := 1, slots := [0], starting := [], image := 0, len := 0, loadOff := 0,
  item := ⟨0, 0, 0⟩, wl := 0, accs := 0, cores := [], loads := [], rakes := (0, 0), reserved := none }

def onGang (arrived : List Nat) : State := (on tg).setGang 4 (gang0 arrived)

/-- A job descriptor: the record at 0x6000, no table, scope .po; the machine with it at 0x7F80, and with jobs 9 and 10. -/
def descriptor : List Byte := toBytes 8 0x6000 ++ toBytes 8 0 ++ toBytes 2 0 ++ [6, 0] ++ List.replicate 12 0

def onJobs : State := ((((on tg).write 0x7F80 descriptor).setJob 3 { Job.free with live := true, count := 1 }).setJob 9
  { Job.free with live := true, count := 2, record := 0x6000, scope := 6, refHeld := true, opener := some (4, 1) }).setJob 10 { Job.free with live := true, count := 1 }

/-- JWAIT at the DONE word of job 9. -/
def waitDone : Req := ⟨.jwait 9 5, [⟨0x6000, 0x6000, 8, [], 0⟩], some 6⟩

/-- Both threads of gang 4 at the barrier, in slots 0 and 1, and one of another gang there. -/
def onBarrier : State := { onGang [0, 1] with slots := [(0, .busy { tg with park := some .gbar }),
  (1, .busy { tg with uid := 2, index := 0, pc := 0x200, park := some .gbar }), (2, .busy { tg with uid := 3, gang := 5, park := some .gbar })] }

theorem test_met_JobsAndGangsComplete_barrier :
    (met [decide (onBarrier.gang? 4 = some (gang0 [0, 1])), decide ((gang0 [0, 1]).arrived ≠ []), decide (onBarrier.slots.map (·.1) = [0, 1, 2]),
      onBarrier.cores.all (fun e => decide (e.2.ctxArea = []) && e.2.ctxCache.all fun c => decide (c.2 = none)),
      [0, 1].all (fun k => match NatMap.get (tryDepart onBarrier 4).slots k .empty with | .busy u => decide (u.park = none) | _ => false),
      match NatMap.get (tryDepart onBarrier 4).slots 2 .empty with | .busy u => decide (u.park = some .gbar) | _ => false]) = true := by decide +kernel

theorem test_met_JobsAndGangsComplete :
    (met [!tg.inRegion, issuesB .gbar (on tg) tg, decide ((on tg).gang? 4 = none), decide ((onGang []).gang? 4 = some (gang0 [])),
      decide (0 ∈ (gang0 [1]).live ∧ 0 ∉ (gang0 [1]).arrived), decide (∀ i ∈ (gang0 [0, 1]).live, i ∈ (gang0 [0, 1]).arrived),
      decide ({ on { tg with park := some .gbar } with cores := [] }.slots = [(0, .busy { tg with park := some .gbar })]), issuableB .gexit (on tg) tg,
      decide (((on tg).core 0).products = []), !hasCommands (on tg) 0 1, decide (tg.undo = [] ∧ (on tg).stores = []), issuesB .gexit (on tg) tg,
      issuesB (.jopen 5 6) onJobs tg, readableB tg [6, 7, 8, 10] [], decide (tg.keeps 5), decide ((tg.gVal 6).toNat % 32 = 0),
      decide (targetOf 0 onJobs.pod (tg.gVal 6) = some (.localMem 0 0x7F80 true)), !onJobs.poisonIn 0x7F80 32,
      decide (ownView onJobs tg 0x7F80 32 = descriptor), descriptorOk descriptor,
      match areaPlace onJobs tg 0 false 0x6000 (tg.gVal 6) with | .ok p => decide (p = 0x6000) && Place.hasFullBits p | .error _ => false,
      jobLive onJobs 9, decide ((onJobs.job 9).opener = some (4, 1)), (onJobs.job 9).refHeld,
      let s1 := countDown (onJobs.setJob 9 { onJobs.job 9 with refHeld := false, waited := true }) 9 1
      decide (s1.cur = (0, 0)) && decide ((s1.job 9).record = 0x6000 ∧ 1 < (s1.job 9).scope.toNat) &&
        decide (targetOf 0 s1.pod 0x6000 = some (.localMem 0 0x6000 true)) && s1.inPod 0 && decide ((0x6000 : Word).toNat % 8 = 0) &&
        decide (Place.tier 0x6000 ≠ .cxl),
      parkedB (on (parkedOn waitDone)) (parkedOn waitDone) waitDone, ((on (parkedOn waitDone)).drainOf 1).full 0x6000,
      !(((on (parkedOn waitDone)).setFull 0x6000 false).drainOf 1).full 0x6000, !((on (parkedOn waitDone)).drainOf 1).poisonIn 0x6000 8,
      parkedB ((on (parkedOn waitDone)).setFull 0x6000 false) (parkedOn waitDone) waitDone,
      decide (tg.atIssue = none), !onJobs.blocked 1, heldB (.jopen 5 6) onJobs tg, (held onJobs).blocked 1, heldB .gbar (on tg) tg, heldB .gexit (on tg) tg,
      !hasCommands (held (on tg)) 0 1, hasCommands { on tg with copies := [command0] } 0 1, issuableB .gexit { on tg with copies := [command0] } tg,
      !(gang0 [0, 1]).exited, ({ gang0 [0, 1] with exited := true }).exited, decide (1 ∈ (gang0 [0]).live ∧ 1 ∉ (gang0 [0]).arrived),
      issuesB (.gexit) (onQueue 1) ta, ((onQueue 1).core 0).products.any (fun p => decide (p.owner = ta.uid)), !ta.inRegion,
      decide ((onJobs.drainTo 1 [(0x7F80, 32)]).cur = (0, 0)), !(onJobs.drainTo 1 [(0x7F80, 32)]).poisonIn 0x7F80 32,
      issuesB (.jwait 5 7) onJobs tg, issuesB (.jsucc 7 8 10) onJobs tg, !isHeld (onJobs.job 9), jobLive onJobs 10, decide ((onJobs.job 10).count ≠ 0),
      holdFormed (tg.gVal 10),
      match holdMapped onJobs tg (onJobs.job 9) 0x7000 (tg.gVal 10) (32 * 32) with | .ok _ => true | .error _ => false,
      issuesB (.jsuccRel 7) (on { tg with sv := true }) { tg with sv := true }, issuesB (.jsuccDis 7) (on { tg with sv := true }) { tg with sv := true },
      ((onJobs.setJob 9 { onJobs.job 9 with stuck := true, pred := some 10, holding := [push0] }).job 9).stuck]) = true := by decide +kernel

theorem test_met_JobsAndGangsComplete_numbers : freeNumbers onJobs ≠ [] := by
  intro h
  have : (2 : Nat) ∈ freeNumbers onJobs := by decide +kernel
  rw [h] at this
  exact absurd this (by simp)

/-- The machine of `onPage`, its page in the tables too. -/
def onArea (t : Thread) : State := tables resident (onPage t)

/-- A thread with its area in that page and no open level; one with that level; one with a second level in it. -/
def tr0 : Thread := { tw [(1, 0x2000_0000_0040), (2, 0x7FFF8)] with rgnSize := 4, rgnBase := 0x8000_0000, acc := [acc0], job := 3 }

def tr1 : Thread := { tr0 with levels := [level0], fill := 1920 }

def tr2 : Thread := { tr0 with levels := [{ level0 with mark := 1920 }, level0], fill := 3328 }

theorem test_met_RegionsComplete :
    (met [issuesB (.rbegin 3 0x7FFF) (onArea tr0) tr0, decide (tr0.levels.length < 8 ∧ tr0.rgnSize ≠ 0),
      decide ((tr0.pc.zeroExtend 64 + (0x7FFF : BitVec 16).signExtend 64 * 4 : Word).toNat < 0x8_0000), undoFits (onArea tr0) 0 tr0 1408,
      decide (tr0.badG = 0 ∧ tr0.badV = 0), !hasMoves (onArea tr1) 1, decide ((onArea tr1).cur.2 < 16 ∧ ((onArea tr1).core 0).products = []),
      issuesB (.rpres 1 31) (onArea tr1) tr1, readableB tr1 [1] [], decide (tr1.levels ≠ []), decide ((tr1.gVal 1).toNat % 64 = 0),
      !reachesOwn (onArea tr1) (tr1.gVal 1) 2048, decide (tr1.ranges.length < 16), issuesB (.rpresA 0) (onArea tr1) tr1,
      decide (tr1.accAt 0 = some acc0), !((onArea tr1).core 0).busyAcc 1 0, !heldAcc tr1 level0 0, undoFits (onArea tr1) 0 tr1 4160,
      issuesB .rend (onArea tr2) tr2, decide (((onArea tr2).core 0).products = []), issuesB .rend (onArea tr1) tr1, decide (tr1.undo = []),
      match closeOutermost (onArea tr1) 0 tr1 with | .done s1 _ => decide (s1.cur = (0, 0)) | _ => false,
      issuableB .rfail (onArea tr1) tr1, decide (tr1.committed = false ∧ tr1.hnd = false ∧ tr1.park = none ∧ tr1.counted = none ∧ tr1.taken = none),
      decide (level0.count.toNat < level0.limit.toNat ∧ level0.dirty = []), !(onArea tr1).blocked 1,
      !recordPoisoned (Claims.stoppedIn (onArea tr1) tr1) 0 tr1 level0.mark 1408]) = true := by decide +kernel

theorem test_met_RolledBackStoresLeaveNoTrace :
    (met [(Claims.storeOf tr1 (.std 2 2 0)).any (fun x => decide (x.1.scope = none) && readableB tr1 x.1.srcs [] && inOwnB (onArea tr1) x.1 0x7FFF8),
      issuesB (.std 2 2 0) (onArea tr1) tr1, decide (level0.mark ≤ tr1.fill), undoFits ((onArea tr1).drainTo 1 [(0x7FFC0, 64)]) 0 tr1 128, !hasMoves (onArea tr1) 1,
      decide (tr1.hnd = false ∧ tr1.undo = [] ∧ tr1.committed = false ∧ (onArea tr1).inbound = [] ∧ (onArea tr1).coreOf tr1.uid = 0),
      !(onArea tr1).blocked 1,
      decide (((onArea tr1).residents.filterMap fun e => e.2.park) = []),
      match exec (.std 2 2 0) (onArea tr1) with
      | .next s1 => match s1.thread? with
        | some t1 => hintsOk .rfail t1.hints && !recordPoisoned (Claims.stoppedIn s1 t1) 0 t1 level0.mark 1408 &&
            !recordPoisoned (Claims.stoppedIn s1 t1) 0 t1 tr1.fill 128 && (match exec .rfail s1 with | .next _ => true | _ => false)
        | none => false
      | _ => false]) = true := by decide +kernel

/-! ### Traps, system registers, contexts -/

/-- A privileged thread in its handler, and one that is neither. -/
def th1 : Thread := { tw [(1, 0), (2, 0x8000_0000_0000_0000), (3, 3), (6, 15), (7, 16), (8, 255), (10, 0x2000_0000_0000)] with sv := true, hnd := true, epc := 0x1236 }

def th0 : Thread := tw [(2, 0x8000_0000_0000_0000)]

theorem test_met_TrapsAndReturns :
    (met [decide (th0.hnd = false ∧ th0.taken = none ∧ th0.counted = none ∧ th0.trail.lag = []), issuableB (.trap 0x7FFF) (on th0) th0, issuableB (.brk 0) (on th0) th0,
      decide (((on th0).core 0).debugArmed = false), issuesB (.brk 1) ((on th0).modCore 0 fun c => { c with debugArmed := true }) th0,
      issuableB .eret (on th1) th1, decide (th1.hnd = true), issuableB .eret (on th0) th0]) = true := by decide +kernel

theorem test_met_SystemRegistersComplete :
    (met [issuesB (.setrnd 5) (on th1) th1, issuesB (.setrnd 7) (on th1) th1, issuesB .yield (on th1) th1, issuesB (.sleep 2) (on th1) th1,
      (List.range 43).all (fun n => issuesB (.sysr 5 1 (BitVec.ofNat 6 n)) (on th1) th1 && issuesB (.sysw 5 1 (BitVec.ofNat 6 n)) (on th1) th1),
      readableB th1 [5, 1] [], decide (th1.keeps 5), indexOk 0 (th1.gVal 1), indexOk 42 (th1.gVal 1), !th1.inRegion,
      issuesB (.sysw 5 1 6) (on { th0 with levels := [level0] }) { th0 with levels := [level0] }, !regHasP 6,
      issuableB (.sysr 5 1 25) (on th0) th0, regPrivileged 25, issuableB (.sysw 5 1 25) (on th0) th0, regHasP 25,
      issuableB (.sysw 5 1 16) (on { th0 with sv := true, levels := [level0] }) { th0 with sv := true, levels := [level0] },
      { th0 with sv := true, levels := [level0] }.inRegion,
      !indexOk 37 (th1.gVal 2), issuableB (.sysw 5 2 37) (on th1) th1, issuableB (.sysr 5 2 37) (on th1) th1, readableB th1 [2] [], decide ((on th1).threadIn 0 0 = some th1), decide (((on th1).wl 63).liveRuns = [] ∧ ((on th1).wl 63).runs = [] ∧ ((on th1).wl 63).held = []),
      decide ({ Worklist.reset with runs := [⟨3, 0, 0, 0, 0, 0, []⟩] }.liveRuns ≠ []),
      !wlQuiet ((on th1).setWl 63 { (on th1).wl 63 with window := [entry 1 0] }) 63, wlQuiet (on th1) 63, decide ((on th1).waiters (popWaiter 63) = []),
      decide (((on th1).die 7).clmap.length = 8)]) = true := by decide +kernel

/-- Slot 3 of the core with a thread, or empty; the saved contexts of the core in the page of `tables`, eight of them, context 1 as said. -/
def ty : Thread := { tw [] with uid := 7, pc := 0x444, gang := 2 }

def onContexts (t : Thread) (slot3 : List (Nat × Slot)) (saved : Option Thread) : State :=
  ({ tables resident (on t) with slots := (0, .busy t) :: slot3 } : State).modCore 0 fun c =>
    { c with tcxCount := 8, tcxBase := 0x2000_0000_0, ctxCache := [(1, saved)] }

def tsw : Thread := { tw [(1, 3), (2, 1), (3, 16), (6, 0), (7, 8), (8, 255), (10, 0x2000_0000_0000)] with sv := true }

theorem test_met_SwapsAndInvalidationsComplete :
    (met [decide (tsw.sv = true), issuesB (.tcswap 1 2 0) (onContexts tsw [] none) tsw, readableB tsw [1, 2, 6, 8, 10] [], !tsw.inRegion,
      decide (leadSlot (onContexts tsw [(3, .busy ty)] none) 3 = 3 ∧ (onContexts tsw [] none).curSlot ≠ 3),
      contextMapped (onContexts tsw [] none) ((onContexts tsw [] none).core 0) 1, decide (savedContext (onContexts tsw [] none) 0 1 = none),
      decide (NatMap.get (onContexts tsw [(3, .busy ty)] none).slots 3 .empty = .busy ty), !ty.holdsUp,
      decide (ty.park = none ∧ ty.taken = none ∧ ty.counted = none ∧ ty.hints = [] ∧ ty.rgnSize = 0 ∧ ty.pair = false ∧ ty.departed = false),
      evictMapped (onContexts tsw [(3, .busy ty)] none) 0 1 (some ty), decide (((onContexts tsw [(3, .busy ty)] none).core 0).products = []),
      decide (((onContexts tsw [(3, .busy ty)] none).core 0).ctxCache.length < 4), decide (NatMap.get (onContexts tsw [] (some ty)).slots 3 .empty = .empty),
      evictMapped (onContexts tsw [] (some ty)) 0 1 none, evictMapped (onContexts tsw [(3, .busy ty)] (some ty)) 0 1 (some ty),
      decide (((onContexts tsw [(3, .busy ty)] (some ty)).core 0).ctxCache = [(1, some ty)] ∧
        NatMap.get (onContexts tsw [(3, .busy ty)] (some ty)).slots 3 .empty = .busy ty), heldB (.tlbinv 8 10 1 2) (on tsw) tsw, decide ((on tsw).gang? 2 = none), issuesB (.tcswap 6 2 1) (onContexts tsw [] none) tsw,
      issuableB (.tcswap 3 2 0) (onContexts tsw [] none) tsw, issuableB (.tcswap 1 2 1) (onContexts tsw [] none) tsw,
      issuableB (.tcswap 6 7 1) (onContexts tsw [] none) tsw, issuesB (.tlbinv 0 0 6 0) (on tsw) tsw, issuesB (.tlbinv 8 10 1 2) (on tsw) tsw,
      isCanonical (tsw.gVal 10), decide ((tsw.gVal 8).toNat < 256), decide (0x2000_0000_0000 ≤ (tsw.gVal 10).toNat ∧ (on tsw).copies = []), decide ((on tsw).stores = [] ∧ (on tsw).residents = [(0, tsw)])]) = true := by
  decide +kernel

/-- A TLBINV that waits for those; the thread of slot 1 parked on an access of its 0th issue. -/
def tinv (l : List Awaited) : Thread := { tsw with park := some (.invalidate l) }

def onAwait (l : List Awaited) : State :=
  { on (tinv l) with slots := [(0, .busy (tinv l)), (1, .busy { parkedOn (loadAt frame64) with uid := 7 })] }

theorem test_met_SwapsAndInvalidationsComplete_waits :
    (met [decide ((on tsw).issueFrom ≤ (on tsw).now), decide (({ on tsw with issueFrom := 1 } : State).now < 1),
      issuesB (.tlbinv 0 0 6 0) { on tsw with issueFrom := 1 } tsw, decide (tsw.undo = []), (on tsw).everyThread.all (fun e => decide (e.2.uid = tsw.uid)),
      decide ((onAwait [.access 7 0]).threadIn 0 0 = some (tinv [.access 7 0])), [Awaited.access 7 0].any (stillAwaited (onAwait [.access 7 0])),
      !([Awaited.access 9 0] : List Awaited).any (stillAwaited (onAwait [.access 9 0])), !(tinv []).closing,
      (onAwait []).everyThread.any (fun e => decide (e.2.uid ≠ tsw.uid) && (e.2.park.bind Park.request).any fun r =>
        r.parts.any fun p => decide (0x2000_0000_0000 ≤ p.va.toNat)), coreInScope 6 0 0,
      { on tsw with copies := [{ command0 with vas := [0x2000_0000_0000] }] }.copies.any (fun c => c.vas.any fun v => decide (0x2000_0000_0000 ≤ v.toNat))])
      = true := by decide +kernel

/-! ### Events of the cores, the links, HBM -/

def walking (wr : Bool) : Thread := { th0 with park := some (.walk 0x2000_0000_0010 (!wr) wr) }

/-- A leaf whose page does not stream and is not written, and one whose page is away. -/
def readOnly : Word := 0xD400_0000_0080_0000

def cxlPart : Part := ⟨0x2000_0000_0000, Place.cxl 0 0x40, 8, [], 0⟩

def remotePart : Part := ⟨0x100_0008_0040, Place.lm 1 0x40, 8, [], 0⟩

def waiting : Thread := { th0 with park := some (.home ⟨.waita 5 77, [cxlPart], some 1⟩ 3) }

/-- A request that leaves through bridges that are down, sent at cycle 0. -/
def farPart : Part := ⟨0x2000_0000_0000, Place.hbm 0 0x30_0000_0000, 8, [], 0⟩

def remoteReq (p : Part) : Req := ⟨.load 5 true, [p], none⟩

/-- The thread of slot 0, parked since cycle 0, at cycle `now`. -/
def parkedSince (p : Park) (now : Nat) : State := { on { th0 with park := some p, lastIssue := some 0 } with now := now }

/-- The WAITA at scope .sy; two loads of one word of core 1, the second of which waits behind the first. -/
def waitingSy : Thread := { th0 with park := some (.home ⟨.waita 5 77, [cxlPart], some 8⟩ 3) }

def second : Thread := { th0 with park := some (.remote (remoteReq remotePart)) }

def onBehind : State := { on second with arrived := [(2, 0)], slots := [(0, .busy second), (1, .busy { second with uid := 2 })] }

theorem test_met_CoreEventsComplete_more :
    (met [decide ((NatMap.get (on (walking false)).asroot 0 (false, 0)).1 = false), decide (missesOf (on (walking false)) 0 = [(0, 0, 0x1000_0000)]),
      decide (cachedTrans (on (walking false)) 0 0 0x2000_0000_0010 false = none),
      (onBehind.arrive second (remoteReq remotePart)).behind second (remoteReq remotePart), deliveredTo onBehind 0 second (remoteReq remotePart),
      decide (badPart (Claims.atHome (on second) second (remoteReq remotePart)) second (remoteReq remotePart) = none),
      reachable (Claims.atHome (on second) second (remoteReq remotePart)) remotePart.loc,
      decide (((parkedSince (.access ⟨.load 5 true, [cxlPart], none⟩) 800000).threadIn 0 0).map (·.lastIssue) = some (some 0)),
      decide ((0 : Nat) + 800000 ≤ 800000 ∧ 799999 < (0 : Nat) + 800000),
      decide (({ on waitingSy with slots := [(0, .busy waitingSy)] } : State).residents = [(0, waitingSy)]),
      decide (cxlPart.loc / 64 ∈ State.touchedUnits (Place.cxl 0 0x40) 8),
      decide (wordOf (ownView ((on waitingSy).write (Place.cxl 0 0x40) (toBytes 8 77)) waitingSy cxlPart.loc 8) = 77),
      decide (wordOf (ownView ((on waitingSy).write (Place.cxl 0 0x40) (toBytes 8 78)) waitingSy cxlPart.loc 8) ≠ 77),
      !((on waitingSy).write (Place.cxl 0 0x40) (toBytes 8 78)).poisonIn cxlPart.loc 8,
      (({ on waitingSy with poisoned := [cxlPart.loc / 64] } : State).write (Place.cxl 0 0x40) (toBytes 8 78)).poisonIn cxlPart.loc 8,
      decide (th0.pair = false)]) = true := by decide +kernel

theorem test_met_CoreEventsComplete :
    (met [!walkServed (on th0) 0, decide (missesOf (tables away (on (walking false))) 0 = [(0, 0, 0x1000_0000)]),
      decide (missesOf (tables resident (on (walking true))) 0 = [(0, 0, 0x1000_0000)]),
      decide (cachedTrans (tables resident (on (walking true))) 0 0 0x2000_0000_0010 true = none),
      match walk (tables resident (on (walking true))) 0 0x2000_0000_0010 ⟨false, true, false⟩ with
      | .page tr => tr.covers 0 0x2000_0000_0010 && Pte.wr tr.leaf | _ => false,
      match walk (tables readOnly (on (walking true))) 0 0x2000_0000_0010 ⟨false, true, false⟩ with | .fault _ => true | _ => false,
      match walk (tables away (on (walking false))) 0 0x2000_0000_0010 ⟨true, false, false⟩ with | .wait .. => true | _ => false,
      match walk { tables resident (on (walking false)) with poisoned := [Place.hbm 0 0x20_0000 / 64 + walkIndex 0x2000_0000_0000 1 / 8] } 0 0x2000_0000_0010
        ⟨true, false, false⟩ with | .poisoned => true | _ => false,
      decide (Place.tier remotePart.loc = .localMem ∧ Place.core remotePart.loc = 1), reachable (on th0) remotePart.loc,
      deliveredTo (on th0) 0 th0 (remoteReq remotePart), !deliveredTo (on th0) 0 th0 (remoteReq { remotePart with loc := Place.lm 128 0x40 }),
      decide (badPart (on th0) th0 (remoteReq remotePart) = none),
      windowAdmits (0xE800_1FFF_0000_0000 : Word) 1 0 0x40 8 true false, ((on th0).core 1).lmwin.all (fun w => !windowAdmits w 1 0 0x40 8 true false),
      !(on th0).poisonIn remotePart.loc 8, reachable (on th0) farPart.loc,
      decide ((Park.access (remoteReq farPart)).cutOff (parkedSince (.access (remoteReq farPart)) 800000) 0
        { th0 with park := some (.access (remoteReq farPart)), lastIssue := some 0 } ≠ []),
      decide ((Park.access (loadAt frame64)).cutOff (parkedSince (.access (loadAt frame64)) 800000) 0
        { th0 with park := some (.access (loadAt frame64)), lastIssue := some 0 } = []),
      decide ((Park.push 2 push0 0 0).cutOff (parkedSince (.push 2 push0 0 0) 800000) 0 { th0 with park := some (.push 2 push0 0 0), lastIssue := some 0 } ≠ []),
      decide (toFar.cutOff (parkedSince toFar 800000) 0 { th0 with park := some toFar, lastIssue := some 0 } ≠ []),
      decide (((parkedSince (.access (remoteReq farPart)) 800000).threadIn 0 0).map (·.lastIssue) = some (some 0)),
      decide (Place.tier cxlPart.loc = .cxl),
      decide (((on waiting).writeWord cxlPart.loc 77).word cxlPart.loc = 77), decide (((on waiting).writeWord cxlPart.loc 78).word cxlPart.loc ≠ 77),
      !((on waiting).writeWord cxlPart.loc 78).poisonIn cxlPart.loc 8, { on waiting with poisoned := [cxlPart.loc / 64] }.poisonIn cxlPart.loc 8,
      decide (th0.keeps 5), (List.range 16).all (fun n => decide (n = 0) || decide ((on th0).threadIn 0 n = none)),
      decide (((on th0).core 0).asleep = 0 ∧ ((on th0).core 0).maxd ≠ 0 ∧ ((on th0).core 0).products = []),
      decide ({ th0 with park := some .compare, pair := false }.trailFrom = none),
      decide (th0.slpreq ≠ 0 ∧ 5 + 2 ^ ((on th0).core 0).delay.toNat ≤ 21), decide (State.reset.residents = [])]) = true := by decide +kernel

/-- A redundant pair in slots 0 and 1, the trailing thread that many issues behind and ready at cycle `at'`, at cycle 10. -/
def pairing (lag : List (Bool × Nat)) (at' : Nat) : State :=
  { on th0 with
    now := 10, agenda := [.issue 0]
    slots := [(0, .busy { th0 with pair := true, readyAt := 1000, park := if lag = [] then some .compare else none, trail := ⟨lag, at', 0, 0⟩ }),
      (1, .trailing 0)] }

/-- Core 0's turn is the trailing thread's, with that list of issues behind. -/
def trailsB (lag : List (Bool × Nat)) : Bool :=
  issues (pairing lag 0) 0 && decide (issuable (pairing lag 0) = some 0 ∧ (pairing lag 0).stopped = false) &&
    match pickSlot { pairing lag 0 with agenda := [] } 0 10 (issueOrder ((pairing lag 0).core 0).lastSlot) { pairing lag 0 with agenda := [] } with
    | (some (n, t), acc) => decide (NatMap.get acc.slots n .empty = .trailing 0 ∧ t.trail.lag = lag)
    | _ => false

theorem test_met_CoreEventsComplete_pairs :
    (met [trailsB [(true, 0)], trailsB [(false, 1), (true, 0)], trailsB [],
      issues { pairing [] 0 with agenda := [] } 0, decide (issuable { pairing [] 0 with agenda := [] } = some 0),
      [Turn.mismatch 0, .upset 0 false 31, .upset 0 true 15, .repaired 0].all (fun x => decide (issuable { pairing [] 1000 with agenda := [x] } = none ∧
        overdue { pairing [] 1000 with agenda := [x] } = none ∧ { pairing [] 1000 with agenda := [x] }.stopped = false)),
      ((pairing [] 1000).threadIn 0 0).any (fun t => decide (t.pair = true ∧ t.park = some .compare ∧ t.trail.lag = []))]) = true := by
  decide +kernel

def link0 (state : BitVec 2) (railBad : BitVec 5) (spare : Nat) : LinkState :=
  { LinkState.reset 0 with state := state, railBad := railBad, spares := List.replicate 5 spare, expect := 7, lastAck := 5, partFlits := 1 }

/-- Module 0 of a pod of three, its links up, the spare ones wired, core 5 open to other modules. -/
def onPod : State :=
  ((List.range 30).foldl (fun (s : State) n => s.setLink n { s.link n with state := 2 })
    { State.reset with pod := [0, 2, 3], spareWires := [(12, 2), (13, 3), (14, 3), (15, 2)] }).modCore 5 fun c =>
      { c with lmwin := [0xE800_1FFF_0000_0000, 0, 0, 0] }

/-- A store of 128 bytes to core 5's memory by core 2 of module 2; held on the near I/O die, `flits` of its flits across bridge 10. -/
def cargo0 : Cargo := .ask ⟨2050, 0, false⟩ (Place.lm 5 64) (.store (List.replicate 128 7))

def passing0 (loc link flits : Nat) : Inbound := ⟨⟨2050, 0, false⟩, loc, .store (List.replicate 128 7), 0, 8, link, flits, 0, none⟩

theorem test_met_LinksDeliverOrGoDown_packets :
    (met [decide (cargoPayload cargo0 = 128), decide (Claims.flits 29 128 = 1 ∧ Claims.flits 10 128 = 3 ∧ Claims.flits 29 4096 = 17),
      decide ((onPod.link 29).begun = none ∧ ({ onPod.link 29 with begun := some (.other 4096), partFlits := 15 } : LinkState).begun = some (.other 4096)),
      decide (nodeOf onPod (Place.lm 5 64) ≠ 8 + 29 % 2), [5, 6].all (fun c => let x := passing0 (Place.lm c 64) 10 2
        decide (nextLink { onPod with inbound := [x] } x.node x.dest = some 10) && decide (acrossBridge 10 x.node = some x.dest) &&
          decide (x.link = 10 ∧ x.order = none ∧ Claims.flits 10 128 ≤ x.flits + 1) && reachable { onPod with inbound := [x] } x.loc &&
          decide (foreignAdmits { onPod with inbound := [x] } x.who x.loc x.op = decide (c = 5))),
      decide ((passing0 (Place.lm 5 64) 10 1).flits + 1 < Claims.flits 10 128), decide (onPod.stores = [] ∧ onPod.residents = [])]) = true := by
  decide +kernel

theorem test_met_LinksDeliverOrGoDown :
    (met [decide ((State.reset.setLink 29 (link0 2 0 1)).link 29 = link0 2 0 1), decide (Claims.badParts (link0 2 0 1) 0 = 0),
      decide (State.reset.residents = [] ∧ (link0 2 0 1).ahead = []), decide (((9 : BitVec 12) - (link0 2 0 1).expect).toNat < 0x800),
      decide (0x800 ≤ ((6 : BitVec 12) - (link0 2 0 1).expect).toNat), foreignAdmits onPod ⟨2050, 0, false⟩ (Place.lm 5 64) (.store [1, 2, 3]),
      decide (Claims.badParts (link0 3 4 1) 4 = 1), decide (2 ≤ Claims.badParts (link0 3 4 1) 1), decide ((link0 1 0 1).state.toNat < 2),
      decide (replayCount (link0 2 0 1) 6 < 16), decide (16 ≤ replayCount { link0 2 0 1 with replays := [(7, 16)], lastAck := 6 } 7),
      !alreadyAccepted (link0 2 0 1) 7, alreadyAccepted (link0 2 0 1) 6, decide ((link0 1 0 0).state ≠ 0),
      !isSpare onPod 0, isSpare onPod 12, decide (partnerOf onPod 12 = partnerOf onPod 0), (onPod.link 26).isUp, decide (12 ∉ onPod.inService),
      decide (39 < 5 * 8 ∧ (link0 1 0 0).spares.length = 5), decide ((link0 1 0 0).spares.getD (39 / 8) 0 = 0), decide ((link0 1 0 1).spares.getD (319 / 64) 0 ≠ 0)])
      = true := by decide +kernel

/-- The machine with die 0's harrow on, a lane of HBM channel 5 of stack 1 due, another of channel 0 of stack 0 that has failed twice
in more than 2^20 transfers; a thread that reads from channel 0. -/
def onHbm : State := ((on (loading0 (Place.hbm 0 0))).setChannel 37 { Channel.reset with due := [(63, 0x40)], spares := 1 }).setChannel 0
  { Channel.reset with failures := [(3, (2, 0x40))], spares := 1, transfers := 2 ^ 20 }

/-- A die's error log on, its array log at record 1023. -/
def onLog : State := { on th0 with slots := [] }.setDie 0 { Die.reset with elogBase := 3, elogEn := true, arrayRecords := 1023 }

theorem test_met_HbmCorrectsOrPoisons :
    (met [decide (lineReader State.reset (Place.hbm 0 0 / 64) none = none ∧ State.reset.copies = [] ∧ State.reset.modNum < 8 ∧ State.reset.inbound = []),
      !State.reset.poisonIn (Place.hbm 0 0) 1, decide (onLog.inbound = []), (List.range 8).all (fun d => !(onHbm.die d).elogEn), decide (onHbm.dies = []), decide (0x17F_FFFF_FFC0 < 0x180_0000_0000),
      (List.range 4).all (fun i => ([[63], [0], [1, 2], [3]].getD i []).any fun l => decide (l < 64)), decide (([[63], []] : List (List Nat)).getD 1 [] = []),
      (lineReader onHbm (Place.hbm 0 0 / 64) (some 0)).isSome, decide (Claims.channelOf 0 = 0),
      decide (NatMap.get (onHbm.channel 0).failures 3 (0, 0) = (2, 0x40) ∧ (onHbm.channel 0).due = [] ∧ (onHbm.channel 0).spares ≠ 0),
      decide (2 ^ 20 ≤ (onHbm.channel 0).transfers ∧ (onHbm.channel 37).transfers < 2 ^ 20),
      decide ((onHbm.channel (1 * 32 + 5)).due = [(63, 0x40)] ∧ (onHbm.channel (1 * 32 + 5)).spares = 1), decide (8191 / 1024 ≠ 0 ∧ 1023 / 1024 = onHbm.modNum),
      onHbm.inPod onHbm.modNum, (onHbm.die (State.dieOf 1023)).harrowEn, decide (onLog.residents = [] ∧ onLog.modNum < 8),
      decide ((onLog.die 0).arrayRecords = 1023), reachable onLog (Place.hbm 0 (3 * 2 ^ 16))]) = true := by decide +kernel

/-! ### Bring-up, the host, rakes, proxies, every step -/

def plan0 (copyA copyB : Bool) (mhlFails : Nat) : State := { State.reset with boot := { BootPlan.reset with copyA := (copyA, 3), copyB := (copyB, 2), mhlFails := mhlFails } }

/-- Copy B alone verifies, with a configuration of its own, and fabric link 0 does not train; a spare to its partner is wired. -/
def planB (down : List Nat) : State := { State.reset with
  pod := [0, 2, 3], spareWires := [(12, 2), (13, 3), (14, 3), (15, 2)]
  boot := { BootPlan.reset with copyA := (false, 3), copyB := (true, 2), decodersB := [⟨0, 2 ^ 40, 1⟩], down := down } }

/-- Bring-up of that plan begins. -/
def bringing (s : State) : State := startBoot (resetKeep s)

/-- What the bring-up clauses ask of every plan. -/
def beginsB (s : State) : Bool :=
  decide (s.images = [] ∧ s.fusedMin = 0 ∧ s.boot.hbmFails = false ∧ s.boot.dieFails = false ∧ s.boot.mhlFails = 0 ∧ s.boot.made = [] ∧
    s.boot.treeFails = false ∧ s.topleft ≠ 0 ∧ s.status = 1 ∧ s.booterr = 0 ∧ s.booting = 1 ∧ s.mhl = false ∧ s.ready = false ∧
    s.links = [] ∧ s.inService = []) && decide ((LinkState.reset 0).state = 0)

theorem test_met_BringUpAndPower_copies :
    (met [beginsB (bringing (plan0 true true 0)), decide ((bringing (plan0 true true 0)).boot.copyA.1 = true ∧ (bringing (plan0 true true 0)).boot.down = []),
      [[], [14]].all (fun down => beginsB (bringing (planB down)) && decide ((bringing (planB down)).boot.copyA.1 = false ∧
        (bringing (planB down)).boot.copyB.1 = true ∧ (bringing (planB down)).boot.down = down)),
      !isSpare (bringing (planB [14])) 0, isSpare (bringing (planB [14])) 12,
      decide (12 % 2 = 0 ∧ partnerOf (bringing (planB [14])) 12 = partnerOf (bringing (planB [14])) 0),
      decide ((plan0 true true 0).boot.copyA.2.toNat < 4 ∧ (plan0 true true 0).boot.copyB.2.toNat < 4 ∧ (plan0 true true 0).boot.mhlFails = 0),
      decide ((bringing { plan0 true true 0 with fusedMin := 4 }).fusedMin.toNat = 4 ∧ (bringing { plan0 true true 0 with fusedMin := 4 }).booting = 1),
      (let s : State := { bringing (plan0 true true 0) with agenda := [.boot] }
       decide (overdue s = none ∧ s.stopped = false ∧ issuable s = none))]) = true := by decide +kernel

theorem test_met_BringUpAndPower :
    (met [decide ((bringing (plan0 false false 0)).boot.copyA.1 = false ∧ (bringing (plan0 false false 0)).boot.copyB.1 = false ∧
        (bringing (plan0 false false 0)).boot.mhlFails = 0 ∧ (bringing (plan0 false false 0)).booting = 1),
      decide ({ on th0 with mhl := true }.hostId = none), decide (3 ≤ ({ on th0 with status := 3, mhl := false } : State).status.toNat),
      decide ((on th0).mhlTried + 800000000 ≤ ({ on th0 with now := 800000000 } : State).now ∧ (on th0).now < (on th0).mhlTried + 800000000),
      decide ((on th0).boot.mhlFails = 0 ∧ (plan0 true true 2).boot.mhlFails ≠ 0),
      !(on th0).betweenHints, (on { th0 with hints := [⟨0, 1⟩] }).betweenHints,
      decide ((on th0).snap = false ∧ (on th0).snapAt ≠ some (on th0).now), decide ({ on th0 with snap := true, snapAt := some 3, now := 4 }.snapAt ≠ some 4),
      decide ({ on th0 with snapAt := some 4, now := 4 }.snapAt = some 4), decide (7 < 8), decide ((on th0).excessSince = none),
      decide (1599999 < 0 + 1600000 ∧ 0 + 1600000 ≤ 1600000 ∧ (on th0).powerSkip ≠ 7)]) = true := by decide +kernel

/-- A request submitted with these bytes; the machine up, its host link too. -/
def asked (l : List Byte) (s : State) : State :=
  { s.write (Place.control 0x1000) (l ++ List.replicate (64 - l.length) 0) with mbxGo := true, mhl := true, lowerLeft := 44, fwVersion := 9 }

/-- `Claims.Asked`, evaluated. -/
def askedB (s : State) (ty i : Nat) : Bool :=
  s.mbxGo && decide (reqField s 0 8 = ty) && (List.range 64).all fun j => decide (j < i) || decide (s.mem.byte (reqPlace j) = 0)

def head (ty : Nat) : List Byte := toBytes 8 ty

def onSluice (n : Nat) : State := ({ on th0 with mhl := true, ready := true }.setJob 5 { Job.free with live := true, count := 1 }).setSluice 63
  { Sluice.reset with en := true, queue := List.replicate n ⟨7, 5, 0⟩ }

def item5 : List Byte := [7, 0, 0, 0, 5, 0, 0, 0] ++ List.replicate 24 9

theorem test_met_HostRequestsComplete :
    (met [decide ((asked [] (on th0)).mhl = true ∧ (asked [] (on th0)).hostId = none ∧ (asked [] (on th0)).status = 2),
      decide (0x1000 ≤ 0x1FFF ∧ 0x1FFF + 1 ≤ 0x2000), decide (0x17F_FFFF_FFC0 + 64 ≤ 0x180_0000_0000),
      decide (0x3F_0020 / 0x1_0000 = 63 ∧ 0x3F_0020 % 32 = 0 ∧ item5.length = 32), ((onSluice 63).sluice 63).en, jobLive (onSluice 63) 5,
      decide ((itemOf (BitVec.ofNat 256 (ofBytes item5))).cls = 0 ∧ (itemOf (BitVec.ofNat 256 (ofBytes item5))).job = 5),
      decide (((onSluice 63).job 5).count + 1 < 2 ^ 40), decide (((onSluice 63).sluice 63).queue.length < 64), decide (64 ≤ ((onSluice 64).sluice 63).queue.length),
      !jobLive (on th0) 5, decide (0x3F_FFFF < 0x40_0000), (doPush ((onSluice 1).setWl 63 { Worklist.reset with en := true }) ⟨63, ⟨7, 5, 0⟩, .ioDie 0, true, false⟩).1.isSome,
      askedB (asked (head 1 ++ List.replicate 32 9) (on th0)) 1 40, decide ((asked [] (on th0)).topleft ≠ 0 ∧ 1 < (asked [] (on th0)).lowerLeft),
      askedB (asked (head 2 ++ toBytes 4 9) (on th0)) 2 12, decide (reqField (asked (head 2 ++ toBytes 4 9) (on th0)) 8 4 ≤ 9),
      askedB (asked (head 3) (on th0)) 3 8, !(asked (head 3) (on th0)).betweenHints, (asked (head 3) (on { th0 with hints := [⟨0, 1⟩] })).betweenHints,
      decide ((asked (head 3) (on th0)).snapAt ≠ some (asked (head 3) (on th0)).now), askedB (asked (head 4 ++ [0xFF, 3, 1]) (on th0)) 4 11,
      decide (reqField (asked (head 4 ++ [0xFF, 3, 1]) (on th0)) 8 2 = 1023 ∧ reqField (asked (head 4 ++ [0xFF, 3, 1]) (on th0)) 10 1 < 2)]) = true := by
  decide +kernel

def halted : Thread := { th0 with halted := true }

theorem test_met_HostRequestsComplete_more :
    (met [askedB (asked (head 5) (on halted)) 5 11, decide ((asked (head 5) (on halted)).threadIn 0 0 = some halted),
      askedB (asked (head 6 ++ [0xFF, 3, 1, 0, 1, 0, 0, 0]) (on th0)) 6 16, decide (((on th0).core 1023).injection = none),
      decide (reqField (asked (head 6 ++ [0xFF, 3, 1, 0, 1, 0, 0, 0]) (on th0)) 10 2 = 1 ∧ reqField (asked (head 6 ++ [0xFF, 3, 1, 0, 1, 0, 0, 0]) (on th0)) 12 4 = 1),
      askedB (asked (head 7 ++ toBytes 4 64 ++ toBytes 4 3 ++ [9, 8, 7]) (on th0)) 7 19,
      decide (reqField (asked (head 7 ++ toBytes 4 64 ++ toBytes 4 3 ++ [9, 8, 7]) (on th0)) 8 4 % 64 = 0), askedB (asked (head 8 ++ [2] ++ List.replicate 7 0) (on th0)) 8 16,
      decide (reqField (asked (head 8 ++ [2] ++ List.replicate 7 0) (on th0)) 8 1 = 2), askedB (asked (head 4) { on th0 with status := 3 }) 4 64,
      askedB (asked (head 9) (on th0)) 9 64, askedB (asked [] (on th0)) 0 64]) = true := by decide +kernel

/-- An entry of a command ring: sequence number `seq`, worklist 63 of module `m`, the item of job 5. -/
def ringEntry (seq m : Nat) : List Byte := toBytes 4 seq ++ toBytes 2 (64 * m + 63) ++ [0, 0] ++ item5 ++ List.replicate 24 0

/-- Ring 15, enabled, of two entries, at 0x2000_0000_0000: its tail, and its first entry. -/
def onRing (tail : Nat) (entry : List Byte) : State :=
  let s := { (onSluice 0).setWl 63 { Worklist.reset with en := true } with asroot := (tables resident (onSluice 0)).asroot, mem := (tables resident (onSluice 0)).mem }
  ((s.write (ringDescriptor 15) (toBytes 8 0x2000_0000_0000 ++ [1, 1])).write (Place.hbm 0 0x80_0000) (toBytes 4 tail)).write (Place.hbm 0 0x80_0080) entry

/-- The tail that the intake thread reads there, and the entry at the head; its job counted, the item's push linearises. -/
def ringReads (s : State) : Option Nat := (ringRead s (ringBaseOf s 15) 4).map fun x => ofBytes x.1

def ringHeadReads (s : State) : Option (List Byte) := (ringRead s (ringBaseOf s 15 + 128) 64).map (·.1)

def ringPushes (s : State) : Bool :=
  match ringRead s (ringBaseOf s 15 + 128) 64 with
  | some (_, s1) => jobLive s1 5 && (s1.wl 63).en && decide ((s1.job 5).count + 1 < 2 ^ 40) &&
    (makePush (s1.setJob 5 { s1.job 5 with count := (s1.job 5).count + 1 }) 0 0
      ⟨63, itemOf (BitVec.ofNat 256 (ofBytes item5)), .thread 0, true, false⟩).1.isSome
  | none => false

/-- The ring's push parked since cycle 0, its job held behind job 8 with no room; worklist 63's time limit 1,024 cycles. -/
def ringWaits (now : Nat) (full : Bool) : State :=
  let s := (onRing 1 []).setWl 63 { Worklist.reset with en := true, tout := 0 }
  let s1 := s.setRing 15 ⟨0, 1, some (0, ringPush0, 0), false⟩
  { if full then s1.setJob 5 { s1.job 5 with pred := some 8 } else s1 with now := now }
where
  ringPush0 : Push := ⟨63, ⟨7, 5, 0⟩, .thread 0, true, false⟩

theorem test_met_HostRequestsComplete_parked :
    (met [decide ((ringWaits 0 true).ready = true ∧ (ringWaits 0 true).stopped = false), (ringEntries (ringWaits 0 true) 15).isSome,
      decide ((ringWaits 0 true).ring 15 = ⟨0, 1, some (0, ringWaits.ringPush0, 0), false⟩), (makePush (ringWaits 0 false) 0 0 ringWaits.ringPush0).1.isSome,
      (makePush (ringWaits 0 true) 0 0 ringWaits.ringPush0).1.isNone, decide (ringDeadline (ringWaits 1024 true) 0 ringWaits.ringPush0 0 = some 1024),
      decide (ringDeadline (ringWaits 1023 true) 0 ringWaits.ringPush0 0 = some 1024),
      (let s := onRing 1 []
       blockWalk (s.setRing 15 { s.ring 15 with head := 1, pushing := none }) 0 (ringBaseOf s 15 + 64) true).isSome,
      decide (blockWalk { onRing 1 [] with asroot := [] } 0 (ringBaseOf (onRing 1 []) 15) true = none)]) = true := by decide +kernel

theorem test_met_HostRequestsComplete_rings :
    (met [decide ((onRing 0 []).ready = true ∧ (onRing 0 []).stopped = false), decide ((onRing 0 []).ring 15 = ⟨0, 0, none, false⟩),
      !((onSluice 0).mem.byte (ringDescriptor 15 + 9)).getLsbD 0, ((onRing 0 []).mem.byte (ringDescriptor 15 + 9)).getLsbD 0,
      decide (((onRing 0 []).mem.byte (ringDescriptor 15 + 8)).toNat = 1), decide (ringReads (onRing 0 []) = some 0), decide (ringReads (onRing 2 []) = some 2),
      decide (ringReads (onRing 3 []) = some 3), decide (ringReads { onRing 0 [] with asroot := [] } = none),
      (blockWalk (onRing 1 []) 0 (ringBaseOf (onRing 1 []) 15 + 64) true).isSome,
      decide (((onRing 1 []).setRing 15 ⟨0, 1, none, false⟩).ring 15 = ⟨0, 1, none, false⟩),
      decide (ringHeadReads (onRing 1 (ringEntry 0 0)) = some (ringEntry 0 0)), decide ((ringEntry 0 0).length = 64),
      decide (ringHeadReads (onRing 1 (ringEntry 9 8)) = some (ringEntry 9 8)), ringPushes (onRing 1 (ringEntry 0 0))]) = true := by decide +kernel

/-- An item of class `cls` for job 5, with placement hint `hint`. -/
def launchItem (cls hint : Nat) : Entry := ⟨⟨1, BitVec.ofNat 32 (5 + hint * 2 ^ 16 + cls * 2 ^ 28), 0⟩, 0, 1, false⟩

def onRake (x : Entry) : State := ((State.reset.setJob 5 { Job.free with live := true, count := 3, ntempl := 1, pod := true }).setWl 4
  { Worklist.reset with en := true, window := [x] }).modDie 0 fun d => { d with rakecfg := 0x10 }

/-- A template of 3 threads of one accumulator that start at 0x200, in the local memory of core 3, and an item handed on that names it. -/
def template : List Byte := toBytes 8 0x200 ++ toBytes 8 0 ++ toBytes 4 0 ++ toBytes 4 0 ++ toBytes 2 3 ++ [0, 1, 0, 0] ++ List.replicate 34 0

def onHandoff (x : Entry) : State := (((onRake x).setJob 5 { (onRake x).job 5 with table := 0x100_0018_1000 }).write (Place.lm 3 0x1000) template).modDie 0 fun d =>
  { d with rakeIn := [(0, 4, x, .found template)] }

/-- An item of class 1 whose template the pop reads: payload bytes 8 to 15 are zero. -/
def entry1 : Entry := launchItem 1 0

theorem test_met_RakesPlaceGangs :
    (met [decide (nextWorklist State.reset (State.reset.die 0) = none), decide (nextWorklist (onRake (launchItem 0 0)) ((onRake (launchItem 0 0)).die 0) = some 4),
      match (popAt ((onRake (launchItem 0 0)).setDie 0 { (onRake (launchItem 0 0)).die 0 with rakeLast := 4 }) 4 0).1 with
      | some (x, _) => decide (hintDie x.item.hint = 0 ∧ x.item.cls = 0) | none => false,
      match (popAt ((onRake (launchItem 1 0xE00)).setDie 0 { (onRake (launchItem 1 0xE00)).die 0 with rakeLast := 4 }) 4 0).1 with
      | some (x, _) => decide (hintDie x.item.hint = 7) | none => false,
      decide ((State.reset.die 0).rakeIn = []), decide (((onHandoff (launchItem 0 0)).die 0).rakeIn = [(0, 4, launchItem 0 0, .found template)]),
      decide (entry1.poison = false ∧ entry1.item.cls ≠ 0 ∧ entry1.item.payloadBytes 10 6 = 0 ∧ entry1.item.payloadBytes 8 2 < ((onHandoff entry1).job 5).ntempl),
      decide ((launchItem 0 0).item.cls = 0),
      (let s := (onHandoff (launchItem 1 0)).setDie 0 { (onHandoff (launchItem 1 0)).die 0 with rakeIn := [] }
       match jobPlace s (s.job 5) (s.job 5).table 64 with
       | .found s2 p => decide (s2.bytes p 64 = template) && templateFormed template && !cannotHold s2 (templateOf template) (launchItem 1 0).item &&
          !unreserved s2 (templateOf template) (launchItem 1 0).item &&
          (match planGang s2 (templateOf template) (placementWalk s2 (templateOf template) (launchItem 1 0).item) with
           | some shares => (placeGang s2 (templateOf template) 4 (launchItem 1 0).item 0 shares).isSome
           | none => false)
       | _ => false),
      decide ((onRake (launchItem 0 0)).noteEn = false ∧ 2 ≤ ((onRake (launchItem 0 0)).job 5).count)]) = true := by decide +kernel

/-- An image of 64 bytes in core 3's memory that a gang of job 5 loads. -/
def loading (image : Word) : Gang := { gang0 [] with job := 5, image := image, len := 64, loads := [5] }

theorem test_met_RakesPlaceGangs_images :
    (met [match jobPlace (onHandoff entry1) ((onHandoff entry1).job 5) 0x7_FFC0 64 with | .bad _ => true | _ => false,
decide (((onHandoff (launchItem 1 0)).setGang 4 (loading 0x100_0018_1000)).gang? 4 = some (loading 0x100_0018_1000)),
      match readPages ((onHandoff (launchItem 1 0)).job 5) 4 (onHandoff (launchItem 1 0)) 0x100_0018_1000 64 [] with
      | .bytes s1 b => decide (b.length = 64 ∧ s1.residents = [] ∧ s1.inbound = []) | _ => false,
      match readPages ((onHandoff (launchItem 1 0)).job 5) 4 (onHandoff (launchItem 1 0)) 0x8_0000 64 [] with | .bad _ => true | _ => false]) = true := by
  decide +kernel

/-- Items of job 5 that the first forwarding engine holds for worklist 4 of module 2. -/
def onProxy (n now : Nat) (up : Bool) : State :=
  let s := ({ onRake (launchItem 0 0) with now := now, pod := [0, 2] }).modIo 0 fun x => { x with shadows := List.replicate n (2, 4, (launchItem 0 0).item, 50) }
  if up then s.setLink 14 { LinkState.reset 14 with state := 2 } else s

theorem test_met_ProxiesForwardAndFlush :
    (met [decide ((shadowQueue ((onProxy 2 561 true).io 0) 2 4).length = 2), decide (561 < 50 + 512), decide (50 + 512 ≤ 562), pathTo (onProxy 2 562 true) 8 18, pathTo (onProxy 64 60 true) 8 18,
      decide (63 ≤ (shadowQueue ((onProxy 64 60 true).io 0) 2 4).length - 1), decide (shadowQueue ((onProxy 1 801000 false).io 0) 2 4 = [((launchItem 0 0).item, 50)]),
      !pathTo (onProxy 1 562 false) 8 18, !pathTo (onProxy 1 801000 false) 8 18, decide (562 < 50 + 800512 ∧ 50 + 800512 ≤ 801000),
      decide ((itemOf (launchItem 0 0).item.bits).job = 5), jobLive (onRake (launchItem 0 0)) 5, ((onRake (launchItem 0 0)).job 5).pod, ((onRake (launchItem 0 0)).wl 4).en,
      decide (((onRake (launchItem 0 0)).job 5).count + 1 < 2 ^ 40), !((onRake (launchItem 0 0)).wl 63).en, decide ((onRake (launchItem 0 0)).noteEn = false),
      ({ onRake (launchItem 0 0) with pod := [0, 2] } : State).inPod 2, decide (parkedPushes (onRake (launchItem 0 0)) 2 5 = []), !inFlight (onRake (launchItem 0 0)) 2 5,
      (List.range 2).all (fun i => decide (((onRake (launchItem 0 0)).io i).shadows = [])),
      decide (2 ∈ { Job.free with flushing := [2, 3], count := 0 }.flushing ∧ (∃ x ∈ { Job.free with flushing := [2, 3] }.flushing, x ≠ 2))]) = true := by
  decide +kernel

theorem test_met_EveryStepAnswers :
    (met [!Instr.powerGood.isWord, decide ((on th0).thread? = some th0), decide ((on th0).agenda = [])]) = true := by decide +kernel

theorem test_met_StepKeepsMemoryForm :
    (met [(fetching).mem.wf, match step fetching with | .next s' => s'.mem.wf | _ => false]) = true := by decide +kernel

/-! ### Behaviour -/

/-- The worked case of spec/04 (R80, R81, R87): BOUND 1, REPRO 1; pushes of A50, B30, C40, D60, E40, a pop, a push of F35, two pops. -/
def worked (keys : List Nat) (s : State) : State :=
  keys.foldl (fun s k => (enter s 3 ⟨BitVec.ofNat 32 k, 7, 0⟩ (.thread 0) false).2) s

def workedPop (s : State) : Nat × Nat × State :=
  match popAt s 3 0 with
  | (some (x, wab), s1) => (x.item.key.toNat, wab, s1)
  | (none, s1) => (0, 0, s1)

theorem test_worklist_worked_case :
    (let s0 := State.reset.setWl 3 { Worklist.reset with en := true, bound := 1, repro := true }
     let p1 := workedPop (worked [50, 30, 40, 60, 40] s0)
     let p2 := workedPop (worked [35] p1.2.2)
     let p3 := workedPop p2.2.2
     decide ([(p1.1, p1.2.1), (p2.1, p2.2.1), (p3.1, p3.2.1)] = [(30, 0), (40, 1), (35, 0)]) &&
       decide ((p3.2.2.wl 3).window.map (fun y => y.item.key.toNat) = [40, 50]) && decide ((p3.2.2.wl 3).held.map (fun y => y.item.key.toNat) = [60]))
      = true := by decide +kernel

/-- Registers and PC after one instruction: values worked out by hand from R323 to R333. -/
theorem test_scalar_results : (met [
    (after (.addi 5 4 1) ti).any (fun t => decide (t.gVal 5 = 0 ∧ t.pc = 0x104)),            -- -1 + 1 wraps
    (after (.sub 0 1 4) ti).any (fun t => decide (t.gVal 0 = 0)),                            -- g0 discards
    (after (.sra 5 1 2) ti).any (fun t => decide (t.gVal 5 = 0xFFFF_FFFF_FFFF_FFFF)),        -- -2^63 >> 63
    (after (.shl 5 4 3) ti).any (fun t => decide (t.gVal 5 = 0xFFFF_FFFF_FFFF_FFFF)),        -- by 64: by b[5:0] = 0
    (after (.slt 5 1 2) ti).any (fun t => decide (t.gVal 5 = 1)), (after (.sltu 5 1 2) ti).any (fun t => decide (t.gVal 5 = 0)),
    (after (.mulh 5 4 4) ti).any (fun t => decide (t.gVal 5 = 0)),                           -- (-1)(-1) = 1
    (after (.mulhz 5 4 4) ti).any (fun t => decide (t.gVal 5 = 0xFFFF_FFFF_FFFF_FFFE)),      -- (2^64 - 1)^2
    (after (.mulhsz 5 4 4) ti).any (fun t => decide (t.gVal 5 = 0xFFFF_FFFF_FFFF_FFFF)),     -- -(2^64 - 1)
    (after (.clz 5 2) ti).any (fun t => decide (t.gVal 5 = 58)), (after (.ctz 5 3) ti).any (fun t => decide (t.gVal 5 = 6)),
    (after (.andn 5 4 2) ti).any (fun t => decide (t.gVal 5 = 0xFFFF_FFFF_FFFF_FFC0)),
    (after (.sext 5 1 2) ti).any (fun t => decide (t.gVal 5 = 0)), (after (.ldhi 5 1) ti).any (fun t => decide (t.gVal 5 = 0x100_0000)),
    (after (.addpc 5 0xFFFF) ti).any (fun t => decide (t.gVal 5 = 0xFF)),
    (after (.bltu 2 3 0xFFFF) ti).any (fun t => decide (t.pc = 0xFC)), (after (.blt 4 2 2) ti).any (fun t => decide (t.pc = 0x108)),
    (after (.bgeu 2 3 5) ti).any (fun t => decide (t.pc = 0x104)),
    (after (.jalr 3 3) ti).any (fun t => decide (t.pc = 0x40 ∧ t.gVal 3 = 0x104)),           -- the source is the destination
    (after (.div 5 1 4) ti).any (fun t => decide (t.park = some (.divide 5 0x7FFF_FFFF_FFFF_FFFF 0))),
    (after (.rem 5 1 4) ti).any (fun t => decide (t.park = some (.divide 5 0 0)))]) = true := by decide +kernel

/-- HIMM extends the next immediate (R305, R309); TRAP enters at SVEC with its cause 16 (R248, R250, R449). -/
theorem test_hint_and_trap : (met [
    (after (.addi 5 0 1) { ti with hints := [⟨0, 0x800000⟩] }).any (fun t => decide (t.gVal 5 = 0xFFFF_FF80_0000_0001 ∧ t.hints = [])),
    (after (.trap 5) { ti with hints := [⟨1, 0⟩] }).any (fun t => decide (t.epc = 0xFC ∧ t.trapc = 257)),
    (after (.trap 5) ti).any (fun t => decide (t.epc = 0x100 ∧ t.trapc = 16 ∧ t.trapv = 5 ∧ t.hnd = true ∧ t.sv = true ∧ t.pc = 0))]) = true := by
  decide +kernel

/-- A signed byte load extends; a store writes its lowest byte first; LDC empties its word and STP refuses a full one (R5, R235, R345). -/
theorem test_memory_results : (met [
    (nextOf (exec (.ldb 5 6 7) ((on tm).write 0x7FFFF [0x80]))).any (fun s => (s.threadIn 0 0).any fun t => decide (t.gVal 5 = 0xFFFF_FFFF_FFFF_FF80)),
    (nextOf (exec (.ldbz 5 6 7) ((on tm).write 0x7FFFF [0x80]))).any (fun s => (s.threadIn 0 0).any fun t => decide (t.gVal 5 = 0x80)),
    (nextOf (exec (.sth 6 6 3) (on tm))).any (fun s => decide (s.bytes 0x7FFFD 3 = [0, 0xF8, 0xFF])),
    (nextOf (exec (.ldc 5 1 0 0) (on tf))).any (fun s => !s.full 0x7FFF8 && s.full 0x7FFF0),
    (nextOf (exec (.stp 3 1 0 0) (on tf))).any (fun s => (s.threadIn 0 0).any fun t => t.park.isSome && decide (t.pc = 0x100)),
    (nextOf (exec (.stf 3 1 0 0) (on tf))).any (fun s => decide (s.word 0x7FFF8 = 5))]) = true := by decide +kernel

/-- 1 + 2^-53 rounds to even, or up to 1 + 2^-52; the largest number doubled overflows; f32 1.5 is bf16 0x3FC0 (R201 to R204, R371, R374). -/
theorem test_float_results : (met [
    (after (.fadd 5 1 3 0 1) { tq with g := tq.g.set 3 0x3CA0_0000_0000_0000 }).any (fun t => decide (t.gVal 5 = 0x3FF0_0000_0000_0000)),
    (after (.fadd 5 1 3 3 1) { tq with g := tq.g.set 3 0x3CA0_0000_0000_0000 }).any (fun t => decide (t.gVal 5 = 0x3FF0_0000_0000_0001)),
    (after (.fadd 5 2 2 0 1) tq).any (fun t => decide (t.gVal 5 = 0x7FF0_0000_0000_0000)),
    (after (.fms 5 1 1 1 0 1) tq).any (fun t => decide (t.gVal 5 = 0)), (after (.fclass 5 4 1) tq).any (fun t => decide (t.gVal 5 ≠ 0)),
    (after (.feq 5 1 6 1) tq).any (fun t => decide (t.gVal 5 = 0)), (after (.flt 5 6 1 1) tq).any (fun t => decide (t.gVal 5 = 1))]) = true := by
  decide +kernel

/-- The digest of the three bytes of "abc", as FIPS 180-4 publishes it (R50, R52, R54). -/
theorem test_sha256 : ofBytes (sha256 [0x61, 0x62, 0x63]).reverse =
    0xBA7816BF_8F01CFEA_414140DE_5DAE2223_B00361A3_96177A9C_B410FF61_F20015AD := by decide +kernel

/-- Lanes of 8 bits wrap, saturate under HMOD SAT, and the unmasked ones stay (R367, R375, R376). -/
theorem test_lane_results : (met [
    (after (.vadd 5 1 1 0 0) { tv with v := tv.v.set 1 0x7F }).any (fun t => decide (t.vVal 5 = 0xFE)),
    (after (.vadd 5 1 1 0 0) { tv with v := tv.v.set 1 0x7F, hints := [⟨1, 0x4F7⟩] }).any (fun t => decide (t.vVal 5 = 0x7F)),
    (after (.vadd 5 1 1 1 0) { tv with v := (tv.v.set 1 0x010101).set 5 0x090909 }).any (fun t => decide (t.vVal 5 = 0x020902))]) = true := by decide +kernel

end Sys2Proof.Tests
end

section
/-!
SUPPORT. Messages (R24, R139, R140, R144, R145, R437 to R441): what a wake leaves of mailboxes and registers, what one attempt at
delivery comes to, and how SEND, its later attempts, and the instructions beside it end.
-/
namespace Sys2Proof.Machine

variable {s : State} {t : Thread}

/-! ### What a wake leaves alone -/

/-- A change of a core that keeps its mailbox changes no mailbox. -/
theorem State.mailbox_modCore {f : Core → Core} (hf : ∀ x, (f x).mailbox = x.mailbox) (s : State) (c c' : Nat) :
    ((s.modCore c f).core c').mailbox = (s.core c').mailbox := by
  by_cases h : c' = c
  · subst h; rw [State.core_modCore_same, hf]
  · rw [State.modCore, State.core_setCore_other _ _ _ _ h]

/-- The end of a core's sleep changes that core alone, and of it the sleep alone. -/
theorem State.rouse_cases (s : State) (c : Nat) :
    s.rouse c = s ∨ ∃ n, s.rouse c = s.modCore c fun x => { x with asleep := 0, awakeAt := n } := by
  unfold State.rouse
  split
  · exact .inr ⟨_, rfl⟩
  · exact .inr ⟨_, rfl⟩
  · exact .inl rfl

theorem State.rouse_slots (s : State) (c : Nat) : (s.rouse c).slots = s.slots := by
  obtain h | ⟨n, h⟩ := s.rouse_cases c <;> rw [h]
  rfl

theorem State.rouse_mem (s : State) (c : Nat) : (s.rouse c).mem = s.mem := by
  obtain h | ⟨n, h⟩ := s.rouse_cases c <;> rw [h]
  rfl

theorem State.rouse_mailbox (s : State) (c c' : Nat) : ((s.rouse c).core c').mailbox = (s.core c').mailbox := by
  obtain h | ⟨n, h⟩ := s.rouse_cases c <;> rw [h]
  exact State.mailbox_modCore (f := fun x => { x with asleep := 0, awakeAt := n }) (fun _ => rfl) s c c'

/-- A wake of a slot's thread rouses its core and unparks the thread. -/
theorem State.wake_busy {k : Nat} (h : NatMap.get s.slots k .empty = .busy t) :
    s.wake k = (s.rouse (k / 16)).putSlot k (wakeThread (s.rouse (k / 16)) (k / 16) t) := by
  simp only [State.wake, h]
  rfl

theorem State.wake_mailbox (s : State) (k c : Nat) : ((s.wake k).core c).mailbox = (s.core c).mailbox := by
  unfold State.wake
  split
  · exact s.rouse_mailbox (k / 16) c
  · rfl

theorem State.modSlot_busy {k : Nat} (f : Thread → Thread) (h : NatMap.get s.slots k .empty = .busy t) :
    s.modSlot k f = s.putSlot k (f t) := by
  simp only [State.modSlot, h]
  rfl

theorem State.modSlot_cores (s : State) (k : Nat) (f : Thread → Thread) : (s.modSlot k f).cores = s.cores := by
  unfold State.modSlot
  split <;> rfl

@[simp] theorem State.get_putSlot_same (s : State) (k : Nat) (t : Thread) :
    NatMap.get (s.putSlot k t).slots k .empty = .busy t := by
  rw [State.putSlot_slots, NatMap.get_set_same]

/-! ### Delivery (R144) -/

/-- The WAITMs that a message completes read no mailbox (R439). -/
theorem wakeMail_mailbox (s : State) (core c : Nat) : ((wakeMail s core).core c).mailbox = (s.core c).mailbox := by
  unfold wakeMail
  refine List.foldlRecOn (motive := fun x : State => (x.core c).mailbox = (s.core c).mailbox) _ _ rfl fun x hx e _ => ?_
  split
  · rw [State.wake_mailbox, State.core, State.modSlot_cores]
    exact hx
  · exact hx

theorem mailIn_mailbox (s : State) (c : Nat) (m : BitVec 256) :
    ((mailIn s c m).core c).mailbox = (s.core c).mailbox ++ [m] := by
  rw [mailIn, wakeMail_mailbox, State.core_modCore_same]

theorem deliverMessage_mailbox {m : Message} (h : m.toReg = false) :
    deliverMessage s m =
      if (s.core (sendModule s m.target * 1024 + sendCore m.target)).mailbox.length < 64 then
        some (mailIn s (sendModule s m.target * 1024 + sendCore m.target) m.body)
      else none := by
  simp [deliverMessage, h]

/-- The number of the slot that a message for a register names (R438). -/
def messageSlot (s : State) (m : Message) : Nat :=
  (sendModule s m.target * 1024 + sendCore m.target) * 16 + sendTid m.target

theorem deliverMessage_noThread {m : Message} (h : m.toReg = true)
    (hk : ∀ t, NatMap.get s.slots (messageSlot s m) .empty ≠ .busy t) : deliverMessage s m = none := by
  simp only [deliverMessage, h, if_true]
  split
  · exact absurd ‹_› (hk _)
  · rfl

/-- A message for a register is refused where that is full, and else fills it (R139, R144). -/
theorem deliverMessage_register {m : Message} (h : m.toReg = true)
    (hk : NatMap.get s.slots (messageSlot s m) .empty = .busy t) :
    deliverMessage s m =
      if (if sendKindV m.target then t.vIsFull (sendReg m.target).toNat
          else t.gFull.getLsbD (sendReg m.target).toNat) then none
      else some (wakeRegister (s.putSlot (messageSlot s m)
        (t.takeFill s.now (sendKindV m.target) (sendReg m.target).toNat (m.body.zeroExtend 512))) (messageSlot s m)) := by
  have e (f : Thread → Thread) : s.modSlot (messageSlot s m) f = s.putSlot (messageSlot s m) (f t) := State.modSlot_busy f hk
  unfold messageSlot at hk e ⊢
  cases hv : sendKindV m.target <;> simp [deliverMessage, h, hk, hv, e]

/-- The registers of two threads and their PCs are the same. -/
structure SameFile (u t : Thread) : Prop where
  pc : u.pc = t.pc
  g : u.g = t.g
  gFull : u.gFull = t.gFull
  v : u.v = t.v
  vFull : u.vFull = t.vFull

/-- The wake of a thread whose sources are full leaves memory, and the thread's registers as the fill has left them. -/
theorem wakeRegister_putSlot (s : State) (k : Nat) (t : Thread) :
    (wakeRegister (s.putSlot k t) k).mem = s.mem ∧
      ∃ u, NatMap.get (wakeRegister (s.putSlot k t) k).slots k .empty = .busy u ∧ SameFile u t := by
  have hstay : (s.putSlot k t).mem = s.mem ∧
      ∃ u, NatMap.get (s.putSlot k t).slots k .empty = .busy u ∧ SameFile u t :=
    ⟨rfl, t, State.get_putSlot_same s k t, ⟨rfl, rfl, rfl, rfl, rfl⟩⟩
  simp only [wakeRegister, State.get_putSlot_same]
  split
  · split
    · rw [State.wake_busy (State.get_putSlot_same s k t)]
      exact ⟨State.rouse_mem _ _, _, State.get_putSlot_same _ _ _, ⟨rfl, rfl, rfl, rfl, rfl⟩⟩
    · exact hstay
  · exact hstay

theorem Thread.takeFill_g (t : Thread) (now : Nat) (r : BitVec 5) (b : BitVec 256) :
    SameFile (t.takeFill now false r.toNat (b.zeroExtend 512)) (t.fillG r (b.extractLsb' 0 64)) := by
  have hb : (b.zeroExtend 512).extractLsb' 0 64 = b.extractLsb' 0 64 := by
    ext i hi
    simp only [BitVec.getElem_extractLsb', BitVec.getLsbD_setWidth]
    simp; omega
  have hr : BitVec.ofNat 5 r.toNat = r := by simp
  constructor <;> simp only [Thread.takeFill, Thread.lay, hb, hr] <;> rfl

theorem Thread.takeFill_v (t : Thread) (now r : Nat) (w : VWord) :
    SameFile (t.takeFill now true r w) (t.setV r w) := ⟨rfl, rfl, rfl, rfl, rfl⟩

theorem SameFile.trans {u t x : Thread} (h : SameFile u t) (h' : SameFile t x) : SameFile u x :=
  ⟨h.pc.trans h'.pc, h.g.trans h'.g, h.gFull.trans h'.gFull, h.v.trans h'.v, h.vFull.trans h'.vFull⟩

/-! ### SEND (R438, R245) -/

/-- A SEND outside a region whose checks pass comes to its first attempt. -/
theorem exec_send_outside {i : Instr} {a b : BitVec 5} (hi : i = .send a b ∨ i = .sendR a b) (h : Issues i s t)
    (hr : Readable t [a] [b.toNat]) (ho : t.inRegion = false)
    (hok : sendTargetOk s (decide (i = .sendR a b)) (t.gVal a) = true) :
    exec i s = .next (finish i s t (sendNow s t
      ⟨decide (i = .sendR a b), t.gVal a, (t.vVal b.toNat).extractLsb' 0 256⟩)) := by
  rcases hi with rfl | rfl
  · rw [decide_eq_false (by simp)] at hok ⊢
    rw [exec_send, execSend, sendShape, run_issues _ h.toIssuable, withSources_readable _ hr]
    simp [hok, ho]
  · rw [decide_eq_true rfl] at hok ⊢
    rw [exec_sendR, execSendR, sendShape, run_issues _ h.toIssuable, withSources_readable _ hr]
    simp [hok, ho]

theorem sendNow_away {m : Message} (hb : s.blocked t.uid = false) (hh : sendsHome s s.cur.1 m.target = false) :
    sendNow s t m = .ok (.parked (s.drainOf t.uid) t (.send m 0 (s.drainOf t.uid).now true)) := by
  simp [sendNow, released_free hb, hh]

theorem sendNow_delivered {s1 : State} {m : Message} (hb : s.blocked t.uid = false)
    (hh : sendsHome s s.cur.1 m.target = true) (hm : deliverMessage (s.drainOf t.uid) m = some s1) :
    sendNow s t m = .ok (.next s1 (syncRegs s1 t)) := by
  simp [sendNow, released_free hb, hh, hm]

theorem sendNow_refused {m : Message} (hb : s.blocked t.uid = false) (hh : sendsHome s s.cur.1 m.target = true)
    (hm : deliverMessage (s.drainOf t.uid) m = none) :
    sendNow s t m = .ok (.parked (s.drainOf t.uid) t (.send m 1 ((s.drainOf t.uid).now + 32)
      (decide (retryEntries (s.drainOf t.uid) s.cur.1 < 8)))) := by
  simp [sendNow, released_free hb, hh, hm]

/-! ### Later attempts (R145) -/

/-- The event of an attempt at a SEND that holds an entry of the retry buffer and whose wait is over. -/
theorem exec_sendRetryAttempt_parked {core slot n due : Nat} {m : Message} (ht : s.threadIn core slot = some t)
    (hp : t.park = some (.send m n due true)) (hd : due ≤ s.now) (hb : s.blocked t.uid = false) :
    exec (.sendRetryAttempt core slot) s = .next
      (if (Park.send m n due true).arrived s core t then attemptSend s (core * 16 + slot) t m n else s) := by
  simp [exec_sendRetryAttempt, execSendRetryAttempt, atPark, State.parkedAt, ht, hp, hd, hb]

theorem refused_eq {core slot n : Nat} {m : Message} (hs : slot < 16) :
    refused s (core * 16 + slot) t m n = s.modSlot (core * 16 + slot) fun x =>
      { x with park := some (.send m (n + 1) (s.now + 16 * 2 ^ Nat.min (n + 1) 10)
        (decide (n ≠ 0) || decide (retryEntries (s.putSlot (core * 16 + slot) { t with park := none }) core < 8))) } := by
  rw [refused, show (core * 16 + slot) / 16 = core by omega]

/-! ### WAITM, RECVM, PORTCFG, REMPTY (R439 to R441) -/

theorem exec_waitm_issues (h : Issues .waitm s t) : exec .waitm s =
    .next (if (s.core s.cur.1).mailbox = [] then parkIn s s.curSlot t (.retry .mailbox) else s.putThread t.advance) := by
  rw [exec_waitm, execWaitm, run_issues _ h.toIssuable]
  split
  · rw [finish_park _ h.notLast]
  · rw [finish_next _ _ h.notLast]

theorem retDone_keeps {d : BitVec 5} (w : Word) (h : t.keeps d) : retDone s t d w = .ok (.next s (t.wrote d w)) := by
  simp [retDone, writeG_keeps w _ h]

theorem reserveAll_outside {core n : Nat} (h : t.inRegion = false) : reserveAll s core t n = .ok () := by
  simp [reserveAll, h]

theorem mailRoom_idle {core : Nat} (h : (s.core core).mailPending = []) : mailRoom s core = s := by
  simp [mailRoom, h]

/-- Outside a region the oldest message leaves the mailbox, and nothing waits for its room. -/
theorem takeMail_outside {m : BitVec 256} {rest : List (BitVec 256)} (h : t.inRegion = false)
    (hp : (s.core s.cur.1).mailPending = []) :
    takeMail s t m rest = .ok (s.modCore s.cur.1 fun c => { c with mailbox := rest }, t) := by
  have hroom : mailRoom (s.modCore s.cur.1 fun c => { c with mailbox := rest }) s.cur.1 =
      s.modCore s.cur.1 fun c => { c with mailbox := rest } := mailRoom_idle (by rw [State.core_modCore_same]; exact hp)
  simp [takeMail, logOp, h, hroom]

theorem exec_recvm_empty {d a : BitVec 5} (h : Issues (.recvm d a) s t) (hk : t.keeps a) (ho : t.inRegion = false)
    (he : (s.core s.cur.1).mailbox = []) : exec (.recvm d a) s = completesWith s t a 0 := by
  rw [exec_recvm, execRecvm, run_issues _ h.toIssuable, reserveAll_outside ho, he, finish_retG h.notLast hk]
  rfl

theorem exec_recvm_message {d a : BitVec 5} {m : BitVec 256} {rest : List (BitVec 256)} (h : Issues (.recvm d a) s t)
    (hk : t.keeps a) (ho : t.inRegion = false) (hm : (s.core s.cur.1).mailbox = m :: rest)
    (hp : (s.core s.cur.1).mailPending = []) :
    exec (.recvm d a) s = completesWith (s.modCore s.cur.1 fun c => { c with mailbox := rest })
      (t.setV d.toNat (m.zeroExtend 512)) a (BitVec.ofNat 64 (rest.length + 1)) := by
  rw [exec_recvm, execRecvm, run_issues _ h.toIssuable, reserveAll_outside ho, hm]
  dsimp only
  rw [takeMail_outside ho hp]
  dsimp only
  rw [retDone_keeps (t := t.setV d.toNat (m.zeroExtend 512)) _ hk, finish_next _ _ h.notLast]
  rfl

theorem exec_portcfg_ok {a : BitVec 5} (h : Issues (.portcfg a) s t) (hr : Readable t [a] [])
    (hok : portOk s.cur.1 (t.gVal a) = true) :
    exec (.portcfg a) s = .next (s.putThread ({ t with port := portOf (t.gVal a) } : Thread).advance) := by
  rw [exec_portcfg, execPortcfg, run_issues _ h.toIssuable, withSources_readable _ hr, hok, check_true,
    finish_next _ _ h.notLast]

/-- A register's full bit cleared: that of every other register stays. -/
theorem getLsbD_clear {n : Nat} (x : BitVec n) (d r : Nat) (hr : r < n) :
    (x &&& ~~~(1#n <<< d)).getLsbD r = (x.getLsbD r && decide (r ≠ d)) := by
  by_cases h : r = d
  · subst h; simp [hr]
  · by_cases hlt : r < d
    · simp [h, hlt, hr]
    · have : r - d ≠ 0 := by omega
      simp [h, hlt, hr, this]

/-- REMPTY empties the register that it names, and no other; g0, PIN and POUT lie in no register file. -/
theorem exec_rempty_issues {d : BitVec 5} (h : Issues (.rempty d) s t) :
    ∃ u : Thread, exec (.rempty d) s = .next (s.putThread u.advance) ∧ u.g = t.g ∧
      ∀ r, u.gIsFull r = if r = d ∧ d ≠ 0 ∧ ¬(t.port.en = true ∧ (d = 28 ∨ d = 29)) then false else t.gIsFull r := by
  rw [exec_rempty, execRempty, run_issues _ h.toIssuable]
  by_cases hd : d = 0 ∨ (t.port.en = true ∧ (d = 28 ∨ d = 29))
  · rw [if_pos hd, finish_next _ _ h.notLast]
    refine ⟨t, rfl, rfl, fun r => ?_⟩
    rw [if_neg fun hc => hd.elim hc.2.1 hc.2.2]
  · rw [if_neg hd, finish_next _ _ h.notLast]
    refine ⟨_, rfl, rfl, fun r => ?_⟩
    have hbit := getLsbD_clear t.gFull d.toNat r.toNat r.isLt
    have hne : r.toNat ≠ d.toNat ↔ r ≠ d := by rw [ne_eq, BitVec.toNat_inj]
    by_cases hr : r = d
    · subst hr
      rw [if_pos ⟨rfl, not_or.1 hd⟩]
      simp only [Thread.gIsFull, hbit]
      simpa using hd
    · rw [if_neg fun hc => hr hc.1]
      simp [Thread.gIsFull, hbit, hne.2 hr]

theorem exec_remptyV_issues {d : BitVec 5} (h : Issues (.remptyV d) s t) : exec (.remptyV d) s =
    .next (s.putThread ({ t with vFull := t.vFull &&& ~~~((1 : BitVec 16) <<< d.toNat) } : Thread).advance) := by
  rw [exec_remptyV, execRemptyV, run_issues _ h.toIssuable, finish_next _ _ h.notLast]
  rfl

/-! ### What the parts come to -/

/-- A SEND outside a region: it waits for its thread's earlier stores, delivers at home, and parks where its message is refused
there or goes to another core (R144, R145, R238, R245). -/
theorem exec_send_cases {i : Instr} {a b : BitVec 5} {m : Message} (hi : i = .send a b ∨ i = .sendR a b) (h : Issues i s t)
    (hr : Readable t [a] [b.toNat]) (ho : t.inRegion = false)
    (hok : sendTargetOk s (decide (i = .sendR a b)) (t.gVal a) = true)
    (hm : m = ⟨decide (i = .sendR a b), t.gVal a, (t.vVal b.toNat).extractLsb' 0 256⟩) :
    (s.blocked t.uid = true → exec i s = .next (parkIn s s.curSlot t (.retry .stores))) ∧
    (s.blocked t.uid = false →
      (sendsHome s s.cur.1 (t.gVal a) = true → ∀ s1, deliverMessage (s.drainOf t.uid) m = some s1 →
        exec i s = .next (s1.putThread (syncRegs s1 t).advance)) ∧
      (sendsHome s s.cur.1 (t.gVal a) = true → deliverMessage (s.drainOf t.uid) m = none →
        exec i s = .next (parkIn (s.drainOf t.uid) s.curSlot t (.send m 1 ((s.drainOf t.uid).now + 32)
          (decide (retryEntries (s.drainOf t.uid) s.cur.1 < 8))))) ∧
      (sendsHome s s.cur.1 (t.gVal a) = false →
        exec i s = .next (parkIn (s.drainOf t.uid) s.curSlot t (.send m 0 (s.drainOf t.uid).now true)))) := by
  have e : exec i s = .next (finish i s t (sendNow s t m)) := hm ▸ exec_send_outside hi h hr ho hok
  have htgt : m.target = t.gVal a := by rw [hm]
  rw [e, ← htgt]
  refine ⟨fun hb => ?_, fun hb => ⟨fun hh s1 hd => ?_, fun hh hd => ?_, fun hh => ?_⟩⟩
  · rw [sendNow, released_blocked hb, finish_park _ h.notLast]
  · rw [sendNow_delivered hb hh hd, finish_next _ _ h.notLast]
  · rw [sendNow_refused hb hh hd, finish_parked _ _ _ h.notLast]
  · rw [sendNow_away hb hh, finish_parked _ _ _ h.notLast]

/-- A message for a g register: refused where that is full, and else in the register of its thread (R139, R144). -/
theorem deliverMessage_g {m : Message} (h : m.toReg = true) (hv : sendKindV m.target = false)
    (hk : NatMap.get s.slots (messageSlot s m) .empty = .busy t) :
    (t.gFull.getLsbD (sendReg m.target).toNat = true → deliverMessage s m = none) ∧
    (t.gFull.getLsbD (sendReg m.target).toNat = false → ∃ s1 u, deliverMessage s m = some s1 ∧
      NatMap.get s1.slots (messageSlot s m) .empty = .busy u ∧ s1.mem = s.mem ∧
      SameFile u (t.fillG (sendReg m.target) (m.body.extractLsb' 0 64))) := by
  rw [deliverMessage_register h hk, hv]
  refine ⟨fun hf => by simp [hf], fun hf => ?_⟩
  obtain ⟨hmem, u, hu, hsame⟩ := wakeRegister_putSlot s (messageSlot s m)
    (t.takeFill s.now false (sendReg m.target).toNat (m.body.zeroExtend 512))
  exact ⟨_, u, by simp [hf], hu, hmem, hsame.trans (t.takeFill_g s.now (sendReg m.target) m.body)⟩

/-- A message for a v register, likewise. -/
theorem deliverMessage_v {m : Message} (h : m.toReg = true) (hv : sendKindV m.target = true)
    (hk : NatMap.get s.slots (messageSlot s m) .empty = .busy t) :
    (t.vIsFull (sendReg m.target).toNat = true → deliverMessage s m = none) ∧
    (t.vIsFull (sendReg m.target).toNat = false → ∃ s1 u, deliverMessage s m = some s1 ∧
      NatMap.get s1.slots (messageSlot s m) .empty = .busy u ∧ s1.mem = s.mem ∧
      SameFile u (t.setV (sendReg m.target).toNat (m.body.zeroExtend 512))) := by
  rw [deliverMessage_register h hk, hv]
  refine ⟨fun hf => by simp [hf], fun hf => ?_⟩
  obtain ⟨hmem, u, hu, hsame⟩ := wakeRegister_putSlot s (messageSlot s m)
    (t.takeFill s.now true (sendReg m.target).toNat (m.body.zeroExtend 512))
  exact ⟨_, u, by simp [hf], hu, hmem, hsame.trans (t.takeFill_v s.now _ _)⟩

theorem Thread.fillG_g (t : Thread) (d : BitVec 5) (w : Word) :
    (t.fillG d w).g = if d = 0 then t.g else t.g.set d.toNat w := by
  unfold Thread.fillG
  split <;> rfl

theorem Thread.fillG_gFull (t : Thread) (d : BitVec 5) (w : Word) :
    (t.fillG d w).gFull = if d = 0 then t.gFull else t.gFull ||| (1#32 <<< d.toNat) := by
  unfold Thread.fillG
  split <;> rfl

/-- An attempt at a SEND: it completes where its message is accepted, and where that is refused tries again or traps (R145). -/
theorem exec_sendRetryAttempt_cases {s0 : State} {core slot n due : Nat} {m : Message} (hs : slot < 16)
    (ht : s.threadIn core slot = some t) (hp : t.park = some (.send m n due true)) (hd : due ≤ s.now)
    (hb : s.blocked t.uid = false) (h0 : s0 = s.unload t.uid) :
    ((Park.send m n due true).arrived s core t = false → exec (.sendRetryAttempt core slot) s = .next s) ∧
    ((Park.send m n due true).arrived s core t = true →
      (∀ s1, deliverMessage s0 m = some s1 → exec (.sendRetryAttempt core slot) s =
        .next ((s1.modSlot (core * 16 + slot) Thread.complete).wake (core * 16 + slot))) ∧
      (deliverMessage s0 m = none → n < 63 → exec (.sendRetryAttempt core slot) s = .next (s0.modSlot (core * 16 + slot) fun x =>
        { x with park := some (.send m (n + 1) (s.now + 16 * 2 ^ Nat.min (n + 1) 10) (decide (n ≠ 0) ||
          decide (retryEntries (s0.putSlot (core * 16 + slot) { t with park := none }) core < 8))) })) ∧
      (deliverMessage s0 m = none → 63 ≤ n → exec (.sendRetryAttempt core slot) s =
        .next (takeTrap s0 (core * 16 + slot) t 7 (undeliverable s m)))) := by
  subst h0
  rw [exec_sendRetryAttempt_parked ht hp hd hb]
  refine ⟨fun ha => by rw [ha]; rfl, fun ha => ?_⟩
  rw [if_pos ha]
  refine ⟨fun s1 hm => ?_, fun hm hn => ?_, fun hm hn => ?_⟩
  · simp only [attemptSend, hm, sent]
  · simp only [attemptSend, hm, if_neg (show ¬ 63 ≤ n by omega), refused_eq hs, State.unload_now]
  · simp only [attemptSend, hm, if_pos hn]

end Sys2Proof.Machine

open Sys2Proof Sys2Proof.Machine

/-- Settles O44, by its parts: the first attempt, what an attempt comes to for a mailbox and for a register, the later attempts, and
the instructions beside SEND. -/
theorem messagesComplete : Obligations.MessagesComplete := by
  unfold Obligations.MessagesComplete
  refine ⟨fun i s t a b m hi h hr ho hok hm => ?_, fun s m c hc hm => ?_, fun s m k r hm hr hk => ?_,
    fun s s0 core slot n due t m hs ht hp hd hb h0 => exec_sendRetryAttempt_cases hs ht hp hd hb h0, fun s t => ?_⟩
  case refine_1 =>
    obtain ⟨hblocked, hfree⟩ := exec_send_cases hi h hr ho hok hm
    refine ⟨hblocked, fun hb => ?_⟩
    obtain ⟨hdelivered, hrefused, haway⟩ := hfree hb
    exact ⟨fun hh s1 hd _ => hdelivered hh s1 hd, hrefused, haway⟩
  case refine_2 =>
    rw [deliverMessage_mailbox hm, ← hc]
    exact ⟨fun hroom => ⟨_, if_pos hroom, mailIn_mailbox s c m.body⟩, fun hfull => if_neg (by omega)⟩
  case refine_3 =>
    subst hr hk
    refine ⟨deliverMessage_noThread hm, fun t ht => ⟨fun hv => ?_, fun hv hr => ?_⟩⟩
    · obtain ⟨hfull, hempty⟩ := deliverMessage_g hm hv ht
      refine ⟨hfull, fun hf => ?_⟩
      obtain ⟨s1, u, hd, hu, hmem, hsame⟩ := hempty hf
      exact ⟨s1, u, hd, hu, hmem, by simp [hsame.pc], by simp [hsame.v], by simp [hsame.vFull],
        hsame.g.trans (Thread.fillG_g t _ _), hsame.gFull.trans (Thread.fillG_gFull t _ _)⟩
    · obtain ⟨hfull, hempty⟩ := deliverMessage_v hm hv ht
      refine ⟨hfull, fun hf => ?_⟩
      obtain ⟨s1, u, hd, hu, hmem, hsame⟩ := hempty hf
      have hmod : (sendReg m.target).toNat % 16 = (sendReg m.target).toNat := Nat.mod_eq_of_lt hr
      exact ⟨s1, u, hd, hu, hmem, by simp [hsame.pc], by simp [hsame.g], by simp [hsame.gFull],
        by rw [hsame.v, Thread.setV, hmod], by rw [hsame.vFull, Thread.setV, hmod]⟩
  case refine_4 =>
    refine ⟨fun h => ?_, fun d a h hk ho => ?_, fun a h hr hok => exec_portcfg_ok h hr hok,
      fun d h => exec_rempty_issues h, fun d h => exec_remptyV_issues h⟩
    · rw [exec_waitm_issues h]
      exact ⟨fun hm => by rw [if_neg hm], fun hm => by rw [if_pos hm]⟩
    · exact ⟨exec_recvm_empty h hk ho, fun m rest hm hp => exec_recvm_message h hk ho hm hp⟩

end

section
/-!
SUPPORT. Links (R20 to R27, R30, R31): what the accesses that packets of other modules bring leave alone, how a received flit is
accepted, and what takes a link down, replays it and retrains it.
-/
namespace Sys2Proof.Machine

variable {s : State} {n : Nat}

/-! ### One link of a state -/

theorem NatMap.set_set {α : Type} (m : NatMap α) (k : Nat) (v w : α) :
    NatMap.set (NatMap.set m k v) k w = NatMap.set m k w := by
  induction m with
  | nil => simp [NatMap.set]
  | cons e rest ih =>
    by_cases h1 : k < e.1
    · simp [NatMap.set, h1]
    · by_cases h2 : k = e.1
      · simp [NatMap.set, h2]
      · simp [NatMap.set, h1, h2, ih]

theorem State.setLink_setLink (s : State) (n : Nat) (v w : LinkState) : (s.setLink n v).setLink n w = s.setLink n w := by
  simp only [State.setLink, NatMap.set_set]

@[simp] theorem State.link_setLink_same (s : State) (n : Nat) (v : LinkState) : (s.setLink n v).link n = v := by
  simp [State.link, State.setLink]

theorem State.link_setLink_other (s : State) (v : LinkState) {n k : Nat} (h : k ≠ n) : (s.setLink n v).link k = s.link k := by
  simp [State.link, State.setLink, NatMap.get_set_other _ _ _ _ _ h]

theorem State.link_of_links {s' : State} (h : s'.links = s.links) (n : Nat) : s'.link n = s.link n := by
  rw [State.link, h, State.link]

/-! ### A module without threads and pending stores -/

/-- No thread is resident and no store is pending: what a packet of another module does here wakes no thread. -/
structure State.Quiet (s : State) : Prop where
  residents : s.residents = []
  stores : s.stores = []

/-- The links, the slots and the pending stores are as they were. -/
structure State.SameLinks (s' s : State) : Prop where
  links : s'.links = s.links
  slots : s'.slots = s.slots
  stores : s'.stores = s.stores

theorem State.SameLinks.refl (s : State) : s.SameLinks s := ⟨rfl, rfl, rfl⟩

theorem State.SameLinks.trans {a b c : State} (h : a.SameLinks b) (h' : b.SameLinks c) : a.SameLinks c :=
  ⟨h.links.trans h'.links, h.slots.trans h'.slots, h.stores.trans h'.stores⟩

theorem State.SameLinks.residents {s' : State} (h : s'.SameLinks s) (hr : s.residents = []) : s'.residents = [] := by
  rw [State.residents, h.slots]; exact hr

theorem State.SameLinks.quiet {s' : State} (h : s'.SameLinks s) (hq : s.Quiet) : s'.Quiet :=
  ⟨h.residents hq.residents, h.stores.trans hq.stores⟩

theorem State.waiters_none (h : s.residents = []) (f : Thread → Option Nat) : s.waiters f = [] := by
  simp [State.waiters, h]

theorem State.slotOf_none (h : s.residents = []) (uid : Nat) : s.slotOf uid = none := by
  simp [State.slotOf, h]

theorem State.drainTo_quiet (h : s.Quiet) (uid : Nat) (ranges : List (Nat × Nat)) : s.drainTo uid ranges = s := by
  have e : { s with stores := [] } = s := by rw [← h.stores]
  simp [State.drainTo, h.stores, e]

theorem State.drainOf_quiet (h : s.Quiet) (uid : Nat) : s.drainOf uid = s := by
  have e : { s with stores := [] } = s := by rw [← h.stores]
  simp [State.drainOf, State.pendingOf, h.stores, e]

/-- Without resident threads no request has reached a home. -/
theorem serveArrived_noThreads (h : s.residents = []) (r : Req) : serveArrived s r = s := by
  have hsent (x : Nat × Nat) : s.sentBy x = none := by simp [State.sentBy, State.slotOf_none h]
  refine List.foldlRecOn (motive := fun y => y = s) _ _ rfl fun y hy x _ => ?_
  subst hy
  simp only [hsent]

/-! ### What an access of another module leaves alone -/

theorem serveForeign_sameLinks (s : State) (x : Inbound) : (serveForeign s x).SameLinks s := by
  unfold serveForeign
  split <;> exact ⟨rfl, rfl, rfl⟩

/-- Without resident threads only packets of other modules are served at a word. -/
theorem serveLoop_sameLinks (loc : Nat) (fuel : Nat) (h : s.residents = []) : (serveLoop loc fuel s).SameLinks s := by
  induction fuel generalizing s with
  | zero => exact .refl s
  | succ fuel ih =>
    have hforeign (y : Inbound) : (serveLoop loc fuel (serveForeign s y)).SameLinks s :=
      (ih ((serveForeign_sameLinks s y).residents h)).trans (serveForeign_sameLinks s y)
    simp only [serveLoop, State.waiters_none h, List.foldl_nil]
    split
    · split
      · exact .refl s
      · cases foreignWaiter s loc false with
        | none => exact .refl s
        | some y => exact hforeign y.2
    · cases foreignWaiter s loc true with
      | none => exact .refl s
      | some y => exact hforeign y.2

theorem serve_sameLinks (loc : Nat) (h : s.residents = []) : (serve s loc).SameLinks s := by
  have hl := serveLoop_sameLinks loc (s.slots.length + s.inbound.length + 1) h
  simp only [serve, serveWaita, State.waiters_none (hl.residents h), List.foldl_nil]
  exact hl

theorem serveRange_sameLinks (p len : Nat) (h : s.residents = []) : (serveRange s p len).SameLinks s :=
  List.foldlRecOn (motive := fun y : State => y.SameLinks s) _ _ (.refl s) fun _ hy loc _ =>
    (serve_sameLinks loc (hy.residents h)).trans hy

theorem store_sameLinks (p : Nat) (data : List Byte) (h : s.residents = []) : (s.store p data).SameLinks s :=
  (serveRange_sameLinks (s := s.write p data) p data.length h).trans ⟨rfl, rfl, rfl⟩

/-- A word is served after a change that leaves links and slots. -/
theorem serve_changed_links {s' : State} (loc : Nat) (hc : s'.SameLinks s) (h : s.residents = []) :
    (serve s' loc).links = s.links :=
  ((serve_sameLinks loc (hc.residents h)).trans hc).links

/-- Transfers are counted by their channels, and change nothing else (R58). -/
theorem countTransfers_channels (s : State) (p len : Nat) :
    countTransfers s p len = { s with channels := (countTransfers s p len).channels } :=
  List.foldlRecOn (motive := fun y : State => y = { s with channels := y.channels }) _ _ rfl fun y hy u _ => by
    split
    · rw [hy]; rfl
    · exact hy

theorem countRequest_channels (s : State) (r : Req) :
    countRequest s r = { s with channels := (countRequest s r).channels } :=
  List.foldlRecOn (motive := fun y : State => y = { s with channels := y.channels }) _ _ rfl fun y hy x _ => by
    rw [countTransfers_channels, hy]

theorem countRequest_sameLinks (s : State) (r : Req) : (countRequest s r).SameLinks s := by
  rw [countRequest_channels]
  exact ⟨rfl, rfl, rfl⟩

/-- What an access of another module does at its home leaves the links as they are. -/
theorem performCargo_links {t : Thread} {op : CargoOp} {loc : Nat} {s1 : State} {f : Fill} {flags : FlagSet} (h : s.Quiet)
    (hp : performCargo s t (cargoReq op loc) = .ok s1 f flags) : s1.links = s.links := by
  have hdrain := State.drainOf_quiet h t.uid
  have hdrainTo := State.drainTo_quiet h t.uid
  cases op with
  | store bytes =>
    simp only [performCargo, cargoReq] at hp
    split at hp
    · obtain ⟨rfl, -, -⟩ := hp
      exact (store_sameLinks _ _ h.residents).links
    · cases hp
  | load len =>
    simp only [performCargo, cargoReq, perform, State.drainParts, hdrainTo] at hp
    split at hp
    · cases hp
    split at hp <;> cases hp
    rfl
  | bankSet fmt w | bankAdd fmt w =>
    simp only [performCargo, cargoReq, perform] at hp
    split at hp <;> cases hp
    rfl
  | stf w | empty =>
    simp only [performCargo, cargoReq, perform, hdrain] at hp
    split at hp <;> cases hp
    exact serve_changed_links loc ⟨rfl, rfl, rfl⟩ h.residents
  | stp w =>
    simp only [performCargo, cargoReq, perform, hdrain] at hp
    split at hp
    · cases hp
    split at hp <;> cases hp
    exact serve_changed_links loc ⟨rfl, rfl, rfl⟩ h.residents
  | ldc =>
    simp only [performCargo, cargoReq, perform, hdrain] at hp
    split at hp
    · cases hp
    split at hp
    · split at hp <;> cases hp
      exact serve_changed_links loc ⟨rfl, rfl, rfl⟩ h.residents
    · cases hp
  | atomic len code b e =>
    simp only [performCargo, cargoReq, perform, hdrain] at hp
    split at hp
    · cases hp
    split at hp <;> cases hp
    split
    · exact (store_sameLinks _ _ h.residents).links
    · rfl
  | afaddv double v mode enables =>
    simp only [performCargo, cargoReq, perform, hdrain] at hp
    split at hp
    · cases hp
    split at hp
    · cases hp
    split at hp <;> cases hp
    · exact (store_sameLinks _ _ h.residents).links
    · rfl

/-- A packet of another module that has come to its home leaves the links as they are. -/
theorem performInbound_links (x : Inbound) (h : s.Quiet) : (performInbound s x).links = s.links := by
  have hc := countRequest_sameLinks s (cargoReq x.op x.loc)
  simp only [performInbound, serveArrived_noThreads h.residents]
  split
  · split
    · exact (performCargo_links (hc.quiet h) ‹_›).trans hc.links
    · rfl
    · rfl
  · rfl

theorem holdInbound_links (x : Inbound) (h : s.Quiet) : (holdInbound s x).links = s.links := by
  unfold holdInbound
  split
  · exact performInbound_links x h
  · rfl

theorem bringIn_links (c : Cargo) (h : s.Quiet) : (bringIn s n c).links = s.links := by
  cases c with
  | ask a loc op =>
    simp only [bringIn]
    split
    · exact holdInbound_links _ h
    · rfl
  | other len => rfl

/-! ### Accepting a flit (R20, R21, R24) -/

/-- One more flit of the packet that link `n` has begun: the link's own counts change as R24 says, and no other field of it. -/
theorem otherFlit_link (c : Cargo) (had : Nat) (h : s.Quiet) :
    (otherFlit s n c had).link n = { s.link n with
      begun := (Claims.begunAfter (s.link n) n had c).1
      partFlits := (Claims.begunAfter (s.link n) n had c).2.1
      delivered := (Claims.begunAfter (s.link n) n had c).2.2 } := by
  by_cases hlast : flitCount n (cargoPayload c) ≤ had + 1
  · have hb : Claims.begunAfter (s.link n) n had c = (none, 0, (s.link n).delivered + 1) := if_pos hlast
    have hq (v : LinkState) : (s.setLink n v).Quiet := ⟨h.residents, h.stores⟩
    rw [otherFlit, if_pos hlast, State.link_of_links (bringIn_links c (hq _)), State.link_setLink_same, hb]
  · have hb : Claims.begunAfter (s.link n) n had c = (some c, had + 1, (s.link n).delivered) := if_neg hlast
    rw [otherFlit, if_neg hlast, State.link_setLink_same, hb]

/-- A link without what it has of the packets that it brings. -/
def LinkState.wire (l : LinkState) : LinkState := { l with begun := none, partFlits := 0, delivered := 0 }

theorem otherFlit_wire (c : Cargo) (had : Nat) (h : s.Quiet) : ((otherFlit s n c had).link n).wire = (s.link n).wire := by
  rw [otherFlit_link c had h]
  rfl

theorem requestFlit_quiet (h : s.Quiet) : requestFlit s n = s := by
  simp [requestFlit, oldestCrossing, crossing, h.residents]

theorem packetDone_wire (s : State) (n : Nat) : ((packetDone s n).link n).wire = (s.link n).wire := by
  rw [packetDone, State.link_setLink_same]
  rfl

/-- Flits of a packet that the link has accepted before. -/
def Inbound.accepted (x : Inbound) (n : Nat) : Nat := if x.link = n then x.flits else 0

/-- A flit of a packet that crosses: with its last one the node behind the link holds the packet. -/
theorem passingFlit_some {i : Nat} {x : Inbound} (h : passingOver s n = some (i, x)) :
    passingFlit s n =
      if flitCount n (cargoPayload (.ask x.who x.loc x.op)) ≤ x.accepted n + 1 then
        holdInbound { packetDone s n with inbound := s.inbound.eraseIdx i }
          { x with node := across n x.node x.dest, link := 0, flits := 0 }
      else { s with inbound := s.inbound.set i { x with link := n, flits := x.accepted n + 1 } } := by
  simp only [passingFlit, h]
  rfl

theorem passingFlit_wire (h : s.Quiet) : ((passingFlit s n).link n).wire = (s.link n).wire := by
  cases hp : passingOver s n with
  | none => simp only [passingFlit, hp]
  | some e =>
    rw [passingFlit_some hp]
    split
    · have hq (l : List Inbound) : State.Quiet { packetDone s n with inbound := l } := ⟨h.residents, h.stores⟩
      rw [State.link_of_links (holdInbound_links _ (hq _))]
      exact packetDone_wire s n
    · rfl

/-- A flit that is accepted changes of its link only what that has of packets. -/
theorem acceptFlit_wire (packet : FlitOf) (h : s.Quiet) : ((acceptFlit s n packet).link n).wire = (s.link n).wire := by
  cases packet with
  | request => rw [acceptFlit, requestFlit_quiet h]
  | passing => exact passingFlit_wire h
  | first c =>
    simp only [acceptFlit]
    split
    · exact otherFlit_wire c 0 h
    · rfl
  | next =>
    simp only [acceptFlit]
    split
    · exact otherFlit_wire _ _ h
    · rfl

/-! ### Receiving a flit (R20, R23, R26) -/

/-- A count that saturates stays at its last value (R29). -/
theorem bumpWord_eq (w : BitVec 16) : bumpWord w = if w = 0xFFFF then w else w + 1 := by
  by_cases h : w = 0xFFFF <;> simp [bumpWord, h]

/-- The link's count of flits rebuilt from the XOR rail (R20, R29). -/
def LinkState.rebuilt (l : LinkState) (bad : BitVec 5) : BitVec 16 :=
  if failingParts l bad = 1 then bumpWord l.rebuild else l.rebuild

theorem LinkState.rebuilt_eq (l : LinkState) (bad : BitVec 5) :
    l.rebuilt bad = if Claims.badParts l bad = 1 ∧ l.rebuild ≠ 0xFFFF then l.rebuild + 1 else l.rebuild := by
  have e : Claims.badParts l bad = failingParts l bad := rfl
  rw [e, LinkState.rebuilt]
  by_cases h1 : failingParts l bad = 1 <;> simp [bumpWord_eq, h1]

/-- The link once the flit that it expects has been accepted, none ahead of it. -/
def LinkState.advanced (l : LinkState) (bad : BitVec 5) : LinkState :=
  { l with rebuild := l.rebuilt bad, expect := l.expect + 1, ahead := [] }

theorem alreadyAccepted_nil {l : LinkState} {seq : BitVec 12} (h : l.ahead = []) :
    alreadyAccepted l seq = decide (0x800 ≤ (seq - l.expect).toNat) := by
  simp [alreadyAccepted, h]

/-- A flit that has not been accepted lies at or beyond the expected one, and not among those accepted beyond it. -/
theorem not_alreadyAccepted {l : LinkState} {seq : BitVec 12} (h : alreadyAccepted l seq = false) :
    (seq - l.expect).toNat < 0x800 ∧ ∀ b, (seq, b) ∉ l.ahead := by
  simp only [alreadyAccepted, Bool.or_eq_false_iff, decide_eq_false_iff_not, List.any_eq_false, decide_eq_true_eq] at h
  exact ⟨Nat.not_le.1 h.1, fun b hb => h.2 _ hb rfl⟩

/-- A flit with at most one bad part that has not been accepted is, on a link that is up with none ahead of it. -/
theorem receiveFlit_accepts {seq : BitVec 12} {bad : BitVec 5} (packet : FlitOf) (hup : (s.link n).isUp = true)
    (hbad : failingParts (s.link n) bad ≤ 1) (ha : (s.link n).ahead = []) (hseq : (seq - (s.link n).expect).toNat < 0x800) :
    receiveFlit s n seq bad packet = takeOrdered n 1
      (s.setLink n { s.link n with rebuild := (s.link n).rebuilt bad, ahead := [(seq, packet)] }) := by
  have hnew : alreadyAccepted (s.link n) seq = false := by
    rw [alreadyAccepted_nil ha]; simpa using hseq
  simp [receiveFlit, hup, hnew, show ¬ 2 ≤ failingParts (s.link n) bad by omega, ha, LinkState.rebuilt]

/-- The flit that the link expects is the next of its packet. -/
theorem receiveFlit_expected {bad : BitVec 5} (packet : FlitOf) (hup : (s.link n).isUp = true)
    (hbad : failingParts (s.link n) bad ≤ 1) (ha : (s.link n).ahead = []) :
    receiveFlit s n (s.link n).expect bad packet = acceptFlit (s.setLink n ((s.link n).advanced bad)) n packet := by
  rw [receiveFlit_accepts packet hup hbad ha (by simp)]
  simp [takeOrdered, State.setLink_setLink, LinkState.advanced]

/-- One ahead of it waits for those before it. -/
theorem receiveFlit_ahead {seq : BitVec 12} {bad : BitVec 5} (packet : FlitOf) (hup : (s.link n).isUp = true)
    (hbad : failingParts (s.link n) bad ≤ 1) (ha : (s.link n).ahead = []) (hne : seq ≠ (s.link n).expect)
    (hseq : (seq - (s.link n).expect).toNat < 0x800) :
    receiveFlit s n seq bad packet =
      s.setLink n { s.link n with rebuild := (s.link n).rebuilt bad, ahead := [(seq, packet)] } := by
  rw [receiveFlit_accepts packet hup hbad ha hseq]
  simp [takeOrdered, hne]

theorem receiveFlit_dropped {seq : BitVec 12} {bad : BitVec 5} (packet : FlitOf)
    (h : (s.link n).isUp = false ∨ alreadyAccepted (s.link n) seq = true) : receiveFlit s n seq bad packet = s := by
  obtain h | h := h <;> simp [receiveFlit, h]

/-- One with more bad parts is refused, and takes the link down where it has been replayed 16 times. -/
theorem receiveFlit_refused {seq : BitVec 12} {bad : BitVec 5} (packet : FlitOf) (hup : (s.link n).isUp = true)
    (hnew : alreadyAccepted (s.link n) seq = false) (hbad : 2 ≤ failingParts (s.link n) bad) :
    receiveFlit s n seq bad packet = if 16 ≤ replayCount (s.link n) seq then linkDown s n (s.link n) else s := by
  simp [receiveFlit, hup, hnew, hbad]

/-! ### Routes (R13, R27) -/

/-- Which way a packet goes asks of a link only whether it is up. -/
theorem isUp_setLink {v : LinkState} (h : v.isUp = (s.link n).isUp) (k : Nat) :
    ((s.setLink n v).link k).isUp = (s.link k).isUp := by
  by_cases hk : k = n
  · subst hk; rw [State.link_setLink_same, h]
  · rw [State.link_setLink_other s v hk]

theorem within_setLink {v : LinkState} (h : v.isUp = (s.link n).isUp) (target fuel : Nat) :
    within (s.setLink n v) target fuel = within s target fuel := by
  induction fuel with
  | zero => rfl
  | succ fuel ih => simp only [within, ih, isUp_setLink h]

theorem nextBridge_setLink {v : LinkState} (h : v.isUp = (s.link n).isUp) (node target : Nat) :
    nextBridge (s.setLink n v) node target = nextBridge s node target := by
  simp only [nextBridge, distance, within_setLink h, isUp_setLink h]

/-- The way to a node of this module goes over bridges. -/
theorem nextLink_setLink {v : LinkState} (h : v.isUp = (s.link n).isUp) {node dest : Nat} (hd : dest < 16) :
    nextLink (s.setLink n v) node dest = nextLink s node dest := by
  simp only [nextLink, if_pos hd, nextBridge_setLink h]

/-- A bridge ends at nodes of this module. -/
theorem acrossBridge_lt {b node dest : Nat} (h : acrossBridge b node = some dest) : dest < 16 := by
  have hall : ∀ e ∈ bridges, e.1 < 16 ∧ e.2 < 16 := by decide
  obtain ⟨e, he, hx⟩ := Option.bind_eq_some_iff.1 h
  obtain ⟨h1, h2⟩ := hall e (List.mem_of_getElem? he)
  split at hx
  · obtain rfl := Option.some.inj hx; exact h2
  · split at hx
    · obtain rfl := Option.some.inj hx; exact h1
    · cases hx

/-! ### A store of another module on its last bridge (R22, R30) -/

/-- The one packet of another module here is the one that a link brings next. -/
theorem passingOver_one {x : Inbound} (hi : s.inbound = [x]) (ho : x.order = none)
    (hn : nextLink s x.node x.dest = some n) : passingOver s n = some (0, x) := by
  simp [passingOver, hi, ho, hn]

/-- Where nothing waits for a full bit, a store that is performed writes its bytes and does nothing else. -/
theorem store_alone (p : Nat) (data : List Byte) (hr : s.residents = []) (hi : s.inbound = []) :
    s.store p data = s.write p data :=
  serveRange_unwatched (by simp [State.Unwatched, waitedWords, show (s.write p data).residents = [] from hr, hi])

theorem performCargo_store (s : State) (t : Thread) (bytes : List Byte) (loc : Nat) :
    performCargo s t (cargoReq (.store bytes) loc) =
      if reachable s loc then .ok (s.store loc bytes) .nothing 0 else .error 0x1000_0000_0000 := rfl

/-- A store of another module that has come to its home is made where it is admitted, and changes nothing where it is not. -/
theorem performInbound_store {x : Inbound} {bytes : List Byte} (hop : x.op = .store bytes) (hr : s.residents = [])
    (hi : s.inbound = []) :
    (performInbound s x).inbound = [] ∧
      (performInbound s x).mem = if foreignAdmits s x.who x.loc x.op = true ∧ reachable s x.loc = true then
        s.mem.write x.loc bytes else s.mem := by
  obtain ⟨chans, hcount⟩ : ∃ c, countRequest s (cargoReq (.store bytes) x.loc) = { s with channels := c } :=
    ⟨_, countRequest_channels _ _⟩
  have hstore : State.store { s with channels := chans } x.loc bytes = State.write { s with channels := chans } x.loc bytes :=
    store_alone _ _ hr hi
  have hreach : reachable { s with channels := chans } x.loc = reachable s x.loc := rfl
  simp only [performInbound, serveArrived_noThreads hr, hop, hcount, performCargo_store, hreach, hstore]
  cases foreignAdmits s x.who x.loc (.store bytes) <;> cases reachable s x.loc <;> exact ⟨hi, rfl⟩

/-- A flit of a store of another module on the bridge to its home, not the last. -/
theorem passingFlit_begins {x : Inbound} (hi : s.inbound = [x]) (ho : x.order = none)
    (hn : nextLink s x.node x.dest = some n) (hl : x.link = n)
    (hmore : x.flits + 1 < flitCount n (cargoPayload (.ask x.who x.loc x.op))) :
    passingFlit s n = { s with inbound := [{ x with flits := x.flits + 1 }] } := by
  have hhad : x.accepted n = x.flits := if_pos hl
  rw [passingFlit_some (passingOver_one hi ho hn), hhad, if_neg (by omega), hi]
  subst hl
  rfl

/-- A packet that the last bridge brings to its home. -/
def Inbound.landed (x : Inbound) : Inbound := { x with node := x.dest, link := 0, flits := 0 }

/-- The last flit brings it to its home. -/
theorem passingFlit_ends {x : Inbound} (hn14 : n < 14) (hi : s.inbound = [x]) (ho : x.order = none)
    (hn : nextLink s x.node x.dest = some n) (ha : acrossBridge n x.node = some x.dest) (hl : x.link = n)
    (hlast : flitCount n (cargoPayload (.ask x.who x.loc x.op)) ≤ x.flits + 1) :
    passingFlit s n = performInbound { packetDone s n with inbound := [] } x.landed := by
  have hhad : x.accepted n = x.flits := if_pos hl
  have hacross : across n x.node x.dest = x.dest := by simp [across, hn14, ha]
  rw [passingFlit_some (passingOver_one hi ho hn), hhad, if_pos hlast, hi, hacross, holdInbound, if_pos rfl]
  rfl

/-- What admits an access of another module is the same: cores, dies, jobs and the members of the pod (R151, R187). -/
structure State.SameRights (s' s : State) : Prop where
  cores : s'.cores = s.cores
  dies : s'.dies = s.dies
  jobs : s'.jobs = s.jobs
  modNum : s'.modNum = s.modNum
  pod : s'.pod = s.pod

theorem admitParts_sameRights {s' : State} (h : s'.SameRights s) (core : Nat) (t : Thread) (rd wr : Bool) (parts : List Part) :
    admitParts s' core t rd wr parts = admitParts s core t rd wr parts := by
  have hcore : s'.core = s.core := by funext c; rw [State.core, h.cores]; rfl
  have hdie : s'.die = s.die := by funext d; rw [State.die, h.dies]; rfl
  have hjob : s'.job = s.job := by funext j; rw [State.job, h.jobs]; rfl
  have hpart (p : Part) : admitPart s' core t rd wr p = admitPart s core t rd wr p := by
    rw [admitPart, hcore, hdie, hjob, admitPart]
  induction parts with
  | nil => rfl
  | cons p rest ih => simp only [admitParts, hpart, ih]

theorem foreignAdmits_sameRights {s' : State} (h : s'.SameRights s) (a : Asker) (loc : Nat) (op : CargoOp) :
    foreignAdmits s' a loc op = foreignAdmits s a loc op := by
  simp only [foreignAdmits, cargoAdmitted, admitParts_sameRights h, State.die, State.inPod, h.dies, h.modNum, h.pod]

/-- A flit of a store of another module on the bridge to its home: not the last, or the one that brings it there (R22, R24, R30). -/
theorem passingFlit_store {x : Inbound} {bytes : List Byte} (hq : s.Quiet) (hn14 : n < 14) (hi : s.inbound = [x])
    (ho : x.order = none) (hn : nextLink s x.node x.dest = some n) (ha : acrossBridge n x.node = some x.dest)
    (hop : x.op = .store bytes) (hl : x.link = n) :
    (x.flits + 1 < Claims.flits n (cargoPayload (.ask x.who x.loc x.op)) →
      (passingFlit s n).mem = s.mem ∧ (passingFlit s n).inbound = [{ x with flits := x.flits + 1 }] ∧
        ((passingFlit s n).link n).delivered = (s.link n).delivered) ∧
    (Claims.flits n (cargoPayload (.ask x.who x.loc x.op)) ≤ x.flits + 1 →
      (passingFlit s n).inbound = [] ∧ ((passingFlit s n).link n).delivered = (s.link n).delivered + 1 ∧
      (passingFlit s n).mem = if foreignAdmits s x.who x.loc x.op = true ∧ reachable s x.loc = true then
        s.mem.write x.loc bytes else s.mem) := by
  refine ⟨fun hmore => ?_, fun hlast => ?_⟩
  · rw [passingFlit_begins hi ho hn hl hmore]
    exact ⟨rfl, rfl, rfl⟩
  · have hq1 : State.Quiet { packetDone s n with inbound := [] } := ⟨hq.residents, hq.stores⟩
    have hrights : State.SameRights { packetDone s n with inbound := [] } s := ⟨rfl, rfl, rfl, rfl, rfl⟩
    have hreach : reachable { packetDone s n with inbound := [] } x.loc = reachable s x.loc := rfl
    obtain ⟨hinbound, hmem⟩ := performInbound_store (x := x.landed) hop hq1.residents rfl
    have hlink : ((performInbound { packetDone s n with inbound := [] } x.landed).link n).delivered =
        (s.link n).delivered + 1 := by
      rw [State.link_of_links (performInbound_links x.landed hq1)]
      exact congrArg LinkState.delivered (State.link_setLink_same s n _)
    rw [foreignAdmits_sameRights hrights] at hmem
    rw [passingFlit_ends hn14 hi ho hn ha hl hlast]
    exact ⟨hinbound, hlink, hmem⟩

/-! ### A link taken down (R24, R26, R27, R31) -/

/-- Which spares there are and where they lead asks nothing of the links. -/
theorem assignSpare_cases (s : State) (m : Nat) :
    assignSpare s m = s ∨ ∃ x, assignSpare s m = { s with inService := insertNat s.inService x } := by
  unfold assignSpare
  split
  · exact .inl rfl
  · split
    · exact .inr ⟨_, rfl⟩
    · exact .inl rfl

theorem mem_insertNat (l : List Nat) (k : Nat) : k ∈ insertNat l k := by
  induction l with
  | nil => simp [insertNat]
  | cons y rest ih =>
    rw [insertNat]
    split
    · simp
    · split
      · simp [*]
      · exact List.mem_cons_of_mem _ ih

/-- `y` is a spare fabric link, not yet in service, on the I/O die of `m` and wired to its partner (R31). -/
structure SpareFor (s : State) (m y : Nat) : Prop where
  spare : isSpare s y = true
  sameDie : y % 2 = m % 2
  samePartner : partnerOf s y = partnerOf s m
  idle : y ∉ s.inService

/-- Where such a spare is up, one is put in the place of a working link (R31). -/
theorem assignSpare_takes {m x : Nat} (hm : isSpare s m = false) (hx : x < 16) (h : SpareFor s m x)
    (hup : (s.link (14 + x)).isUp = true) : ∃ y ∈ (assignSpare s m).inService, SpareFor s m y := by
  obtain ⟨hspare, hdie, hpartner, hidle⟩ := h
  cases hf : (List.range 16).find? fun x => isSpare s x && decide (x % 2 = m % 2) && decide (partnerOf s x = partnerOf s m) &&
      (s.link (14 + x)).isUp && !s.inService.contains x with
  | none => simpa [hspare, hdie, hpartner, hidle, hup] using List.find?_eq_none.1 hf x (List.mem_range.2 hx)
  | some y =>
    have hy := List.find?_some hf
    simp only [Bool.and_eq_true, decide_eq_true_eq, Bool.not_eq_true', List.contains_eq_mem, decide_eq_false_iff_not] at hy
    obtain ⟨⟨⟨⟨h1, h2⟩, h3⟩, -⟩, h5⟩ := hy
    refine ⟨y, ?_, h1, h2, h3, h5⟩
    rw [assignSpare, if_neg (by simp [hm]), hf]
    exact mem_insertNat _ _

/-- What a link was bringing begins anew on the next way (R27), and the link is in service no more. -/
def withdrawLink (s : State) (n : Nat) : State :=
  { s with
    carried := s.carried.map fun c => if c.link = n then { c with flits := 0 } else c
    inbound := s.inbound.map fun x => if x.link = n then { x with flits := 0 } else x
    inService := s.inService.filter fun x => decide (14 + x ≠ n) }

theorem linkDown_eq (s : State) (n : Nat) (l : LinkState) :
    linkDown s n l =
      if 14 ≤ n then assignSpare (withdrawLink (s.setLink n (takeDown l)) n) (n - 14)
      else withdrawLink (s.setLink n (takeDown l)) n := rfl

/-- A link goes down with the packet that it has begun; memory and threads stay. -/
theorem linkDown_keeps (s : State) (n : Nat) (l : LinkState) :
    (linkDown s n l).mem = s.mem ∧ (linkDown s n l).slots = s.slots ∧ (linkDown s n l).link n = takeDown l := by
  have hset : (s.setLink n (takeDown l)).link n = takeDown l := State.link_setLink_same s n _
  rw [linkDown_eq]
  split
  · obtain h | ⟨x, h⟩ := assignSpare_cases (withdrawLink (s.setLink n (takeDown l)) n) (n - 14) <;> rw [h]
    · exact ⟨rfl, rfl, hset⟩
    · exact ⟨rfl, rfl, hset⟩
  · exact ⟨rfl, rfl, hset⟩

theorem spare_ne {m y : Nat} (hm : isSpare s m = false) (hy : isSpare s y = true) : 14 + y ≠ 14 + m := by
  intro e
  obtain rfl : y = m := by omega
  exact absurd hy (by simp [hm])

/-- The spares for a working link are the same once it has been withdrawn. -/
theorem spareFor_withdrawLink {m y : Nat} (v : LinkState) (hm : isSpare s m = false) :
    SpareFor (withdrawLink (s.setLink (14 + m) v) (14 + m)) m y ↔ SpareFor s m y := by
  have hspare (k : Nat) : isSpare (withdrawLink (s.setLink (14 + m) v) (14 + m)) k = isSpare s k := rfl
  have hpartner (k : Nat) : partnerOf (withdrawLink (s.setLink (14 + m) v) (14 + m)) k = partnerOf s k := rfl
  have hidle (hy : isSpare s y = true) :
      y ∈ (withdrawLink (s.setLink (14 + m) v) (14 + m)).inService ↔ y ∈ s.inService := by
    simp only [withdrawLink, State.setLink_inService, List.mem_filter, decide_eq_true_eq]
    exact and_iff_left (spare_ne hm hy)
  constructor
  · rintro ⟨h1, h2, h3, h4⟩
    rw [hspare] at h1
    rw [hpartner, hpartner] at h3
    exact ⟨h1, h2, h3, (not_congr (hidle h1)).1 h4⟩
  · rintro ⟨h1, h2, h3, h4⟩
    refine ⟨?_, h2, ?_, (not_congr (hidle h1)).2 h4⟩
    · rw [hspare, h1]
    · rw [hpartner, hpartner, h3]

/-- A spare takes the place of a working fabric link that goes down (R31). -/
theorem linkDown_takesSpare {m x : Nat} (l : LinkState) (hm : isSpare s m = false) (hx : x < 16) (h : SpareFor s m x)
    (hup : (s.link (14 + x)).isUp = true) : ∃ y ∈ (linkDown s (14 + m) l).inService, SpareFor s m y := by
  obtain ⟨s2, hs2⟩ : ∃ s2, s2 = withdrawLink (s.setLink (14 + m) (takeDown l)) (14 + m) := ⟨_, rfl⟩
  have hm2 : isSpare s2 m = false := by rw [hs2]; exact hm
  have hup2 : (s2.link (14 + x)).isUp = true := by
    rw [hs2]
    exact (congrArg LinkState.isUp (State.link_setLink_other s (takeDown l) (spare_ne hm h.spare))).trans hup
  have hfor2 (y : Nat) : SpareFor s2 m y ↔ SpareFor s m y := by rw [hs2, spareFor_withdrawLink _ hm]
  obtain ⟨y, hy, hfor⟩ := assignSpare_takes hm2 hx ((hfor2 x).2 h) hup2
  rw [linkDown_eq, if_pos (by omega), show 14 + m - 14 = m by omega, ← hs2]
  exact ⟨y, hy, (hfor2 y).1 hfor⟩

/-! ### Replays (R23, R26) -/

/-- The link with one more replay, and one more of that flit in succession. -/
def LinkState.replayed (l : LinkState) (seq : BitVec 12) : LinkState :=
  { l with
    replay := bumpWord l.replay
    replays := (seq, replayCount l seq + 1) :: l.replays.filter fun e => decide (e.1 ≠ seq) }

theorem replayCount_replayed (l : LinkState) (seq : BitVec 12) : replayCount (l.replayed seq) seq = replayCount l seq + 1 := by
  simp [replayCount, LinkState.replayed]

/-- A replay of one flit: that after the last one acknowledged, unless it has been replayed 16 times in vain. -/
theorem replayFlits_one (s : State) (n : Nat) :
    replayFlits s n 1 =
      if 16 ≤ replayCount (s.link n) ((s.link n).lastAck + 1) ∧ alreadyAccepted (s.link n) ((s.link n).lastAck + 1) = false then
        linkDown s n (s.link n)
      else s.setLink n ((s.link n).replayed ((s.link n).lastAck + 1)) := by
  simp [replayFlits, LinkState.replayed]

theorem exec_flitReplay_one (hn : n < 30) (hup : (s.link n).isUp = true) :
    exec (.flitReplay n 1) s = .next (replayFlits s n 1) := by
  have hone : Nat.min 1 (replayRoom n) = 1 := by
    unfold replayRoom
    split <;> rfl
  rw [exec_flitReplay, execFlitReplay, if_pos ⟨hn, hup, by decide⟩, hone]

/-! ### Retraining (R25, R27) -/

theorem exec_linkRetrain_live (hn : n < 30) (h : (s.link n).state ≠ 0) (trained : Bool) (lanes : List Nat) :
    exec (.linkRetrain n trained lanes) s = .next (retrain s n trained lanes) := by
  rw [exec_linkRetrain, execLinkRetrain, if_pos ⟨hn, h⟩]

/-- The link after a retrain that has succeeded, its lanes seen to: degraded where a rail is bad. -/
def LinkState.trained (l : LinkState) : LinkState :=
  { l with retrains := 0, failedRetrains := 0, state := if l.railBad = 0 then 2 else 3 }

theorem retrain_passes (s : State) (n : Nat) : retrain s n true [] = s.setLink n (s.link n).trained := rfl

theorem retrain_lane (s : State) (n lane : Nat) :
    retrain s n true [lane] = s.setLink n (spareLane n (s.link n) lane).trained := rfl

/-- A failing lane takes a spare of its rail where there is one. -/
theorem spareLane_spare {l : LinkState} {lane : Nat} (hr : lane / laneCount n < 5)
    (h : l.spares.getD (lane / laneCount n) 0 ≠ 0) :
    spareLane n l lane = { l with
      spares := l.spares.set (lane / laneCount n) (l.spares.getD (lane / laneCount n) 0 - 1) } := by
  obtain ⟨k, hk⟩ := Nat.exists_eq_succ_of_ne_zero h
  simp only [spareLane, if_neg (Nat.not_le.2 hr), hk]
  rfl

/-- Its rail is marked bad where there is none. -/
theorem spareLane_bad {l : LinkState} {lane : Nat} (hr : lane / laneCount n < 5)
    (h : l.spares.getD (lane / laneCount n) 0 = 0) :
    spareLane n l lane = { l with railBad := l.railBad ||| (1#5 <<< (lane / laneCount n)) } := by
  simp only [spareLane, if_neg (Nat.not_le.2 hr), h]

/-- A link with a bad rail is not whole. -/
theorem marked_ne_zero (x : BitVec 5) {rail : Nat} (hr : rail < 5) : x ||| (1#5 <<< rail) ≠ 0 := by
  intro h
  have hbit := congrArg (fun y : BitVec 5 => y.getLsbD rail) h
  simp [hr] at hbit

/-- The link after a retrain that has failed. -/
def LinkState.failed (l : LinkState) : LinkState :=
  { l with retrains := if l.retrains = 15 then 15 else l.retrains + 1, failedRetrains := l.failedRetrains + 1 }

theorem retrain_failed (s : State) (n : Nat) (lanes : List Nat) :
    retrain s n false lanes =
      if 3 ≤ (s.link n).failedRetrains + 1 then linkDown s n (s.link n).failed
      else s.setLink n { (s.link n).failed with state := 1 } := rfl

/-- A retrain that fails is counted, and the third time in succession takes the link down. -/
theorem retrain_failed_link (s : State) (n : Nat) (lanes : List Nat) :
    ((retrain s n false lanes).link n).retrains =
      (if (s.link n).retrains = 15 then (s.link n).retrains else (s.link n).retrains + 1) ∧
    ((retrain s n false lanes).link n).state = if 2 ≤ (s.link n).failedRetrains then 0 else 1 := by
  have hcount : (s.link n).failed.retrains =
      if (s.link n).retrains = 15 then (s.link n).retrains else (s.link n).retrains + 1 := by
    simp only [LinkState.failed]
    split
    · exact (‹(s.link n).retrains = 15›).symm
    · rfl
  obtain ⟨-, -, hdown⟩ := linkDown_keeps s n (s.link n).failed
  rw [retrain_failed, ← hcount]
  by_cases h : 2 ≤ (s.link n).failedRetrains
  · rw [if_pos (by omega), if_pos h, hdown]
    exact ⟨rfl, rfl⟩
  · rw [if_neg (by omega), if_neg h, State.link_setLink_same]
    exact ⟨rfl, rfl⟩

/-! ### What a flit brings -/

/-- The flit begins a packet that R21 knows, or is the next of the one begun. -/
def BringsCargo (l : LinkState) (packet : FlitOf) (c : Cargo) : Prop :=
  (packet = .first c ∧ l.begun = none ∧ cargoPayload c ≤ 4096 ∧ cargoPayload c % 64 = 0) ∨ (packet = .next ∧ l.begun = some c)

/-- The flit belongs to no packet that the link could bring. -/
def BringsNothing (l : LinkState) (packet : FlitOf) : Prop :=
  packet = .request ∨ (∃ c, packet = .first c ∧ l.begun.isSome = true) ∨ (packet = .next ∧ l.begun = none)

theorem acceptFlit_cargo {packet : FlitOf} {c : Cargo} (h : BringsCargo (s.link n) packet c) :
    acceptFlit s n packet = otherFlit s n c (if packet = .next then (s.link n).partFlits else 0) := by
  obtain ⟨rfl, hb, hp⟩ | ⟨rfl, hb⟩ := h
  · simp [acceptFlit, isPacket, hb, hp]
  · simp [acceptFlit, hb]

theorem acceptFlit_nothing {packet : FlitOf} (hq : s.Quiet) (h : BringsNothing (s.link n) packet) :
    acceptFlit s n packet = s := by
  obtain rfl | ⟨c, rfl, hb⟩ | ⟨rfl, hb⟩ := h
  · exact requestFlit_quiet hq
  · simp [acceptFlit, Option.isSome_iff_ne_none.1 hb]
  · simp [acceptFlit, hb]

theorem otherFlit_last {c : Cargo} {had : Nat} (h : flitCount n (cargoPayload c) ≤ had + 1) :
    otherFlit s n c had =
      bringIn (s.setLink n { s.link n with begun := none, partFlits := 0, delivered := (s.link n).delivered + 1 }) n c := by
  rw [otherFlit, if_pos h]

theorem otherFlit_more {c : Cargo} {had : Nat} (h : ¬ flitCount n (cargoPayload c) ≤ had + 1) :
    otherFlit s n c had = s.setLink n { s.link n with begun := some c, partFlits := had + 1 } := by
  rw [otherFlit, if_neg h]

theorem otherFlit_begun {c : Cargo} {had : Nat} (hq : s.Quiet) :
    ((otherFlit s n c had).link n).begun = if flitCount n (cargoPayload c) ≤ had + 1 then none else some c := by
  rw [otherFlit_link c had hq, Claims.begunAfter]
  simp only [show Claims.flits n (cargoPayload c) = flitCount n (cargoPayload c) from rfl]
  split <;> rfl

/-- A packet still begun, and any on a bridge, changes no memory and joins no packets of other modules. -/
theorem otherFlit_keeps {c : Cargo} {had : Nat} (hq : s.Quiet)
    (h : ((otherFlit s n c had).link n).begun = some c ∨ n < 14) :
    (otherFlit s n c had).mem = s.mem ∧ (otherFlit s n c had).inbound = s.inbound := by
  rw [otherFlit_begun hq] at h
  by_cases hlast : flitCount n (cargoPayload c) ≤ had + 1
  · have hn : ¬ 14 ≤ n := by simpa [hlast] using h
    rw [otherFlit_last hlast]
    cases c with
    | ask a loc op => rw [bringIn, if_neg hn]; exact ⟨rfl, rfl⟩
    | other len => exact ⟨rfl, rfl⟩
  · rw [otherFlit_more hlast]
    exact ⟨rfl, rfl⟩

theorem bringIn_holds {a : Asker} {loc : Nat} {op : CargoOp} (hn : 14 ≤ n) (hnode : nodeOf s loc ≠ 8 + n % 2) :
    bringIn s n (.ask a loc op) =
      { s with inbound := s.inbound ++ [⟨a, loc, op, nodeOf s loc, 8 + n % 2, 0, 0, s.now, none⟩] } := by
  simp only [bringIn, if_pos hn, holdInbound, if_neg (Ne.symm hnode)]

/-- An access that a fabric link has brought whole is held on its I/O die, unless its home is there (R22). -/
theorem otherFlit_holds {a : Asker} {loc had : Nat} {op : CargoOp} (hq : s.Quiet)
    (hb : ((otherFlit s n (.ask a loc op) had).link n).begun = none) (hn : 14 ≤ n) (hnode : nodeOf s loc ≠ 8 + n % 2) :
    (otherFlit s n (.ask a loc op) had).mem = s.mem ∧
      (otherFlit s n (.ask a loc op) had).inbound = s.inbound ++ [⟨a, loc, op, nodeOf s loc, 8 + n % 2, 0, 0, s.now, none⟩] := by
  rw [otherFlit_begun hq] at hb
  have hlast : flitCount n (cargoPayload (.ask a loc op)) ≤ had + 1 :=
    Decidable.byContradiction fun hmore => by simp [hmore] at hb
  have hset (v : LinkState) : nodeOf (s.setLink n v) loc ≠ 8 + n % 2 := hnode
  rw [otherFlit_last hlast, bringIn_holds hn (hset _)]
  exact ⟨rfl, rfl⟩

/-! ### The parts of the claim -/

theorem exec_flitReceive_live (hn : n < 30) (seq : BitVec 12) (bad : BitVec 5) (packet : FlitOf) :
    exec (.flitReceive n seq bad packet) s = .next (receiveFlit s n seq bad packet) := by
  rw [exec_flitReceive, execFlitReceive, if_pos hn]

/-- Of its own fields the link keeps, once the expected flit is accepted, all but those that R20 and R24 let it change. -/
theorem acceptFlit_advanced {bad : BitVec 5} (packet : FlitOf) (hq : s.Quiet) {l' : LinkState}
    (hl : (acceptFlit (s.setLink n ((s.link n).advanced bad)) n packet).link n = l') :
    l'.expect = (s.link n).expect + 1 ∧ l'.ahead = [] ∧
      l'.rebuild = (if Claims.badParts (s.link n) bad = 1 ∧ (s.link n).rebuild ≠ 0xFFFF then (s.link n).rebuild + 1
        else (s.link n).rebuild) ∧
      l'.state = (s.link n).state ∧ l'.railBad = (s.link n).railBad ∧ l'.spares = (s.link n).spares ∧
      l'.replay = (s.link n).replay ∧ l'.retrains = (s.link n).retrains := by
  have hq' : (s.setLink n ((s.link n).advanced bad)).Quiet := ⟨hq.residents, hq.stores⟩
  have hw : l'.wire = ((s.link n).advanced bad).wire := by
    rw [← hl, acceptFlit_wire packet hq', State.link_setLink_same]
  rw [← LinkState.rebuilt_eq]
  exact ⟨congrArg (·.expect) hw, congrArg (·.ahead) hw, congrArg (·.rebuild) hw, congrArg (·.state) hw,
    congrArg (·.railBad) hw, congrArg (·.spares) hw, congrArg (·.replay) hw, congrArg (·.retrains) hw⟩

/-- A link that has accepted a flit is up as before. -/
theorem isUp_advanced (l : LinkState) (bad : BitVec 5) : (l.advanced bad).isUp = l.isUp := rfl

/-- The expected flit of a packet that the link brings itself (R21, R22, R24). -/
theorem acceptFlit_advanced_cargo {bad : BitVec 5} {packet : FlitOf} {c : Cargo} {s' : State} (hq : s.Quiet)
    (hc : BringsCargo (s.link n) packet c) (hs : s' = acceptFlit (s.setLink n ((s.link n).advanced bad)) n packet) :
    ((s'.link n).begun, (s'.link n).partFlits, (s'.link n).delivered) =
      Claims.begunAfter (s.link n) n (if packet = .next then (s.link n).partFlits else 0) c ∧
    ((s'.link n).begun = some c ∨ n < 14 → s'.mem = s.mem ∧ s'.inbound = s.inbound) ∧
    ∀ a loc op, c = .ask a loc op → (s'.link n).begun = none → 14 ≤ n → nodeOf s loc ≠ 8 + n % 2 →
      s'.mem = s.mem ∧ s'.inbound = s.inbound ++ [⟨a, loc, op, nodeOf s loc, 8 + n % 2, 0, 0, s.now, none⟩] := by
  have hq' : (s.setLink n ((s.link n).advanced bad)).Quiet := ⟨hq.residents, hq.stores⟩
  have hl : (s.setLink n ((s.link n).advanced bad)).link n = (s.link n).advanced bad := State.link_setLink_same s n _
  have hc' : BringsCargo ((s.setLink n ((s.link n).advanced bad)).link n) packet c := by rw [hl]; exact hc
  rw [acceptFlit_cargo hc', hl] at hs
  subst hs
  refine ⟨?_, fun h => otherFlit_keeps hq' h, ?_⟩
  · rw [otherFlit_link c _ hq', hl]
    rfl
  · rintro a loc op rfl hb hn hnode
    exact otherFlit_holds hq' hb hn hnode

/-- A flit of no packet that the link could bring changes no memory, no thread and no count of packets. -/
theorem acceptFlit_advanced_nothing {bad : BitVec 5} {packet : FlitOf} {s' : State} (hq : s.Quiet)
    (hc : BringsNothing (s.link n) packet) (hs : s' = acceptFlit (s.setLink n ((s.link n).advanced bad)) n packet) :
    s'.mem = s.mem ∧ s'.slots = s.slots ∧ (s'.link n).begun = (s.link n).begun ∧
      (s'.link n).partFlits = (s.link n).partFlits ∧ (s'.link n).delivered = (s.link n).delivered := by
  have hl : (s.setLink n ((s.link n).advanced bad)).link n = (s.link n).advanced bad := State.link_setLink_same s n _
  have hc' : BringsNothing ((s.setLink n ((s.link n).advanced bad)).link n) packet := by rw [hl]; exact hc
  rw [acceptFlit_nothing (s := s.setLink n ((s.link n).advanced bad)) ⟨hq.residents, hq.stores⟩ hc'] at hs
  subst hs
  rw [hl]
  exact ⟨rfl, rfl, rfl, rfl, rfl⟩

/-- The expected flit of a store of another module on the bridge to its home. -/
theorem acceptFlit_advanced_passing {bad : BitVec 5} {x : Inbound} {bytes : List Byte} {s' : State} (hq : s.Quiet) (hn14 : n < 14)
    (hi : s.inbound = [x]) (ho : x.order = none) (hn : nextLink s x.node x.dest = some n)
    (ha : acrossBridge n x.node = some x.dest) (hop : x.op = .store bytes) (hl : x.link = n)
    (hs : s' = acceptFlit (s.setLink n ((s.link n).advanced bad)) n .passing) :
    (x.flits + 1 < Claims.flits n (cargoPayload (.ask x.who x.loc x.op)) →
      s'.mem = s.mem ∧ s'.inbound = [{ x with flits := x.flits + 1 }] ∧ (s'.link n).delivered = (s.link n).delivered) ∧
    (Claims.flits n (cargoPayload (.ask x.who x.loc x.op)) ≤ x.flits + 1 →
      s'.inbound = [] ∧ (s'.link n).delivered = (s.link n).delivered + 1 ∧
      s'.mem = if foreignAdmits s x.who x.loc x.op = true ∧ reachable s x.loc = true then
        s.mem.write x.loc bytes else s.mem) := by
  have hway : nextLink (s.setLink n ((s.link n).advanced bad)) x.node x.dest = some n := by
    rw [nextLink_setLink (isUp_advanced (s.link n) bad) (acrossBridge_lt ha), hn]
  have h := passingFlit_store (s := s.setLink n ((s.link n).advanced bad)) ⟨hq.residents, hq.stores⟩ hn14 hi ho hway ha hop hl
  have hrights : (s.setLink n ((s.link n).advanced bad)).SameRights s := ⟨rfl, rfl, rfl, rfl, rfl⟩
  rw [State.link_setLink_same, foreignAdmits_sameRights hrights] at h
  subst hs
  exact h

/-- The expected flit (R20 to R24, R30). -/
theorem exec_flitReceive_expected {bad : BitVec 5} (packet : FlitOf) (hn : n < 30) (hup : (s.link n).isUp = true)
    (hbad : Claims.badParts (s.link n) bad ≤ 1) (ha : (s.link n).ahead = []) :
    exec (.flitReceive n (s.link n).expect bad packet) s =
      .next (acceptFlit (s.setLink n ((s.link n).advanced bad)) n packet) := by
  rw [exec_flitReceive_live hn, receiveFlit_expected packet hup hbad ha]

/-- A flit ahead of the expected one waits for those before it, and nothing is delivered. -/
theorem exec_flitReceive_ahead {seq : BitVec 12} {bad : BitVec 5} (packet : FlitOf) (hn : n < 30)
    (hup : (s.link n).isUp = true) (hbad : Claims.badParts (s.link n) bad ≤ 1) (ha : (s.link n).ahead = [])
    (hne : seq ≠ (s.link n).expect) (hseq : (seq - (s.link n).expect).toNat < 0x800) :
    ∃ s' : State, exec (.flitReceive n seq bad packet) s = .next s' ∧ s'.mem = s.mem ∧
      s'.link n = { s.link n with
        rebuild := if Claims.badParts (s.link n) bad = 1 ∧ (s.link n).rebuild ≠ 0xFFFF then (s.link n).rebuild + 1
          else (s.link n).rebuild
        ahead := [(seq, packet)] } := by
  rw [exec_flitReceive_live hn, receiveFlit_ahead packet hup hbad ha hne hseq, ← LinkState.rebuilt_eq]
  exact ⟨_, rfl, rfl, State.link_setLink_same s n _⟩

/-- A flit on a link that is down, one accepted before, and one with too many bad parts change nothing. -/
theorem exec_flitReceive_noEffect {seq : BitVec 12} {bad : BitVec 5} (packet : FlitOf) (hn : n < 30)
    (h : (s.link n).state.toNat < 2 ∨ 0x800 ≤ (seq - (s.link n).expect).toNat ∨ (∃ b, (seq, b) ∈ (s.link n).ahead) ∨
      (2 ≤ Claims.badParts (s.link n) bad ∧ replayCount (s.link n) seq < 16)) :
    exec (.flitReceive n seq bad packet) s = .next s := by
  rw [exec_flitReceive_live hn]
  by_cases hdrop : (s.link n).isUp = false ∨ alreadyAccepted (s.link n) seq = true
  · rw [receiveFlit_dropped packet hdrop]
  · obtain ⟨hup, hnew⟩ := not_or.1 hdrop
    rw [Bool.not_eq_false] at hup
    rw [Bool.not_eq_true] at hnew
    obtain ⟨hbeyond, hahead⟩ := not_alreadyAccepted hnew
    obtain h | h | ⟨b, h⟩ | ⟨hbad, hcount⟩ := h
    · exact absurd (of_decide_eq_true hup) (Nat.not_le.2 h)
    · exact absurd h (Nat.not_le.2 hbeyond)
    · exact absurd h (hahead b)
    · rw [receiveFlit_refused packet hup hnew hbad, if_neg (by omega)]

theorem exec_flitReceive_down {seq : BitVec 12} {bad : BitVec 5} (packet : FlitOf) (hn : n < 30) (hup : (s.link n).isUp = true)
    (hnew : alreadyAccepted (s.link n) seq = false) (hbad : 2 ≤ Claims.badParts (s.link n) bad)
    (hcount : 16 ≤ replayCount (s.link n) seq) :
    exec (.flitReceive n seq bad packet) s = .next (linkDown s n (s.link n)) := by
  rw [exec_flitReceive_live hn, receiveFlit_refused packet hup hnew hbad, if_pos hcount]

/-- A replay is counted, of the flit and of the link (R23, R29). -/
theorem exec_flitReplay_counts (hn : n < 30) (hup : (s.link n).isUp = true)
    (h : replayCount (s.link n) ((s.link n).lastAck + 1) < 16 ∨ alreadyAccepted (s.link n) ((s.link n).lastAck + 1) = true) :
    ∃ l' : LinkState, exec (.flitReplay n 1) s = .next (s.setLink n l') ∧ l'.state = (s.link n).state ∧
      replayCount l' ((s.link n).lastAck + 1) = replayCount (s.link n) ((s.link n).lastAck + 1) + 1 ∧
      l'.replay = if (s.link n).replay = 0xFFFF then (s.link n).replay else (s.link n).replay + 1 := by
  have hgo : ¬(16 ≤ replayCount (s.link n) ((s.link n).lastAck + 1) ∧
      alreadyAccepted (s.link n) ((s.link n).lastAck + 1) = false) := by
    rintro ⟨hmany, hnew⟩
    obtain h | h := h
    · omega
    · exact absurd (hnew.symm.trans h) Bool.false_ne_true
  rw [exec_flitReplay_one hn hup, replayFlits_one, if_neg hgo]
  exact ⟨_, rfl, rfl, replayCount_replayed _ _, bumpWord_eq _⟩

theorem exec_flitReplay_down (hn : n < 30) (hup : (s.link n).isUp = true)
    (hcount : 16 ≤ replayCount (s.link n) ((s.link n).lastAck + 1))
    (hnew : alreadyAccepted (s.link n) ((s.link n).lastAck + 1) = false) :
    exec (.flitReplay n 1) s = .next (linkDown s n (s.link n)) := by
  rw [exec_flitReplay_one hn hup, replayFlits_one, if_pos ⟨hcount, hnew⟩]

/-- A failing lane takes a spare of its rail, or marks the rail bad, which degrades the link (R25). -/
theorem exec_linkRetrain_lane {lane : Nat} (hn : n < 30) (h : (s.link n).state ≠ 0) (hlane : lane < 5 * laneCount n) :
    ∃ l' : LinkState, exec (.linkRetrain n true [lane]) s = .next (s.setLink n l') ∧ l'.retrains = 0 ∧ l'.failedRetrains = 0 ∧
      ((s.link n).spares.getD (lane / laneCount n) 0 ≠ 0 → l'.railBad = (s.link n).railBad ∧
        l'.spares = (s.link n).spares.set (lane / laneCount n) ((s.link n).spares.getD (lane / laneCount n) 0 - 1)) ∧
      ((s.link n).spares.getD (lane / laneCount n) 0 = 0 → l'.spares = (s.link n).spares ∧ l'.state = 3 ∧
        l'.railBad = (s.link n).railBad ||| (1#5 <<< (lane / laneCount n))) := by
  have hrail : lane / laneCount n < 5 := Nat.div_lt_of_lt_mul (by rwa [Nat.mul_comm])
  refine ⟨(spareLane n (s.link n) lane).trained, by rw [exec_linkRetrain_live hn h, retrain_lane], rfl, rfl,
    fun hspare => ?_, fun hnone => ?_⟩
  · rw [spareLane_spare hrail hspare]
    exact ⟨rfl, rfl⟩
  · rw [spareLane_bad hrail hnone]
    exact ⟨rfl, if_neg (marked_ne_zero _ hrail), rfl⟩

end Sys2Proof.Machine

open Sys2Proof Sys2Proof.Machine

/-- Settles O52, event by event: a flit received, acknowledged and replayed, and a link retrained. -/
theorem linksDeliverOrGoDown : Obligations.LinksDeliverOrGoDown := by
  unfold Obligations.LinksDeliverOrGoDown
  rintro s n l hn rfl
  have hup (h : 2 ≤ (s.link n).state.toNat) : (s.link n).isUp = true := decide_eq_true h
  refine ⟨fun seq bad packet hlive hbad ha hr hs => ⟨?_, fun hne hseq => exec_flitReceive_ahead packet hn (hup hlive) hbad ha hne hseq⟩,
    fun seq bad packet h => exec_flitReceive_noEffect packet hn h, fun seq bad packet hlive hnew hbad hcount => ?_, fun seq => ?_,
    fun hlive h => exec_flitReplay_counts hn (hup hlive) h, fun hlive hcount hnew => ?_, fun h => ?_,
    fun lane h hlane _ => exec_linkRetrain_lane hn h hlane, fun lanes h => ?_⟩
  case refine_1 =>
    rintro rfl
    have hq : s.Quiet := ⟨hr, hs⟩
    obtain ⟨s', hs'⟩ : ∃ s', s' = acceptFlit (s.setLink n ((s.link n).advanced bad)) n packet := ⟨_, rfl⟩
    obtain ⟨h1, h2, h3, h4, h5, h6, h7, h8⟩ := acceptFlit_advanced packet hq (congrArg (State.link · n) hs'.symm)
    refine ⟨s', by rw [hs']; exact exec_flitReceive_expected packet hn (hup hlive) hbad ha, h1, h2, h3, h4, h5, h6, h7, h8,
      fun c hc => acceptFlit_advanced_cargo hq hc hs', fun hc => acceptFlit_advanced_nothing hq hc hs', ?_⟩
    rintro x bytes rfl hn14 hi ho hway hacross hop
    have hpass (hl : x.link = n) := acceptFlit_advanced_passing hq hn14 hi ho hway hacross hop hl hs'
    refine ⟨fun hl hmore => (hpass hl).1 hmore, fun hl hlast => ?_⟩
    obtain ⟨hinbound, hdelivered, hmem⟩ := (hpass hl).2 hlast
    refine ⟨hinbound, hdelivered, fun hadmits hreach j hj => ?_, fun hnot => ?_⟩
    · rw [hmem, if_pos ⟨hadmits, hreach⟩, Memory.byte_write_inside _ _ _ _ hj]
    · rw [hmem, if_neg (by simp [hnot])]
  case refine_2 =>
    obtain ⟨-, -, hdown⟩ := linkDown_keeps s n (s.link n)
    exact ⟨_, exec_flitReceive_down packet hn (hup hlive) hnew hbad hcount, by rw [hdown]; rfl⟩
  case refine_3 =>
    rw [exec_flitAcknowledge, execFlitAcknowledge, if_pos hn]
    rfl
  case refine_4 =>
    obtain ⟨hmem, hslots, hdown⟩ := linkDown_keeps s n (s.link n)
    refine ⟨_, exec_flitReplay_down hn (hup hlive) hcount hnew, hmem, hslots, by rw [hdown]; rfl, by rw [hdown]; rfl,
      by rw [hdown]; rfl, by rw [hdown]; rfl, ?_, ?_⟩
    · rw [hdown]
      simp [takeDown]
    · rintro m x rfl hm hx hspare hdie hpartner hxup hidle
      obtain ⟨y, hy, hfor⟩ := linkDown_takesSpare (s.link (14 + m)) hm hx ⟨hspare, hdie, hpartner, hidle⟩ hxup
      exact ⟨y, hy, hfor.spare, hfor.sameDie, hfor.samePartner, hfor.idle⟩
  case refine_5 =>
    rw [exec_linkRetrain_live hn h, retrain_passes]
    rfl
  case refine_6 =>
    exact ⟨_, exec_linkRetrain_live hn h false lanes, retrain_failed_link s n lanes⟩

end

section
/-!
SUPPORT. The window of a worklist (R80): its least held key and its largest window key as bounds, and what a push comes to.
-/
namespace Sys2Proof.Machine

variable {wl : Worklist} {x y : Entry}

/-! ### The bounds between window and held items -/

/-- The keys that the window is held against (R80, R90): those of the held items, and the least of each run. -/
def Worklist.heldKeys (wl : Worklist) : List Nat :=
  wl.held.map (fun x => x.item.key.toNat) ++ wl.runs.map fun r => r.leastKey.toNat

theorem leastHeld_eq (wl : Worklist) : leastHeld wl = wl.heldKeys.min? := by
  unfold leastHeld
  change List.foldl _ none wl.heldKeys = _
  cases wl.heldKeys with
  | nil => rfl
  | cons k rest =>
    rw [List.min?_cons', List.foldl_cons]
    exact List.foldl_hom some fun _ _ => rfl

theorem le_leastHeld_iff {n : Nat} : (∀ m, leastHeld wl = some m → n ≤ m) ↔ ∀ k ∈ wl.heldKeys, n ≤ k := by
  rw [leastHeld_eq]
  cases h : wl.heldKeys.min? with
  | none => simp [List.min?_eq_none_iff.1 h]
  | some m => simp [← List.le_min?_iff h]

theorem largestWindow_eq (wl : Worklist) :
    (0 :: wl.window.map fun y => y.item.key.toNat).max? = some (largestWindow wl) := by
  rw [List.max?_cons', List.foldl_map]
  rfl

theorem le_largestWindow (hy : y ∈ wl.window) : y.item.key.toNat ≤ largestWindow wl :=
  (List.max?_eq_some_iff.1 (largestWindow_eq wl)).2 _ (List.mem_cons_of_mem _ (List.mem_map.2 ⟨y, hy, rfl⟩))

/-- A largest window key above 0 is that of an item there. -/
theorem exists_largestWindow (h : 0 < largestWindow wl) : ∃ y ∈ wl.window, y.item.key.toNat = largestWindow wl :=
  List.mem_map.1 (List.mem_of_ne_of_mem (Nat.ne_of_gt h) (List.max?_eq_some_iff.1 (largestWindow_eq wl)).1)

/-! ### What a push comes to -/

/-- The item that leaves the window for another has the largest key there. -/
theorem demote_eq (h : 0 < largestWindow wl) : ∃ y ∈ wl.window, y.item.key.toNat = largestWindow wl ∧
    demote wl = (wl.window.filter fun z => decide (z.seq ≠ y.seq), [y]) := by
  obtain ⟨z, hz, hkey⟩ := exists_largestWindow h
  cases hl : (wl.window.filter fun x => decide (x.item.key.toNat = largestWindow wl)).getLast? with
  | none =>
    rw [List.getLast?_eq_none_iff, List.filter_eq_nil_iff] at hl
    exact absurd (decide_eq_true hkey) (hl z hz)
  | some y =>
    obtain ⟨hy, hyk⟩ := List.mem_filter.1 (List.mem_of_getLast? hl)
    exact ⟨y, hy, of_decide_eq_true hyk, by simp only [demote, hl]⟩

/-- R80: an item enters a window with room unless a held key is smaller, takes the place of one with a larger key in a full
window, or is held. -/
theorem Worklist.push_cases (wl : Worklist) (x : Entry) :
    (wl.window.length < wl.bound.toNat + 1 ∧ (∀ k ∈ wl.heldKeys, x.item.key.toNat ≤ k) ∧
      wl.push x = { wl with window := wl.window ++ [x] }) ∨
    (wl.window.length = wl.bound.toNat + 1 ∧ ∃ y ∈ wl.window, y.item.key.toNat = largestWindow wl ∧
      x.item.key.toNat < y.item.key.toNat ∧ wl.push x =
        { wl with window := (wl.window.filter fun z => decide (z.seq ≠ y.seq)) ++ [x], held := wl.held ++ [y] }) ∨
    ((wl.window.length < wl.bound.toNat + 1 → ∃ k ∈ wl.heldKeys, k < x.item.key.toNat) ∧
      (wl.window.length = wl.bound.toNat + 1 → largestWindow wl ≤ x.item.key.toNat) ∧
      wl.push x = { wl with held := wl.held ++ [x] }) := by
  have hearly : (match leastHeld wl with | none => true | some m => decide (x.item.key.toNat ≤ m)) = true ↔
      ∀ k ∈ wl.heldKeys, x.item.key.toNat ≤ k := by
    rw [← le_leastHeld_iff]
    cases leastHeld wl <;> simp
  unfold Worklist.push
  by_cases henter : wl.window.length < wl.bound.toNat + 1 ∧ ∀ k ∈ wl.heldKeys, x.item.key.toNat ≤ k
  · exact .inl ⟨henter.1, henter.2, if_pos ⟨henter.1, hearly.2 henter.2⟩⟩
  · refine .inr ?_
    rw [if_neg fun h => henter ⟨h.1, hearly.1 h.2⟩]
    by_cases hcut : wl.window.length = wl.bound.toNat + 1 ∧ x.item.key.toNat < largestWindow wl
    · obtain ⟨y, hy, hkey, hd⟩ := demote_eq (Nat.zero_lt_of_lt hcut.2)
      exact .inl ⟨hcut.1, y, hy, hkey, hkey ▸ hcut.2, by rw [if_pos hcut, hd]⟩
    · refine .inr ⟨fun hroom => ?_, fun hfull => ?_, if_neg hcut⟩
      · simpa [hroom] using henter
      · exact Nat.le_of_not_lt fun h => hcut ⟨hfull, h⟩

/-- Of entries of distinct push orders, one and the others that have another order are them all. -/
theorem cons_filter_seq_perm {l : List Entry} (hy : y ∈ l) (hd : (l.map (·.seq)).Nodup) :
    (y :: l.filter fun z => decide (z.seq ≠ y.seq)).Perm l := by
  induction l with
  | nil => cases hy
  | cons z rest ih =>
    rw [List.map_cons, List.nodup_cons] at hd
    obtain ⟨hz, hrest⟩ := hd
    have hne : ∀ u ∈ rest, u.seq ≠ z.seq := fun u hu h => hz (List.mem_map.2 ⟨u, hu, h⟩)
    obtain rfl | hy := List.mem_cons.1 hy
    · rw [List.filter_cons_of_neg (by exact fun h => of_decide_eq_true h rfl),
        List.filter_eq_self.2 fun u hu => decide_eq_true (hne u hu)]
    · rw [List.filter_cons_of_pos (by exact decide_eq_true (hne y hy).symm)]
      exact (List.Perm.swap z y _).trans ((ih hy hrest).cons z)

/-! ### The window after a push -/

/-- R80: no key in the window is larger than a held one. -/
def Worklist.LeastInWindow (wl : Worklist) : Prop := ∀ y ∈ wl.window, ∀ k ∈ wl.heldKeys, y.item.key.toNat ≤ k

theorem Worklist.leastInWindow_iff :
    wl.LeastInWindow ↔ ∀ y ∈ wl.window, ∀ m, leastHeld wl = some m → y.item.key.toNat ≤ m := by
  simp only [LeastInWindow, le_leastHeld_iff]

theorem Worklist.mem_heldKeys_hold {l : List Entry} {k : Nat} :
    k ∈ ({ wl with window := l, held := wl.held ++ [y] } : Worklist).heldKeys ↔ k = y.item.key.toNat ∨ k ∈ wl.heldKeys := by
  simp only [heldKeys, List.map_append, List.mem_append, List.map_cons, List.map_nil, List.mem_singleton]
  exact or_assoc.trans or_left_comm

theorem Worklist.push_bound (hb : wl.window.length ≤ wl.bound.toNat + 1) (hd : (wl.window.map (·.seq)).Nodup) :
    (wl.push x).window.length ≤ (wl.push x).bound.toNat + 1 := by
  obtain ⟨hroom, -, e⟩ | ⟨hfull, y, hy, -, -, e⟩ | ⟨-, -, e⟩ := wl.push_cases x <;> rw [e]
  · simp only [List.length_append, List.length_cons, List.length_nil]
    omega
  · have hlen := (cons_filter_seq_perm hy hd).length_eq
    simp only [List.length_append, List.length_cons, List.length_nil] at hlen ⊢
    omega
  · exact hb

theorem Worklist.push_leastInWindow (hb : wl.window.length ≤ wl.bound.toNat + 1) (h : wl.LeastInWindow) :
    (wl.push x).LeastInWindow := by
  obtain ⟨-, hleast, e⟩ | ⟨-, y, hy, hbig, hlt, e⟩ | ⟨hroom, hfull, e⟩ := wl.push_cases x <;> rw [e] <;> intro z hz k hk
  · obtain hz | hz := List.mem_append.1 hz
    · exact h z hz k hk
    · exact List.mem_singleton.1 hz ▸ hleast k hk
  · have hzy : z.item.key.toNat ≤ y.item.key.toNat := by
      obtain hz | hz := List.mem_append.1 hz
      · exact hbig ▸ le_largestWindow (List.mem_filter.1 hz).1
      · exact List.mem_singleton.1 hz ▸ Nat.le_of_lt hlt
    obtain rfl | hk := mem_heldKeys_hold.1 hk
    · exact hzy
    · exact Nat.le_trans hzy (h y hy k hk)
  · obtain rfl | hk := mem_heldKeys_hold.1 hk
    · obtain hlen | hlen := Nat.lt_or_eq_of_le hb
      · obtain ⟨m, hm, hmx⟩ := hroom hlen
        exact Nat.le_trans (h z hz m hm) (Nat.le_of_lt hmx)
      · exact Nat.le_trans (le_largestWindow hz) (hfull hlen)
    · exact h z hz k hk

theorem Worklist.push_perm (hd : (wl.window.map (·.seq)).Nodup) :
    ((wl.push x).window ++ (wl.push x).held).Perm (x :: (wl.window ++ wl.held)) := by
  obtain ⟨-, -, e⟩ | ⟨-, y, hy, -, -, e⟩ | ⟨-, -, e⟩ := wl.push_cases x <;> rw [e]
  · simp
  · refine List.perm_iff_count.2 fun a => ?_
    have hcount := (cons_filter_seq_perm hy hd).count_eq a
    simp only [List.count_append, List.count_cons, List.count_nil] at hcount ⊢
    omega
  · simp [← List.append_assoc]

end Sys2Proof.Machine

open Sys2Proof Sys2Proof.Machine

/-- Settles O42, by the three things that a push comes to. -/
theorem windowHoldsTheLeastKeys : Obligations.WindowHoldsTheLeastKeys := by
  unfold Obligations.WindowHoldsTheLeastKeys
  intro wl x hb hkeys hd
  exact ⟨wl.push_bound hb hd, Worklist.leastInWindow_iff.1 (Worklist.push_leastInWindow hb (Worklist.leastInWindow_iff.2 hkeys)),
    Worklist.push_perm hd⟩

end

section
/-!
SUPPORT. Worklist instructions (R91, R422 to R426): how a push ends at its issue, at a later attempt and at its timeout, and how a
pop ends with an item and without.
-/
namespace Sys2Proof.Machine

variable {s s1 : State} {t : Thread}

/-! ### Pushes at their issue (R424) -/

/-- A counted push to a worklist of the own module that R75 accepts is made outside a region, or parks, with its job's count
raised. -/
theorem exec_push_accepted {i : Instr} {d a b : BitVec 5} {w : Nat} {item : Item}
    (hi : i = .wpush d a b ∨ i = .launch d a b ∧ item.cls = 1) (h : Issues i s t) (hr : Readable t [a, b] [d.toNat])
    (ho : t.inRegion = false) (hc : t.counted = none) (hitem : item = pushItem (t.gVal b) (t.vVal d.toNat))
    (hw : wlTarget s (t.gVal a) = some (s.modNum, w)) (hcls : item.cls < 4) (hj : jobLive s item.job = true)
    (hen : (s.wl w).en = true) (hup : countUp s item.job = some s1) :
    exec i s = .next (finish i s t (pushNow s1 t s.modNum ⟨w, item, .thread s.cur.1, true, false⟩)) := by
  have hscreen : screen s w (t.gVal a) (t.gVal b) item = none := by
    simp [screen, Nat.not_le.2 hcls, hj, hen]
  have hcount : countPush s t item.job = some s1 := by simp [countPush, hc, hup]
  subst hitem
  rcases hi with rfl | ⟨rfl, hone⟩
  · rw [exec_wpush, execWpush, pushShape, run_issues _ h.toIssuable, withSources_readable _ hr]
    simp [hw, hscreen, hcount, pushOrDefer, ho]
  · rw [exec_launch, execLaunch, pushShape, run_issues _ h.toIssuable, withSources_readable _ hr]
    simp [hw, hone, hscreen, hcount, pushOrDefer, ho]

/-- A push at its own node that finds room there is made. -/
theorem pushNow_made {m : Nat} {p : Push} {s2 : State} (hb : s.blocked t.uid = false)
    (hn : pushNode (s.drainOf t.uid) s.cur.1 m p = coreNode s.cur.1)
    (hp : (placePush (s.drainOf t.uid) s.cur.1 m p).1 = some s2) : pushNow s t m p = .ok (.next s2 t) := by
  simp [pushNow, released_free hb, hn, hp]

theorem pushNow_noRoom {m : Nat} {p : Push} (hb : s.blocked t.uid = false) (hc : t.counted = none)
    (hn : pushNode (s.drainOf t.uid) s.cur.1 m p = coreNode s.cur.1)
    (hp : (placePush (s.drainOf t.uid) s.cur.1 m p).1 = none) :
    pushNow s t m p = .ok (.parked (placePush (s.drainOf t.uid) s.cur.1 m p).2 t (.push m p s.now s.pushSeq)) := by
  simp [pushNow, released_free hb, hn, hp, ← hc]

theorem pushNow_away {m : Nat} {p : Push} (hb : s.blocked t.uid = false) (hc : t.counted = none)
    (hn : pushNode (s.drainOf t.uid) s.cur.1 m p ≠ coreNode s.cur.1) :
    pushNow s t m p = .ok (.parked (s.drainOf t.uid) t (.push m p s.now s.pushSeq)) := by
  simp [pushNow, released_free hb, hn, ← hc]

/-! ### Later attempts (R91) -/

theorem exec_parkedPushRetry_parked {core slot m since n : Nat} {p : Push} (ht : s.threadIn core slot = some t)
    (hp : t.park = some (.push m p since n)) :
    exec (.parkedPushRetry core slot) s = .next
      (if (Park.push m p since n).arrived s core t then retryPush s (core * 16 + slot) t m p else s) := by
  simp [exec_parkedPushRetry, execParkedPushRetry, atPark, State.parkedAt, ht, hp]

theorem retryPush_made {core slot m : Nat} {p : Push} (hs : slot < 16) (hp : (placePush s core m p).1 = some s1) :
    retryPush s (core * 16 + slot) t m p =
      ((s1.unload t.uid).modSlot (core * 16 + slot) Thread.complete).wake (core * 16 + slot) := by
  simp only [retryPush, show (core * 16 + slot) / 16 = core by omega, hp]

theorem retryPush_noRoom {core slot m : Nat} {p : Push} (hs : slot < 16) (hp : (placePush s core m p).1 = none) :
    retryPush s (core * 16 + slot) t m p = (placePush s core m p).2 := by
  simp only [retryPush, show (core * 16 + slot) / 16 = core by omega, hp]

/-- The timeout of a counted push of the own module that has waited as long as its worklist's TOUT allows. -/
theorem exec_pushTimeout_due {core slot since n : Nat} {p : Push} (ht : s.threadIn core slot = some t)
    (hp : t.park = some (.push s.modNum p since n)) (hclosing : t.closing = false) (htout : (s.wl p.wl).tout ≠ 15)
    (hdue : since + 2 ^ ((s.wl p.wl).tout.toNat + 10) ≤ s.now) (hcounted : p.counted = true) :
    exec (.pushTimeout core slot) s = .next (takeTrap (countDown s p.item.job 1) (core * 16 + slot)
      { t with park := some (.retry .settling) } 12 (BitVec.ofNat 64 (p.wl + s.modNum * 64))) := by
  have htout' : (s.wl p.wl).tout.toNat ≠ 15 := fun h => htout (BitVec.eq_of_toNat_eq h)
  simp [exec_pushTimeout, execPushTimeout, atPark, State.parkedAt, ht, hp, pushDeadline, htout', hdue, timeoutPush, hcounted,
    hclosing]

/-! ### Pops (R425) -/

theorem reserve_outside {core : Nat} (h : t.inRegion = false) : reserve s core t = .ok () := reserveAll_outside h

theorem logOp_outside {core : Nat} (h : t.inRegion = false) (r : UndoRec) : logOp s core t r = .ok (s, t) := by
  simp [logOp, h]

/-- An item that is not poisoned fills its register outside a region, and its job's count falls. -/
theorem givePop_outside {k w wab : Nat} {d : BitVec 5} {x : Entry} (ho : t.inRegion = false) (hx : x.poison = false) :
    givePop s k t w d x wab = ((countDown s x.item.job 1).putSlot k
      (({ t with wab := BitVec.ofNat 12 wab } : Thread).setV d.toNat (x.item.bits.zeroExtend 512)).advance).wake k := by
  simp [givePop, logOp_outside ho, ho, hx]
  rfl

/-- A pop outside a region of an enabled worklist of the own module comes to the pans. -/
theorem popShape_outside {i : Instr} {d a : BitVec 5} {w : Nat} (empty : State → Thread → Nat → Except Stop Eff)
    (h : Issues i s t) (hr : Readable t [a] []) (ho : t.inRegion = false) (hw : ownTarget s (t.gVal a) = some w)
    (hen : (s.wl w).en = true) :
    (∀ x wab, (popAt s w (panOf s.cur.1)).1 = some (x, wab) → popShape i d a empty s =
      .next (givePop (popAt s w (panOf s.cur.1)).2 s.curSlot t w d x wab)) ∧
    ((popAt s w (panOf s.cur.1)).1 = none → popShape i d a empty s = .next (finish i s t (empty s t w))) := by
  rw [popShape, run_issues _ h.toIssuable, withSources_readable _ hr]
  simp only [hw, hen, check_true, reserve_outside ho]
  exact ⟨fun x wab hp => by simp only [hp, h.notLast, Bool.not_false, check_true, finish_gone], fun hp => by rw [hp]⟩

/-! ### What the parts come to -/

/-- A push outside a region: it waits for its thread's earlier stores, is made at its own node, and parks where that has no room or
where it goes to another (R24, R91, R93, R238). -/
theorem exec_push_cases {i : Instr} {d a b : BitVec 5} {w : Nat} {item : Item} {p : Push} {sd : State}
    (hi : i = .wpush d a b ∨ i = .launch d a b ∧ item.cls = 1) (h : Issues i s t) (hr : Readable t [a, b] [d.toNat])
    (ho : t.inRegion = false) (hc : t.counted = none) (hitem : item = pushItem (t.gVal b) (t.vVal d.toNat))
    (hw : wlTarget s (t.gVal a) = some (s.modNum, w)) (hcls : item.cls < 4) (hj : jobLive s item.job = true)
    (hen : (s.wl w).en = true) (hup : countUp s item.job = some s1) (hp : p = ⟨w, item, .thread s.cur.1, true, false⟩)
    (hcur : s1.cur = s.cur) (hsd : sd = s1.drainOf t.uid) :
    (s1.blocked t.uid = true → exec i s = .next (parkIn s s.curSlot t (.retry .stores))) ∧
    (s1.blocked t.uid = false → pushNode sd s.cur.1 s.modNum p = coreNode s.cur.1 →
      (∀ s2, (placePush sd s.cur.1 s.modNum p).1 = some s2 → exec i s = .next (s2.putThread t.advance)) ∧
      ((placePush sd s.cur.1 s.modNum p).1 = none → exec i s =
        .next (parkIn (placePush sd s.cur.1 s.modNum p).2 s.curSlot t (.push s.modNum p s1.now s1.pushSeq)))) ∧
    (s1.blocked t.uid = false → pushNode sd s.cur.1 s.modNum p ≠ coreNode s.cur.1 →
      exec i s = .next (parkIn sd s.curSlot t (.push s.modNum p s1.now s1.pushSeq))) := by
  have e : exec i s = .next (finish i s t (pushNow s1 t s.modNum p)) :=
    hp ▸ exec_push_accepted hi h hr ho hc hitem hw hcls hj hen hup
  subst hsd
  rw [e, ← hcur]
  refine ⟨fun hb => ?_, fun hb hn => ⟨fun s2 hm => ?_, fun hm => ?_⟩, fun hb hn => ?_⟩
  · rw [pushNow, released_blocked hb, finish_park _ h.notLast]
  · rw [pushNow_made hb hn hm, finish_next _ _ h.notLast]
  · rw [pushNow_noRoom hb hc hn hm, finish_parked _ _ _ h.notLast]
  · rw [pushNow_away hb hc hn, finish_parked _ _ _ h.notLast]

/-- WPOP and WTRY of a worklist that has an item. -/
theorem exec_pop_item {i : Instr} {d a : BitVec 5} {w wab : Nat} {x : Entry} (hi : i = .wpop d a ∨ i = .wtry d a)
    (h : Issues i s t) (hr : Readable t [a] []) (ho : t.inRegion = false) (hw : ownTarget s (t.gVal a) = some w)
    (hen : (s.wl w).en = true) (hp : popAt s w (panOf s.cur.1) = (some (x, wab), s1)) (hx : x.poison = false) :
    exec i s = .next (((countDown s1 x.item.job 1).putSlot s.curSlot
      (({ t with wab := BitVec.ofNat 12 wab } : Thread).setV d.toNat (x.item.bits.zeroExtend 512)).advance).wake s.curSlot) := by
  rw [← givePop_outside (w := w) ho hx, show s1 = (popAt s w (panOf s.cur.1)).2 by rw [hp]]
  rcases hi with rfl | rfl
  · exact (popShape_outside _ h hr ho hw hen).1 x wab (by rw [hp])
  · exact (popShape_outside _ h hr ho hw hen).1 x wab (by rw [hp])

end Sys2Proof.Machine

open Sys2Proof Sys2Proof.Machine

/-- Settles O43, by its parts: pushes at their issue, later attempts and the timeout, WSTAT, and pops with and without an item. -/
theorem worklistsComplete : Obligations.WorklistsComplete := by
  unfold Obligations.WorklistsComplete
  refine ⟨fun i s s1 sd t d a b w item p hi h hr ho hc hitem hw hcls hj hen hup hp hcur hsd => ?_,
    fun s core slot m since n t p ht hp hclosing => ⟨fun ha => ?_, fun ha => ⟨fun s1 hm hs => ?_, fun hm hs => ?_⟩, ?_⟩,
    fun s t d a w ho hw => ⟨fun h hr hk => ?_, fun i s1 x wab hi h hr hen hp hx => ?_,
      fun hen hp => ⟨fun h hr => ?_, fun h hr => ?_⟩⟩⟩
  case refine_1 =>
    obtain ⟨hblocked, hown, haway⟩ := exec_push_cases hi h hr ho hc hitem hw hcls hj hen hup hp hcur hsd
    refine ⟨hblocked, fun hb hn => ?_, haway⟩
    obtain ⟨hmade, hnoRoom⟩ := hown hb hn
    exact ⟨fun s2 hm _ => hmade s2 hm, hnoRoom⟩
  case refine_2 => rw [exec_parkedPushRetry_parked ht hp, ha]; rfl
  case refine_3 => rw [exec_parkedPushRetry_parked ht hp, if_pos ha, retryPush_made hs hm]
  case refine_4 => rw [exec_parkedPushRetry_parked ht hp, if_pos ha, retryPush_noRoom hs hm]
  case refine_5 =>
    rintro rfl htout hdue hcounted
    exact exec_pushTimeout_due ht hp hclosing htout hdue hcounted
  case refine_6 =>
    rw [exec_wstat, execWstat, run_issues _ h.toIssuable, withSources_readable _ hr, hw]
    exact congrArg _ (finish_retG h.notLast hk)
  case refine_7 => exact exec_pop_item hi h hr ho hw hen hp hx
  case refine_8 =>
    exact ((popShape_outside _ h hr ho hw hen).2 hp).trans (by rw [finish_parked _ _ _ h.notLast])
  case refine_9 =>
    exact ((popShape_outside _ h hr ho hw hen).2 hp).trans (by rw [finish_next _ _ h.notLast])

end

section
/-!
SUPPORT. The flush of a job of this module (R122): each reply answers one of the requests that are out, and a job whose count has
reached zero twice has two of them out to a module.
-/
namespace Sys2Proof.Machine

variable {s : State} {m j : Nat}

/-- A reply that reports no lost item takes its module off the awaited ones once; while others are awaited the job stays. -/
theorem exec_jobFlushReply_awaits (hm : m ∈ (s.job j).flushing) (ho : (s.job j).flushing.erase m ≠ []) :
    exec (.jobFlushReply m j 0) s = .next (s.modJob j fun x => { x with flushing := x.flushing.erase m }) := by
  rw [exec_jobFlushReply, execJobFlushReply, if_pos (List.contains_iff_mem.2 hm)]
  exact congrArg _ (if_neg fun h => ho h.1)

/-- A job with POD of a module whose pod has two others, as its count has reached zero. -/
def podJob : State := { State.reset with pod := [0, 2, 3] }.setJob 5 { Job.free with live := true, pod := true }

/-- The same job when an item that the flush brought has raised its count and that has reached zero again, before any reply. -/
def askedTwice : State := jobZero (jobZero podJob 5) 5

theorem askedTwice_job : askedTwice.job 5 = { Job.free with live := true, pod := true, flushing := [2, 3, 2, 3] } := by
  decide

end Sys2Proof.Machine

open Sys2Proof Sys2Proof.Machine

/-- Refutes O58, in its last clause: where a job's count has reached zero twice before the first replies, module 2 has two requests to
answer, and after one reply it is awaited still. -/
theorem not_proxiesForwardAndFlush : ¬ Obligations.ProxiesForwardAndFlush := by
  unfold Obligations.ProxiesForwardAndFlush
  rintro ⟨-, -, -, hreply⟩
  have hflushing : (askedTwice.job 5).flushing = [2, 3, 2, 3] := by rw [askedTwice_job]
  have hcount : (askedTwice.job 5).count = 0 := by rw [askedTwice_job]; rfl
  have hreplied : exec (.jobFlushReply 2 5 0) askedTwice =
      .next (askedTwice.modJob 5 fun x => { x with flushing := x.flushing.erase 2 }) :=
    exec_jobFlushReply_awaits (by simp [hflushing]) (by simp [hflushing])
  obtain ⟨s', he, -, -, -, hf⟩ := hreply askedTwice 2 5 0 (by simp [hflushing]) hcount ⟨3, by simp [hflushing]⟩
  obtain rfl := Host.Outcome.next.inj (hreplied.symm.trans he)
  have hawaited : 2 ∈ (askedTwice.job 5).flushing.erase 2 := by rw [hflushing]; decide
  rw [State.job_modJob_same] at hf
  exact ((hf 2).1 hawaited).2 rfl

end

section
/-!
SUPPORT. Memory right after reset (R36, R468).
-/
namespace Sys2Proof.Machine

/-- Outside the stretches whose contents are open after reset, memory reads as zero there. -/
theorem reset_byte_zero {a : Nat} (h : a < Place.unit ∨ 4 * Place.unit ≤ a) : State.reset.mem.byte a = 0 := by
  have hspan : State.reset.mem.spanAt a = none := by
    rw [Memory.spanAt_none_iff]
    intro sp hsp
    simp only [State.reset, openAtReset, List.mem_cons, List.not_mem_nil, or_false] at hsp
    rcases hsp with rfl | rfl | rfl <;> simp only [Span.covers, Place.unit] at h ⊢ <;> omega
  rw [Memory.byte, Memory.unlisted, hspan]
  rfl

end Sys2Proof.Machine

open Sys2Proof Sys2Proof.Machine

/-- Settles O54: each value is the reset state's own, and the bytes lie outside the stretches whose contents are open. -/
theorem resetValues : Obligations.ResetValues := by
  unfold Obligations.ResetValues
  refine ⟨rfl, rfl, rfl, rfl, rfl, rfl, rfl, rfl, by decide, fun a h => reset_byte_zero (.inl h), fun c off h => ?_,
    fun w => ⟨rfl, rfl, rfl, rfl⟩, fun j => rfl, fun c => ⟨rfl, rfl, rfl, rfl, rfl, rfl, rfl⟩,
    fun d => ⟨rfl, rfl, rfl, rfl, rfl, rfl, rfl⟩⟩
  exact reset_byte_zero (.inr (by unfold Place.bstore; omega))

end

section
/-!
SUPPORT. The turn of a core (R131, R149): which core issues, which word its thread executes, and how the turn ends (R140, R148).
-/
namespace Sys2Proof.Machine

variable {s s0 b : State} {t u v : Thread} {c c0 n k : Nat} {i : Instr}

/-! ### Which core issues -/

/-- While a core can issue, the step is its turn: of the core that the agenda names next where that can issue, and else of the
first that can. -/
theorem step_issueOn (hs : s.stopped = false) (hi : issuable s = some c0)
    (hc : (∃ rest, s.agenda = .issue c :: rest ∧ issues s c = true ∧ s0 = { s with agenda := rest }) ∨
      (c = c0 ∧ s0 = s ∧ ∀ c' rest, s.agenda = .issue c' :: rest → issues s c' = false)) :
    step s = issueOn s0 c s.now := by
  have hstep : step s = issueTurn s c0 := by simp only [step, hs, hi, Bool.false_eq_true, if_false]
  rw [hstep]
  rcases hc with ⟨rest, ha, hissues, rfl⟩ | ⟨rfl, rfl, hnone⟩
  · simp only [issueTurn, ha, hissues, if_true]
  · unfold issueTurn
    split
    · rename_i c' rest ha
      rw [hnone c' rest ha]
      rfl
    · rfl

theorem State.threadIn_eq_some_iff : s.threadIn c n = some t ↔ NatMap.get s.slots (c * 16 + n) .empty = .busy t := by
  unfold State.threadIn State.slot
  split <;> simp_all

/-- The thread that is picked begins its issue. -/
theorem issueOn_picked {at' : Nat} {acc : State}
    (hp : pickSlot s c at' (issueOrder (s.core c).lastSlot) s = (some (n, t), acc)) (ht : acc.threadIn c n = some t) :
    issueOn s c at' = issueWord (beginIssue acc c n at' t) := by
  simp only [issueOn, hp, State.threadIn_eq_some_iff.1 ht]

/-- The thread of slot `n` of its core once it has begun to issue in cycle `at`. -/
def Thread.begun (t : Thread) (at' : Nat) : Thread :=
  { t with
    lastIssue := some at', readyAt := at' + 8, issued := t.issued + 1, skipPhase := t.skipPhase + 1
    yieldTo := [], yieldEnd := 0, again := false }

theorem beginIssue_thread? (s : State) (c n at' : Nat) (t : Thread) :
    (beginIssue s c n at' t).thread? = some (t.begun at') := by
  rw [State.thread?, State.threadIn_eq_some_iff]
  exact NatMap.get_set_same _ _ _ _

theorem fetchPoisoned_beginIssue (s : State) (c n at' : Nat) (t : Thread) :
    fetchPoisoned (beginIssue s c n at' t) c (t.begun at') = fetchPoisoned s c t := rfl

/-! ### What a thread issues -/

/-- The fetch changes the buffer of the thread alone. -/
theorem fillBuffer_eq (s : State) (c : Nat) (t : Thread) : ∃ f, fillBuffer s c t = { t with fetchBuf := f } := by
  unfold fillBuffer
  dsimp only
  split
  · split <;> exact ⟨_, rfl⟩
  · exact ⟨_, rfl⟩

@[simp] theorem fillBuffer_spoiled (s : State) (c : Nat) (t : Thread) : (fillBuffer s c t).spoiled = t.spoiled := by
  obtain ⟨f, h⟩ := fillBuffer_eq s c t
  rw [h]

@[simp] theorem fillBuffer_owed (s : State) (c : Nat) (t : Thread) : (fillBuffer s c t).owed = t.owed := by
  obtain ⟨f, h⟩ := fillBuffer_eq s c t
  rw [h]

@[simp] theorem fillBuffer_pair (s : State) (c : Nat) (t : Thread) : (fillBuffer s c t).pair = t.pair := by
  obtain ⟨f, h⟩ := fillBuffer_eq s c t
  rw [h]

/-- A thread that has no error to consume and owes nothing fetches the word at its PC. -/
theorem prepared_fetches (hsp : t.spoiled = false) (ho : t.owed = none) (hf : fetchPoisoned s c t = false) :
    prepared s c t = fillBuffer s c t := by
  simp [prepared, hsp, hf, ho]

theorem issueWord_fetches (hb : b.thread? = some u) (hsp : u.spoiled = false) (ho : u.owed = none)
    (hf : fetchPoisoned b b.cur.1 u = false) (hv : v = fillBuffer b b.cur.1 u) :
    issueWord b = afterOthers b b.curSlot v (issueBody (b.putThread v) v false) := by
  simp only [issueWord, hb, prepared_fetches hsp ho hf, hv]

/-- A thread that runs alone executes the word that it has fetched. -/
theorem issueBody_alone (met : Bool) (hsp : t.spoiled = false) (ho : t.owed = none) (hp : t.pair = false) :
    issueBody s t met = settled (exec (issuedInstr (fetchedWord t)) s) := by
  simp [issueBody, hsp, ho, hp]

/-- The leading thread of a redundant pair issues it as R262 says. -/
theorem issueBody_pair (hsp : t.spoiled = false) (ho : t.owed = none) (hp : t.pair = true) :
    issueBody s t false = issueLeading s t (issuedInstr (fetchedWord t)) := by
  simp [issueBody, hsp, ho, hp]

theorem issueLeading_compares (hc : comparesAt t i = true) :
    issueLeading s t i = settled (.next (parkIn s s.curSlot t .compare)) := by
  simp [issueLeading, hc, settled]

theorem issueLeading_ahead {s1 : State} (hc : comparesAt t i = false) (he : exec i (s.putThread t.runAhead) = .next s1) :
    issueLeading s t i = settled (.next (noteTrail s t i s1)) := by
  simp [issueLeading, hc, he, settled]

theorem issuedInstr_ok {w : BitVec 32} (h : decodeWord w = .ok i) : issuedInstr w = i := by simp [issuedInstr, h]

theorem issuedInstr_error {w : BitVec 32} {e : DecodeError} (h : decodeWord w = .error e) :
    issuedInstr w = .illegalInstructionWord w := by simp [issuedInstr, h]

/-! ### How the turn ends -/

/-- A turn that comes to `o` ends as `EndsTurn` says (R140, R148). -/
theorem afterOthers_endsTurn (s : State) (k : Nat) (t : Thread) (o : Host.Outcome State Fault Refusal) :
    Claims.EndsTurn s k t (afterOthers s k t (settled o)) o := by
  cases o with
  | next s1 =>
    refine ⟨fun s2 h ha => ?_, fun s2 h ha => ?_, fun h => absurd rfl (h s1)⟩
    · obtain rfl := Host.Outcome.next.inj h
      simp only [settled, afterOthers, ha, if_true]
    · obtain rfl := Host.Outcome.next.inj h
      simp only [settled, afterOthers, ha, Bool.false_eq_true, if_false]
  | fault f => exact ⟨(fun s2 h => nomatch h), (fun s2 h => nomatch h), fun _ => rfl⟩
  | refused r => exact ⟨(fun s2 h => nomatch h), (fun s2 h => nomatch h), fun _ => rfl⟩

section
variable (hb : b.thread? = some u) (hsp : u.spoiled = false) (ho : u.owed = none) (hf : fetchPoisoned b b.cur.1 u = false)
  (hv : v = fillBuffer b b.cur.1 u)
include hb hsp ho hf hv

/-- The turn of a thread that runs alone. -/
theorem issueWord_alone (hp : u.pair = false) :
    Claims.EndsTurn b b.curSlot v (issueWord b) (exec (issuedInstr (fetchedWord v)) (b.putThread v)) := by
  rw [issueWord_fetches hb hsp ho hf hv, issueBody_alone false (by simp [hv, hsp]) (by simp [hv, ho]) (by simp [hv, hp])]
  exact afterOthers_endsTurn _ _ _ _

/-- The turn of the leading thread of a pair, at the comparator. -/
theorem issueWord_compares (hp : u.pair = true) (hi : issuedInstr (fetchedWord v) = i) (hc : comparesAt v i = true) :
    Claims.EndsTurn b b.curSlot v (issueWord b) (.next (parkIn (b.putThread v) b.curSlot v .compare)) := by
  rw [issueWord_fetches hb hsp ho hf hv, issueBody_pair (by simp [hv, hsp]) (by simp [hv, ho]) (by simp [hv, hp]), hi,
    issueLeading_compares hc]
  exact afterOthers_endsTurn _ _ _ _

/-- The turn of the leading thread of a pair that runs ahead. -/
theorem issueWord_ahead {s1 : State} (hp : u.pair = true) (hi : issuedInstr (fetchedWord v) = i)
    (hc : comparesAt v i = false) (he : exec i ((b.putThread v).putThread v.runAhead) = .next s1) :
    Claims.EndsTurn b b.curSlot v (issueWord b) (.next (noteTrail (b.putThread v) v i s1)) := by
  rw [issueWord_fetches hb hsp ho hf hv, issueBody_pair (by simp [hv, hsp]) (by simp [hv, ho]) (by simp [hv, hp]), hi,
    issueLeading_ahead hc he]
  exact afterOthers_endsTurn _ _ _ _

end

/-! ### What waits for the issues of its cycle -/

/-- The first thread that waits for the issues of its cycle goes on before anything else (log entry 1). -/
theorem overdue_resume (h : s.residents.find? (fun e => decide (e.2.park = some (.retry .issues))) = some (k, t)) :
    overdue s = some (.resume k) := by
  have hfirst : (s.residents.filterMap fun e =>
      if e.2.park = some (.retry .issues) then some (s.now, Turn.resume e.1) else none).find?
        (fun x => decide (x.1 ≤ s.now)) = some (s.now, .resume k) := by
    have hpick : (fun e : Nat × Thread => (if e.2.park = some (.retry .issues) then some (s.now, Turn.resume e.1)
        else none).any fun x => decide (x.1 ≤ s.now)) = fun e => decide (e.2.park = some (.retry .issues)) := by
      funext e
      split <;> simp_all
    have hpark : t.park = some (.retry .issues) := by simpa using List.find?_some h
    rw [List.find?_filterMap, hpick, h, Option.bind_some, if_pos hpark]
  unfold overdue dueTurns
  simp only [List.append_assoc]
  rw [List.find?_append, hfirst]
  rfl

theorem step_resumes (hs : s.stopped = false) (hi : issuable s = none)
    (h : s.residents.find? (fun e => decide (e.2.park = some (.retry .issues))) = some (k, t)) :
    step s = resumeTurn { s with issueFrom := s.now + 1 } k := by
  simp only [step, hs, hi, turnOf, overdue_resume h, Bool.false_eq_true, if_false, takeTurn]

theorem resumeTurn_executes (hk : NatMap.get s.slots k .empty = .busy t) (hp : t.park = some (.retry .issues))
    (hsp : t.spoiled = false) (ho : t.owed = none) (hpair : t.pair = false) :
    resumeTurn s k = settled (exec (issuedInstr (fetchedWord t))
      ({ s with cur := (k / 16, k % 16) }.putSlot k { t with park := none })) := by
  simp only [resumeTurn, hk, hp, if_true]
  exact issueBody_alone true hsp ho hpair

/-! ### The word at the PC -/

theorem ofBytes_four (b0 b1 b2 b3 : Byte) : BitVec.ofNat 32 (ofBytes [b0, b1, b2, b3]) = b3 ++ b2 ++ b1 ++ b0 := by
  apply BitVec.eq_of_toNat_eq
  have h0 := b0.isLt
  have h1 := b1.isLt
  have h2 := b2.isLt
  have h3 := b3.isLt
  simp only [ofBytes, List.foldr_cons, List.foldr_nil, BitVec.toNat_ofNat, BitVec.toNat_append]
  rw [← Nat.shiftLeft_add_eq_or_of_lt h2, ← Nat.shiftLeft_add_eq_or_of_lt h1, ← Nat.shiftLeft_add_eq_or_of_lt h0]
  simp only [Nat.shiftLeft_eq]
  omega

/-- Four bytes of a read. -/
theorem Memory.read_four (m : Memory) {a n r : Nat} (h : r + 4 ≤ n) :
    ((m.read a n).drop r).take 4 = [m.byte (a + r), m.byte (a + r + 1), m.byte (a + r + 2), m.byte (a + r + 3)] := by
  have hr : ((List.range n).drop r).take 4 = [r, r + 1, r + 2, r + 3] := by
    rw [List.range_eq_range', List.drop_range', List.take_range'_of_length_ge (by omega), Nat.zero_add, Nat.mul_one]
    rfl
  rw [Memory.read_eq, ← List.map_drop, ← List.map_take, hr]
  simp [Nat.add_assoc]

theorem fetchedWord_fillBuffer (hpc : t.pc.toNat % 4 = 0) (hb : t.fetchBuf = none) :
    fetchedWord (fillBuffer s c t) =
      s.mem.byte (Place.lm c t.pc.toNat + 3) ++ s.mem.byte (Place.lm c t.pc.toNat + 2) ++
        s.mem.byte (Place.lm c t.pc.toNat + 1) ++ s.mem.byte (Place.lm c t.pc.toNat) := by
  have hplace : Place.lm c (t.pc.toNat / 64 * 64) + (t.pc.toNat - t.pc.toNat / 64 * 64) = Place.lm c t.pc.toNat := by
    unfold Place.lm
    omega
  have hread := s.mem.read_four (a := Place.lm c (t.pc.toNat / 64 * 64)) (n := 64)
    (r := t.pc.toNat - t.pc.toNat / 64 * 64) (by omega)
  simp only [fillBuffer, hb, fetchedWord, State.bytes, hread, hplace, ofBytes_four]

end Sys2Proof.Machine

open Sys2Proof Sys2Proof.Machine

/-- Settles O4, by the turn of the core that issues, by the thread that has waited for the issues of its cycle,
and by the fetch. -/
theorem stepExecutesDecodedWord : Obligations.StepExecutesDecodedWord := by
  unfold Obligations.StepExecutesDecodedWord
  refine ⟨fun s s0 c c0 n t acc hs hi hc hp ht hn hsp ho hf => ?_, fun s k t hs hi hfind hk hsp ho hpair => ?_,
    fun s c t hpc hb => fetchedWord_fillBuffer hpc hb⟩
  case refine_1 =>
    have hcore : s0.core c = s.core c := by rcases hc with ⟨rest, -, -, rfl⟩ | ⟨-, rfl, -⟩ <;> rfl
    have hstep : step s = issueWord (beginIssue acc c n s.now t) := by
      rw [step_issueOn hs hi hc, issueOn_picked (hcore ▸ hp) ht]
    have hb := beginIssue_thread? acc c n s.now t
    have hfetch := (fetchPoisoned_beginIssue acc c n s.now t).trans hf
    rw [hstep]
    refine ⟨_, _, _, rfl, rfl, hb, rfl, fun hpair => ⟨fun i h => ?_, fun e h => ?_⟩,
      fun hpair i h => ⟨fun hcmp => ?_, fun s1 hcmp he => ?_⟩⟩
    · exact issuedInstr_ok h ▸ issueWord_alone hb hsp ho hfetch rfl hpair
    · exact issuedInstr_error h ▸ issueWord_alone hb hsp ho hfetch rfl hpair
    · exact issueWord_compares hb hsp ho hfetch rfl hpair (issuedInstr_ok h) hcmp
    · exact issueWord_ahead hb hsp ho hfetch rfl hpair (issuedInstr_ok h) hcmp he
  case refine_2 =>
    have hpark : t.park = some (.retry .issues) := by simpa using List.find?_some hfind
    rw [step_resumes hs hi hfind]
    exact resumeTurn_executes (s := { s with issueFrom := s.now + 1 }) hk hpark hsp ho hpair

end

section
/-!
SUPPORT. Instructions of one cycle (R318, R319, R322 to R329): each reads its sources and returns the value that the rules give
it; and what becomes of it where a source is PIN or the destination is POUT (R142).
-/
namespace Sys2Proof.Machine

/-! ### Values (R323, R324, R326 to R329) -/

theorem flagWord_eq_truth (p : Prop) [Decidable p] : flagWord (decide p) = Claims.truth p := by
  simp [flagWord, Claims.truth]

theorem shiftCount_eq_amount (b : Word) : shiftCount b = Claims.amount b := by
  simp [shiftCount, Claims.amount]

theorem rotateLeft_eq_or (x : Word) {n : Nat} (h : n < 64) : x.rotateLeft n = x <<< n ||| x >>> (64 - n) := by
  rw [BitVec.rotateLeft_def, Nat.mod_eq_of_lt h]

theorem rotateLeft_amount (x b : Word) :
    x.rotateLeft (Claims.amount b) = x <<< Claims.amount b ||| x >>> (64 - Claims.amount b) :=
  rotateLeft_eq_or x (Nat.mod_lt _ (by decide))

theorem rotateLeft_code (x : Word) (n : BitVec 6) : x.rotateLeft n.toNat = x <<< n.toNat ||| x >>> (64 - n.toNat) :=
  rotateLeft_eq_or x n.isLt

/-- A strict test and its weak form choose alike where they differ only between equals. -/
theorem ite_strict_eq_ite_weak {α : Type} {P Q : Prop} [Decidable P] [Decidable Q] {x y : α} (h : P → Q)
    (he : Q → ¬P → x = y) : (if P then x else y) = if Q then x else y := by
  by_cases hp : P
  · rw [if_pos hp, if_pos (h hp)]
  · by_cases hq : Q
    · rw [if_neg hp, if_pos hq, he hq hp]
    · rw [if_neg hp, if_neg hq]

/-- A lane read as signed is its bit vector read as signed. -/
theorem signedLane_toNat {w : Nat} (hw : 0 < w) (x : BitVec w) : signedLane w x.toNat = x.toInt := by
  obtain ⟨k, rfl⟩ : ∃ k, w = k + 1 := ⟨w - 1, by omega⟩
  rw [BitVec.toInt_eq_toNat_cond, signedLane, Nat.add_sub_cancel, Nat.pow_succ]
  push_cast
  split <;> split <;> omega

/-- An extension with the sign of the low `n` bits. -/
theorem signExtend_setWidth {n : Nat} (hn : 0 < n) (a : Word) :
    (a.setWidth n).signExtend 64 = BitVec.ofInt 64 (signedLane n (a.toNat % 2 ^ n)) := by
  rw [← BitVec.toNat_setWidth, signedLane_toNat hn]
  rfl

theorem zeroExtend_setWidth (n : Nat) (a : Word) :
    (a.setWidth n).zeroExtend 64 = BitVec.ofNat 64 (a.toNat % 2 ^ n) := by
  apply BitVec.eq_of_toNat_eq
  simp

/-- The width codes of SEXT and ZEXT (R322): 3 is reserved. -/
theorem extCode_cases {w : BitVec 2} (h : w ≠ 3) : w = 0 ∨ w = 1 ∨ w = 2 := by
  revert w
  decide

theorem signExt_eq {w : BitVec 2} (h : w ≠ 3) (a : Word) : signExt w a =
    if w = 0 then (a.setWidth 8).signExtend 64
    else if w = 1 then (a.setWidth 16).signExtend 64 else (a.setWidth 32).signExtend 64 := by
  rw [signExtend_setWidth (by decide), signExtend_setWidth (by decide), signExtend_setWidth (by decide)]
  rcases extCode_cases h with rfl | rfl | rfl <;> rfl

theorem zeroExt_eq {w : BitVec 2} (h : w ≠ 3) (a : Word) : zeroExt w a =
    if w = 0 then (a.setWidth 8).zeroExtend 64
    else if w = 1 then (a.setWidth 16).zeroExtend 64 else (a.setWidth 32).zeroExtend 64 := by
  rw [zeroExtend_setWidth, zeroExtend_setWidth, zeroExtend_setWidth]
  rcases extCode_cases h with rfl | rfl | rfl <;> rfl

/-- The high half of an exact product is that of the product of 128 bits. -/
theorem highHalf_eq (p : Int) : highHalf p = (BitVec.ofInt 128 p).extractLsb' 64 64 := by
  apply BitVec.eq_of_toNat_eq
  simp only [highHalf, BitVec.extractLsb'_toNat, BitVec.toNat_ofInt, Nat.shiftRight_eq_div_pow]
  omega

theorem ofInt_toInt (n : Nat) (x : Word) : BitVec.ofInt n x.toInt = x.signExtend n := rfl

theorem ofInt_toNat (n : Nat) (x : Word) : BitVec.ofInt n (x.toNat : Int) = x.zeroExtend n := by
  apply BitVec.eq_of_toNat_eq
  simp

theorem highHalf_signed (x y : Word) :
    highHalf (x.toInt * y.toInt) = (x.signExtend 128 * y.signExtend 128).extractLsb' 64 64 := by
  rw [highHalf_eq, BitVec.ofInt_mul, ofInt_toInt, ofInt_toInt]

theorem highHalf_unsigned (x y : Word) :
    highHalf ((x.toNat : Int) * (y.toNat : Int)) = (x.zeroExtend 128 * y.zeroExtend 128).extractLsb' 64 64 := by
  rw [highHalf_eq, BitVec.ofInt_mul, ofInt_toNat, ofInt_toNat]

theorem highHalf_mixed (x y : Word) :
    highHalf (x.toInt * (y.toNat : Int)) = (x.signExtend 128 * y.zeroExtend 128).extractLsb' 64 64 := by
  rw [highHalf_eq, BitVec.ofInt_mul, ofInt_toInt, ofInt_toNat]

theorem min_signed (x y : Word) : (if x.toInt < y.toInt then x else y) = if x.toInt ≤ y.toInt then x else y :=
  ite_strict_eq_ite_weak Int.le_of_lt fun hle hlt => BitVec.eq_of_toInt_eq (Int.le_antisymm hle (Int.not_lt.1 hlt))

theorem min_unsigned (x y : Word) : (if x.toNat < y.toNat then x else y) = if x.toNat ≤ y.toNat then x else y :=
  ite_strict_eq_ite_weak Nat.le_of_lt fun hle hlt => BitVec.eq_of_toNat_eq (Nat.le_antisymm hle (Nat.not_lt.1 hlt))

theorem max_signed (x y : Word) : (if x.toInt < y.toInt then y else x) = if y.toInt ≤ x.toInt then x else y := by
  simp only [← Int.not_lt, ite_not]

theorem max_unsigned (x y : Word) : (if x.toNat < y.toNat then y else x) = if y.toNat ≤ x.toNat then x else y := by
  simp only [← Nat.not_lt, ite_not]

theorem immSigned_eq (t : Thread) (i : BitVec 16) : immSigned t.himm i = Claims.signedImm t i := rfl

theorem immZero_eq (t : Thread) (i : BitVec 16) : immZero t.himm i = Claims.zeroImm t i := rfl

/-! ### The shape of these instructions -/

variable {s : State} {t u : Thread} {i : Instr} {d : BitVec 5} {gs : List (BitVec 5)} {w flit : Word}

/-- A meaning that reads the sources `gs` and returns `val` of its thread in register `d`. -/
def returning (d : BitVec 5) (gs : List (BitVec 5)) (val : Thread → Word) (s : State) (t : Thread) : Except Stop Eff :=
  withSources s t gs [] fun s t => retG s t d (val t)

theorem returning_noSource (d : BitVec 5) (val : Thread → Word) : returning d [] val = fun s t => retG s t d (val t) := by
  funext s t
  exact withSources_readable _ ⟨by simp, by simp, by simp, by simp, by simp⟩

/-- Each instruction of the table reads its sources and returns the value that the table gives. -/
theorem exec_scalar (h : Claims.scalarResult u i = some (d, gs, w)) (hw : i.wf = true) :
    ∃ val : Thread → Word, val u = w ∧ ∀ s, exec i s = run i (returning d gs val) s := by
  unfold Claims.scalarResult at h
  split at h <;> cases h
  -- SEXT and ZEXT, whose code 3 is reserved
  case h_22 a code => exact ⟨fun t => signExt code (t.gVal a), signExt_eq (of_decide_eq_true hw) _, fun _ => rfl⟩
  case h_23 a code => exact ⟨fun t => zeroExt code (t.gVal a), zeroExt_eq (of_decide_eq_true hw) _, fun _ => rfl⟩
  -- LDHI and ADDPC read no register
  case h_38 imm => exact ⟨fun t => immLdhi t.himm imm, rfl, fun s => by rw [returning_noSource]; rfl⟩
  case h_39 imm => exact ⟨fun t => t.pc.zeroExtend 64 + immSigned t.himm imm, rfl, fun s => by rw [returning_noSource]; rfl⟩
  all_goals refine ⟨_, ?_, fun _ => rfl⟩
  case h_29.refl | h_30.refl => exact flagWord_eq_truth _
  all_goals
    simp only [flagWord_eq_truth, shiftCount_eq_amount, rotateLeft_amount, rotateLeft_code, min_signed, min_unsigned,
      max_signed, max_unsigned, highHalf_signed, highHalf_unsigned, highHalf_mixed, immSigned_eq, immZero_eq]

/-! ### What becomes of them -/

/-- The instruction takes the flit at the head of its queue and completes (R142, R318). -/
theorem exec_scalar_pin {rest : List Word} (he : t.port.en = true) (ho : t.inRegion = false)
    (h : Claims.scalarResult { t with taken := some (t.pinQueue, flit) } i = some (d, gs, w)) (h28 : (28 : BitVec 5) ∈ gs)
    (hi : Issues i s t) (hfull : ∀ r ∈ gs, t.gIsFull r = true) (hgood : ∀ r ∈ gs, t.gBad r = false) (hk : t.keeps d)
    (ht : t.taken = none) (hq : s.queue s.cur.1 t.pinQueue = flit :: rest) :
    exec i s = completesWith ((s.setQueue s.cur.1 t.pinQueue rest).queueRoom s.cur.1 t.pinQueue)
      { t with taken := some (t.pinQueue, flit) } d w := by
  obtain ⟨val, hval, hexec⟩ := exec_scalar h hi.formed
  have hread := readSources_pin (vs := []) hfull (by simp) hgood (by simp) he h28 ht ho hq
  rw [hexec, run_issues _ hi.toIssuable, returning, withSources, hread]
  dsimp only
  rw [hval, retG_keeps (t := { t with taken := some (t.pinQueue, flit) }) w hk, finish_next _ _ hi.notLast, completesWith]

theorem exec_scalar_noFlit (he : t.port.en = true) (ho : t.inRegion = false) (h : Claims.scalarResult u i = some (d, gs, w))
    (h28 : (28 : BitVec 5) ∈ gs) (hi : Issues i s t) (hfull : ∀ r ∈ gs, t.gIsFull r = true)
    (hgood : ∀ r ∈ gs, t.gBad r = false) (ht : t.taken = none) (hq : s.queue s.cur.1 t.pinQueue = []) :
    exec i s = .next (parkIn s s.curSlot t (.retry (.pinQueue t.pinQueue s.pushSeq))) := by
  obtain ⟨val, -, hexec⟩ := exec_scalar h hi.formed
  have hread := readSources_noFlit (vs := []) hfull (by simp) hgood (by simp) he h28 ht ho hq
  rw [hexec, run_issues _ hi.toIssuable, returning, withSources, hread]
  exact congrArg _ (finish_park _ hi.notLast)

/-- A flit that the thread has been given while it was parked is the one that it reads. -/
theorem exec_scalar_taken {x : Nat × Word} (h : Claims.scalarResult t i = some (d, gs, w)) (hi : Issues i s t)
    (hfull : ∀ r ∈ gs, t.gIsFull r = true) (hgood : ∀ r ∈ gs, t.gBad r = false) (hk : t.keeps d) (ht : t.taken = some x) :
    exec i s = completesWith s t d w := by
  obtain ⟨val, hval, hexec⟩ := exec_scalar h hi.formed
  have hread := readSources_taken (s := s) (vs := []) hfull (by simp) hgood (by simp) ht
  rw [hexec, run_issues _ hi.toIssuable, returning, withSources, hread]
  dsimp only
  rw [hval, finish_retG hi.notLast hk, completesWith]

/-- With sources that can be read without a flit the instruction comes to the return of its result. -/
theorem exec_scalar_readable (h : Claims.scalarResult t i = some (d, gs, w)) (hi : Issues i s t) (hr : Readable t gs []) :
    exec i s = .next (finish i s t (retG s t d w)) := by
  obtain ⟨val, hval, hexec⟩ := exec_scalar h hi.formed
  rw [hexec, run_issues _ hi.toIssuable, returning, withSources_readable _ hr, hval]

end Sys2Proof.Machine

open Sys2Proof Sys2Proof.Machine

/-- Settles O6, by what the sources come to where PIN is among them and by where a result for POUT goes. -/
theorem portRegistersComplete : Obligations.PortRegistersComplete := by
  unfold Obligations.PortRegistersComplete
  refine ⟨fun i s t d gs w flit rest he ho h h28 hi hfull hgood hk => ⟨fun ht hq => ?_, fun ht hq => ?_, fun ht => ?_⟩,
    fun i s t gs w he ho h hi hr => ⟨fun hroom => ?_, fun hroom => ?_⟩⟩
  case refine_1 => exact exec_scalar_pin he ho h h28 hi hfull hgood hk ht hq
  case refine_2 => exact exec_scalar_noFlit he ho h h28 hi hfull hgood ht hq
  case refine_3 =>
    have hsame : ({ t with taken := some (t.pinQueue, flit) } : Thread) = t := by rw [← ht]
    rw [hsame] at h
    exact exec_scalar_taken h hi hfull hgood hk ht
  case refine_4 => rw [exec_scalar_readable h hi hr, retG_pout w he rfl ho hroom, finish_next _ _ hi.notLast]
  case refine_5 => rw [exec_scalar_readable h hi hr, retG_poutFull w he rfl ho hroom, finish_parked _ _ _ hi.notLast]

end

section
/-!
SUPPORT. Scalar accesses to memory away from the core (R134, R135, R168, R227): what leaves the core, what walks, what faults; and
what the completion of an access comes to at its home (R345, R225, R238).
-/
namespace Sys2Proof.Machine

variable {s s0 : State} {t : Thread} {i : Instr} {r : Req} {p : Part} {a : Claims.Access} {write : Bool} {core slot k : Nat}

/-! ### Scalar loads and stores before translation -/

theorem loadShape_issues {d b : BitVec 5} {o : BitVec 12} {len : Nat} {signed : Bool} (hi : Issues i s t)
    (hr : Readable t [b] []) : loadShape i d b o len signed s =
      .next (finish i s t (accessAt s t (Claims.scaled t b o len) len len false (.load d signed) [] t.hmodScope)) := by
  rw [loadShape, run_issues _ hi.toIssuable, withSources_readable _ hr]
  rfl

theorem storeShape_issues {x b : BitVec 5} {o : BitVec 12} {len : Nat} (hi : Issues i s t) (hr : Readable t [b, x] []) :
    storeShape i x b o len s = .next (finish i s t
      (accessAt s t (Claims.scaled t b o len) len len false .store (toBytes len (t.gVal x).toNat) t.hmodScope)) := by
  rw [storeShape, run_issues _ hi.toIssuable, withSources_readable _ hr]
  rfl

/-- A load makes its access once its base is read (R345, R346). -/
theorem exec_load {d : BitVec 5} {signed : Bool} (h : Claims.loadOf t i = some (a, d, signed)) (hi : Issues i s t)
    (hr : Readable t a.srcs []) :
    exec i s = .next (finish i s t (accessAt s t a.va a.size a.size false (.load d signed) [] a.scope)) := by
  unfold Claims.loadOf at h
  split at h <;> cases h
  case h_8 =>
    rw [exec_lda, execLda, ldsyncShape, run_issues _ hi.toIssuable, withSources_readable _ hr]
    rfl
  all_goals exact loadShape_issues hi hr

/-- A store makes its access once its base and its value are read (R345, R346). -/
theorem exec_store {x : BitVec 5} (h : Claims.storeOf t i = some (a, x)) (hi : Issues i s t) (hr : Readable t a.srcs []) :
    exec i s = .next (finish i s t
      (accessAt s t a.va a.size a.size false .store (toBytes a.size (t.gVal x).toNat) a.scope)) := by
  unfold Claims.storeOf at h
  split at h <;> cases h
  case h_5 =>
    rw [exec_stl, execStl, stsyncShape, run_issues _ hi.toIssuable, withSources_readable _ hr]
    rfl
  all_goals exact storeShape_issues hi hr

/-! ### Pages -/

/-- An access to a page that nothing defers or logs leaves the core. -/
theorem sendReq_page (hparts : r.parts = [p]) (ht : Place.tier p.loc = .hbm ∨ Place.tier p.loc = .cxl)
    (hpub : (t.inRegion && r.isPublication) = false) (hlog : logReq s core t r = .ok (s, t)) :
    sendReq s core t r = .ok (.parked s t (.access r)) := by
  have hlocal : Place.tier p.loc ≠ .localMem := by rcases ht with h | h <;> rw [h] <;> decide
  have hadm : admitParts s core t r.op.needs.1 r.op.needs.2 r.parts = .ok () := by
    rcases ht with h | h <;> simp only [hparts, admitParts, admitPart, h]
  have hfix : r.isFixed core = false := by simp [Req.isFixed, hparts, hlocal]
  simp [sendReq, hparts, hlocal, hparts ▸ hadm, launchReq, hpub, hlog, hfix]

/-- What an instruction that makes one scalar access asks of it: the request that it sends to a place, which nothing defers or
logs. -/
structure MakesAccess (i : Instr) (s : State) (t : Thread) (a : Claims.Access) (write : Bool) (r : Nat → Req) (op : MemOp)
    (data : List Byte) : Prop where
  meaning : exec i s = .next (finish i s t (accessAt s t a.va a.size a.size false op data a.scope))
  needs : op.needs = (!write, write)
  request : ∀ loc, r loc = ⟨op, [⟨a.va, loc, a.size, data, 0⟩], a.scope⟩
  atOnce : ∀ loc, (t.inRegion && (r loc).isPublication) = false
  unlogged : ∀ loc, logReq s s.cur.1 t (r loc) = .ok (s, t)

theorem load_makesAccess {d : BitVec 5} {signed : Bool} (h : Claims.loadOf t i = some (a, d, signed)) (hi : Issues i s t)
    (hr : Readable t a.srcs []) : MakesAccess i s t a false (Claims.loadReq (a, d, signed)) (.load d signed) [] where
  meaning := exec_load h hi hr
  needs := rfl
  request _ := rfl
  atOnce _ := by simp [Req.isPublication, Claims.loadReq]
  unlogged _ := by simp [logReq, Req.isPlainStore, Claims.loadReq]

theorem store_makesAccess {x : BitVec 5} (h : Claims.storeOf t i = some (a, x)) (ho : t.inRegion = false) (hi : Issues i s t)
    (hr : Readable t a.srcs []) :
    MakesAccess i s t a true (Claims.storeReq t (a, x)) .store (toBytes a.size (t.gVal x).toNat) where
  meaning := exec_store h hi hr
  needs := rfl
  request _ := rfl
  atOnce _ := by rw [ho, Bool.false_and]
  unlogged _ := logReq_outside ho

variable {f : Nat → Req} {op : MemOp} {data : List Byte} {tr : Trans}

/-- Through a cached translation that grants it the access leaves the core. -/
theorem MakesAccess.page (h : MakesAccess i s t a write f op data) (hl : t.atLastWord = false)
    (hp : Claims.InPage s t a write tr) : exec i s = .next (parkIn s s.curSlot t (.access (f (tr.place a.va)))) := by
  have hspot : locate s s.cur.1 t ⟨!write, write, t.sv⟩ 0 a.size a.va .paged =
      .ok ⟨⟨a.va, tr.place a.va, a.size, [], 0⟩, some (Pte.attr tr.leaf), false, false⟩ := by
    simp only [locate, hp.cached, hp.granted, if_true]
  have hres := resolve_one (fullBits := false) hp.target hp.aligned hspot rfl
  have hsend := sendReq_page (by rw [h.request (tr.place a.va)]) (Trans.place_tier hp.place) (h.atOnce _) (h.unlogged _)
  have haccess : accessAt s t a.va a.size a.size false op data a.scope = access s t (f (tr.place a.va)) := by
    simp only [accessAt, h.needs, hres, h.request]
    rfl
  rw [h.meaning, haccess, access_parked hsend, finish_parked _ _ _ hl]

/-- Without a translation the thread parks for a walk (R168). -/
theorem MakesAccess.walk (h : MakesAccess i s t a write f op data) (hl : t.atLastWord = false)
    (ht : targetOf s.cur.1 s.pod a.va = some .paged) (ha : a.va.toNat % a.size = 0)
    (hc : cachedTrans s s.cur.1 t.asid a.va write = none) :
    exec i s = .next (parkIn s s.curSlot t (.walk a.va (!write) write)) := by
  rw [h.meaning, accessAt, h.needs, resolve_walk ht ha hc]
  exact congrArg _ (finish_park _ hl)

/-- A page that does not grant it is an access fault (R168, R250). -/
theorem MakesAccess.refused (h : MakesAccess i s t a write f op data) (ht : targetOf s.cur.1 s.pod a.va = some .paged)
    (ha : a.va.toNat % a.size = 0) (hc : cachedTrans s s.cur.1 t.asid a.va write = some tr)
    (hg : (Need.mk (!write) write t.sv).granted tr.leaf = false) : exec i s = .next (takeTrap s s.curSlot t 3 a.va) := by
  rw [h.meaning, accessAt, h.needs, resolve_refused ht ha hc hg]
  rfl

/-! ### The end of an access at its home -/

theorem exec_accessCompletion_access (ht : s.threadIn core slot = some t) (hp : t.park = some (.access r)) :
    exec (.accessCompletion core slot) s = .next (arrivedAccess s (core * 16 + slot) t r) := by
  simp [exec_accessCompletion, execAccessCompletion, atPark, State.parkedAt, ht, hp]

theorem exec_accessCompletion_ending {result : Option (BitVec 5 × Word)} (ht : s.threadIn core slot = some t)
    (hp : t.park = some (.ending result)) : exec (.accessCompletion core slot) s =
      .next (deliver s (core * 16 + slot) t (result.elim .nothing fun x => .g x.1 x.2)) := by
  simp [exec_accessCompletion, execAccessCompletion, atPark, State.parkedAt, ht, hp]

/-- A request whose packets are on their way, or that releases stores which cannot be performed yet, waits (R24, R228). -/
theorem arrivedAccess_waits (hk : k / 16 = core)
    (h : deliveredTo s core t r = false ∨ (r.releases = true ∧ s.blocked t.uid = true)) : arrivedAccess s k t r = s := by
  subst hk
  rw [arrivedAccess, serveAtHome, if_pos]
  simpa using h

/-- One that meets a request which reached its home before it is at its home, and waits there (R238). -/
theorem arrivedAccess_behind (hk : k / 16 = core) (hd : deliveredTo s core t r = true)
    (hb : (r.releases && s.blocked t.uid) = false) (h : (s.arrive t r).behind t r = true) :
    arrivedAccess s k t r = s.arrive t r := by
  subst hk
  have hserved : ¬(¬deliveredTo s (k / 16) t r ∨ (r.releases ∧ s.blocked t.uid)) := by simpa [hd] using hb
  rw [arrivedAccess, serveAtHome, if_neg hserved, if_pos h]

theorem arrivedAccess_served (hk : k / 16 = core) (hd : deliveredTo s core t r = true)
    (hb : (r.releases && s.blocked t.uid) = false) (h : (s.arrive t r).behind t r = false) :
    arrivedAccess s k t r = completeAccess { s.arrive t r with
      arrived := (s.arrive t r).arrived.filter fun x => decide (x ≠ (t.uid, t.issued)) } k t r := by
  subst hk
  have hserved : ¬(¬deliveredTo s (k / 16) t r ∨ (r.releases ∧ s.blocked t.uid)) := by simpa [hd] using hb
  rw [arrivedAccess, serveAtHome, if_neg hserved, if_neg (by simp [h])]

/-- A request with an address that a transfer has delivered poisoned is a detected error (R59). -/
theorem completeAccess_poisoned {va : Word} (h : badPart ((countRequest s r).unload t.uid) t r = some va) :
    completeAccess s k t r = consumeError ((countRequest s r).unload t.uid) k t va := by
  simp only [completeAccess, h]

section
variable {s1 : State} (hs : s0 = (countRequest s r).unload t.uid) (hb : badPart s0 t r = none)
  (hl : logReq s0 (k / 16) t r = .ok (s0, t))
include hs hb hl

/-- Any other that nothing logs ends with what its operation brings. -/
theorem completeAccess_ok {f : Fill} {flags : FlagSet} (hp : perform s0 t r = .ok s1 f flags) :
    completeAccess s k t r = deliverFlags s1 k (afterReq s1 t r) r.op f flags := by
  subst hs
  simp only [completeAccess, hb, hl, hp]

theorem completeAccess_error {va : Word} (hp : perform s0 t r = .error va) :
    completeAccess s k t r = consumeError s0 k t va := by
  subst hs
  simp only [completeAccess, hb, hl, hp]

end

/-! ### What a load and a plain store do there -/

theorem find?_unreachable_eq_none {l : List Part} (h : ∀ x ∈ l, reachable s x.loc = true) :
    (l.find? fun x => !reachable s x.loc) = none := by
  simpa using h

/-- A load reads its place after the thread's earlier stores to it (R227), unless that is poisoned (R60). -/
theorem perform_load {d : BitVec 5} {signed : Bool} (hop : r.op = .load d signed) (hp : r.parts = [p])
    (hr : reachable s p.loc = true) : perform s t r =
      if (s.drainTo t.uid [(p.loc, p.len)]).poisonIn p.loc p.len then .error p.va
      else .ok (s.drainTo t.uid [(p.loc, p.len)])
        (.g d (loadValue signed (ownView (s.drainTo t.uid [(p.loc, p.len)]) t p.loc p.len))) 0 := by
  have hreach := find?_unreachable_eq_none (s := s) (l := [p]) (by simpa using hr)
  simp only [perform, hp, hreach, hop]
  rfl

/-- A plain store away from the own local memory is accepted unit by unit (R225). -/
theorem perform_store (hop : r.op = .store) (hsc : r.scope = none) (hp : r.parts = [p]) (hr : reachable s p.loc = true)
    (hd : p.data ≠ []) (ho : Place.ownOf (s.coreOf t.uid) p.loc = false) :
    perform s t r = .ok { s with stores := s.stores ++ storeUnits t.uid (s.coreOf t.uid) s.now p } .nothing 0 := by
  have hreach := find?_unreachable_eq_none (s := s) (l := [p]) (by simpa using hr)
  simp [perform, hp, hreach, hop, hsc, layDown, hd, ho]

theorem ofBytes_lt (bytes : List Byte) : ofBytes bytes < 2 ^ (8 * bytes.length) := by
  induction bytes with
  | nil => simp [ofBytes]
  | cons x rest ih =>
    have hx := x.isLt
    have hcons : ofBytes (x :: rest) = x.toNat + 256 * ofBytes rest := rfl
    rw [hcons, List.length_cons, Nat.mul_succ, Nat.pow_add]
    omega

@[simp] theorem overlay_length (p : Nat) (old : List Byte) (loc : Nat) (data : List Byte) :
    (overlay p old loc data).length = old.length := by simp [overlay]

theorem foldl_overlay_length {α : Type} (p : Nat) (loc : α → Nat) (data : α → List Byte) (l : List α) (old : List Byte) :
    (l.foldl (fun b x => overlay p b (loc x) (data x)) old).length = old.length := by
  induction l generalizing old with
  | nil => rfl
  | cons x rest ih => rw [List.foldl_cons, ih, overlay_length]

/-- A thread's own view of a stretch has its length. -/
theorem ownView_length (s : State) (t : Thread) (p n : Nat) : (ownView s t p n).length = n := by
  rw [ownView, foldl_overlay_length p Part.loc Part.data,
    foldl_overlay_length p (fun x : Nat × Nat × Nat × List Byte => x.2.2.1) fun x => x.2.2.2, State.bytes, Memory.read_eq,
    List.length_map, List.length_range]

/-- The bytes of a load as its value: extended with the sign of the highest, or with zeros (R5, R345). -/
theorem loadValue_eq_loaded (signed : Bool) {bytes : List Byte} (h0 : bytes ≠ []) :
    loadValue signed bytes = Claims.loaded signed bytes := by
  have hpos : 0 < 8 * bytes.length := by
    have := List.length_pos_iff.2 h0
    omega
  cases signed with
  | false => rfl
  | true =>
    have hlt : ofBytes bytes < 2 ^ (8 * bytes.length) := ofBytes_lt bytes
    have hsigned := signedLane_toNat hpos (BitVec.ofNat (8 * bytes.length) (ofBytes bytes))
    rw [BitVec.toNat_ofNat, Nat.mod_eq_of_lt hlt] at hsigned
    simp only [loadValue, Claims.loaded, if_true, hsigned]
    rfl

/-! ### The end at its thread -/

/-- An operation that changes nothing of memory leaves what its thread's regions hold (R252). -/
theorem afterReq_unchanging (hop : ∀ d f, r.op ≠ .tget d f) (h : r.op.changes = (false, false)) : afterReq s t r = t := by
  unfold afterReq
  split
  · exact absurd ‹_› (hop _ _)
  · exact if_pos h

/-- Where no flag is raised none traps. -/
theorem deliverFlags_result (s : State) (k : Nat) (t : Thread) (op : MemOp) (d : BitVec 5) (w : Word) :
    deliverFlags s k t op (.g d w) 0 = deliverFlagged s k t d w 0 := if_pos BitVec.zero_and

theorem deliverFlags_nothing (s : State) (k : Nat) (t : Thread) (op : MemOp) :
    deliverFlags s k t op .nothing 0 = deliver s k t .nothing :=
  (if_pos BitVec.zero_and).trans (congrArg (deliver s k · .nothing) (Thread.flagged_zero t))

theorem deliverFlagged_keeps {d : BitVec 5} {w : Word} (hk : t.keeps d) (hc : t.closing = false) :
    deliverFlagged s k t d w 0 = (s.putSlot k (t.wrote d w).advance).wake k := by
  have hdone : ((t.wrote d w).flagged 0).complete = (t.wrote d w).advance :=
    (congrArg _ (Thread.flagged_zero _)).trans (Thread.complete_open (by simp [hc]))
  simp only [deliverFlagged, writeG_keeps w _ hk, hdone]
  rfl

theorem deliver_nothing (hc : t.closing = false) : deliver s k t .nothing = (s.putSlot k t.advance).wake k := by
  simp only [deliver, Thread.complete_open hc]
  rfl

/-! ### Access and completion together -/

variable {s1 : State}

theorem logReq_load {d : BitVec 5} {signed : Bool} (hop : r.op = .load d signed) : logReq s core t r = .ok (s, t) := by
  simp [logReq, Req.isPlainStore, hop]

section
variable {d : BitVec 5} {signed : Bool} (hs : s0 = (countRequest s r).unload t.uid)
  (hs1 : s1 = s0.drainTo t.uid [(p.loc, p.len)]) (hp : r.parts = [p]) (hr : reachable s0 p.loc = true)
  (hop : r.op = .load d signed) (hb : badPart s0 t r = none)
include hs hs1 hp hr hop hb

/-- A load that its home performs ends with its value at its thread. -/
theorem completeAccess_load (hpoison : s1.poisonIn p.loc p.len = false) (hk : t.keeps d) (hc : t.closing = false)
    (hlen : 0 < p.len) : completeAccess s k t r =
      (s1.putSlot k (t.wrote d (Claims.loaded signed (ownView s1 t p.loc p.len))).advance).wake k := by
  subst hs1
  have hafter (x : State) : afterReq x t r = t := afterReq_unchanging (by simp [hop]) (by rw [hop]; rfl)
  have hbytes : ownView (s0.drainTo t.uid [(p.loc, p.len)]) t p.loc p.len ≠ [] :=
    List.ne_nil_of_length_pos (by rw [ownView_length]; exact hlen)
  rw [completeAccess_ok hs hb (logReq_load hop) ((perform_load hop hp hr).trans (if_neg (by simp [hpoison]))), hafter,
    deliverFlags_result, deliverFlagged_keeps hk hc, loadValue_eq_loaded signed hbytes]

/-- One that meets poison there is a detected error of its thread (R60, R260). -/
theorem completeAccess_loadPoisoned (hpoison : s1.poisonIn p.loc p.len = true) :
    completeAccess s k t r = consumeError s0 k t p.va := by
  subst hs1
  exact completeAccess_error hs hb (logReq_load hop) ((perform_load hop hp hr).trans (if_pos hpoison))

end

/-- A plain store of a thread without an open region that its home accepts. -/
theorem completeAccess_store (hs : s0 = (countRequest s r).unload t.uid) (hp : r.parts = [p])
    (hr : reachable s0 p.loc = true) (hop : r.op = .store) (hsc : r.scope = none) (hl : t.levels = []) (hd : p.data ≠ [])
    (ho : Place.ownOf (s0.coreOf t.uid) p.loc = false) (hc : t.closing = false) :
    completeAccess s k t r = (({ s0 with stores := s0.stores ++ storeUnits t.uid (s0.coreOf t.uid) s0.now p } : State).putSlot
      k t.advance).wake k := by
  have hbad : badPart s0 t r = none := by simp [badPart, hop, MemOp.needs]
  have hlog : logReq s0 (k / 16) t r = .ok (s0, t) := logReq_outside (by simp [Thread.inRegion, hl])
  rw [completeAccess_ok hs hbad hlog (perform_store hop hsc hp hr hd ho), afterReq_open hl (by simp [hop]),
    deliverFlags_nothing, deliver_nothing hc]

end Sys2Proof.Machine

open Sys2Proof Sys2Proof.Machine

/-- Settles O15: a load and a store of the table each make one access, whose page is cached and grants it, is not cached, or
refuses it. -/
theorem pagedAccessesLeaveTheCore : Obligations.PagedAccessesLeaveTheCore := by
  unfold Obligations.PagedAccessesLeaveTheCore
  intro i s t a write r h hi hr
  obtain ⟨op, data, hacc⟩ : ∃ op data, MakesAccess i s t a write r op data := by
    rcases h with ⟨d, g, h, rfl, rfl⟩ | ⟨v, h, rfl, ho, rfl⟩
    · exact ⟨_, _, load_makesAccess h hi hr⟩
    · exact ⟨_, _, store_makesAccess h ho hi hr⟩
  exact ⟨fun tr hp => hacc.page hi.notLast hp, fun ht ha => ⟨fun hc => hacc.walk hi.notLast ht ha hc,
    fun tr hc hg => hacc.refused ht ha hc hg⟩⟩

/-- Settles O16, by what a request comes to at its home, and by what its operation does once it is served. -/
theorem accessCompletionPerformsTheAccess : Obligations.AccessCompletionPerformsTheAccess := by
  unfold Obligations.AccessCompletionPerformsTheAccess
  refine ⟨fun s s0 s1 core slot t r p hslot ht hpark hparts hs0 hs1 hreach hclosing => ?_,
    fun s core slot t hslot ht hclosing => ⟨fun hpark => ?_, fun d w hpark hk => ?_⟩⟩
  case refine_1 =>
    have hk : (core * 16 + slot) / 16 = core := by omega
    rw [exec_accessCompletion_access ht hpark]
    refine ⟨fun hd => by rw [arrivedAccess_waits hk (.inl hd)],
      fun hrel hb => by rw [arrivedAccess_waits hk (.inr ⟨hrel, hb⟩)],
      fun hd hb hbehind => by rw [arrivedAccess_behind hk hd hb hbehind], fun hd hb hbehind => ?_⟩
    rw [arrivedAccess_served hk hd hb hbehind]
    refine ⟨fun d signed hop hbad hpoison hkeeps _ hlen => ?_, fun hop hsc hlev hdata hown => ?_,
      fun d signed hop hbad hpoison => ?_, fun va hbad => ?_⟩
    · exact congrArg _ (completeAccess_load hs0 hs1 hparts hreach hop hbad hpoison hkeeps hclosing hlen)
    · exact congrArg _ (completeAccess_store hs0 hparts hreach hop hsc hlev hdata hown hclosing)
    · exact congrArg _ (completeAccess_loadPoisoned hs0 hs1 hparts hreach hop hbad hpoison)
    · subst hs0
      exact congrArg _ (completeAccess_poisoned hbad)
  case refine_2 => rw [exec_accessCompletion_ending ht hpark]; exact congrArg _ (deliver_nothing hclosing)
  case refine_3 => rw [exec_accessCompletion_ending ht hpark]; exact congrArg _ (deliverG_keeps w hk hclosing)

end

section
/-!
SUPPORT. Tiles (R177 to R181, R184 to R190, R434 to R436): what becomes of a tile's count, said once for the three that lower it, how
each instruction of the TILE group ends outside a region, and what a TGET comes to once its bytes have arrived (R60).
-/
namespace Sys2Proof.Machine

variable {s : State} {t : Thread} {i : Instr} {h : Word} {die n : Nat} {x : Tile} {core k : Nat} {who : Taker}

/-! ### The count of a tile (R185, R188) -/

/-- A tile whose count a thread has lowered to `c` outside a region. -/
def Tile.lowered (x : Tile) (c : BitVec 12) (uid : Nat) : Tile := { x with count := c, freePending := false, zeroBy := uid }

/-- A count is spent by at least as many reads as it has left. -/
theorem sub_min_eq_zero_iff (c : BitVec 12) (n : Nat) : c - BitVec.ofNat 12 (Nat.min n c.toNat) = 0 ↔ c.toNat ≤ n := by
  have hc : c.toNat < 2 ^ 12 := c.isLt
  have hzero : (0 : BitVec 12).toNat = 0 := rfl
  have hlt : Nat.min n c.toNat < 2 ^ 12 := Nat.lt_of_le_of_lt (Nat.min_le_right n _) hc
  rw [← BitVec.toNat_inj, BitVec.toNat_sub, BitVec.toNat_ofNat, Nat.mod_eq_of_lt hlt, hzero]
  rcases Nat.le_total n c.toNat with hle | hle
  · rw [show Nat.min n c.toNat = n from Nat.min_eq_left hle]
    omega
  · rw [show Nat.min n c.toNat = c.toNat from Nat.min_eq_right hle]
    omega

/-- A handle that is not current faults (R185). -/
theorem consumeTile_stale (hx : currentTile s h = none) : consumeTile s core t h n who = .error (.trap 8 h) := by
  simp only [consumeTile, hx]

section
variable (ho : t.inRegion = false) (hx : currentTile s h = some (die, x))
include ho hx

/-- An unsealed tile holds up whoever would lower its count (R185, R188). -/
theorem consumeTile_unsealed (hs : x.sealed = false) (hw : who = .abandon → x.persistent = false) :
    consumeTile s core t h n who = .error (.park (.retry (.seal die x.base))) := by
  have hallowed : ¬(who = .abandon ∧ x.persistent = true) := fun hc => by simp [hw hc.1] at hc
  simp only [consumeTile, hx, if_neg hallowed, reserve_outside ho, hs, Bool.false_eq_true, not_false_eq_true, if_true]

/-- A read of a sealed persistent tile counts nothing (R185). -/
theorem consumeTile_persistent (hs : x.sealed = true) (hp : x.persistent = true) :
    consumeTile s core t h n .read = .ok (s, t, none) := by
  simp [consumeTile, hx, reserve_outside ho, hs, hp]

section
variable (hs : x.sealed = true) (hp : x.persistent = false)
include hs hp

/-- A count that is spent faults (R185, R188). -/
theorem consumeTile_spent (hc : x.count = 0) : consumeTile s core t h n who = .error (.trap 8 h) := by
  simp [consumeTile, hx, reserve_outside ho, hs, hp, hc]

theorem consumeTile_zero (hc : x.count ≠ 0) : consumeTile s core t h 0 who = .ok (s, t, none) := by
  simp [consumeTile, hx, reserve_outside ho, hs, hp, show ¬x.count = 0#12 from hc]

/-- A count that is left falls, and a tile brought to zero is named for its free (R185, R186, R188). -/
theorem consumeTile_counted (hc : x.count ≠ 0) (hn : n ≠ 0) : consumeTile s core t h n who =
    .ok (setTile s die (x.lowered (x.count - BitVec.ofNat 12 (Nat.min n x.count.toNat)) t.uid), t,
      if x.count.toNat ≤ n then some (die, x.base, x.gen) else none) := by
  have hzero := sub_min_eq_zero_iff x.count n
  simp only [consumeTile, hx, hp, reserve_outside ho, hs, logOp_outside ho, if_neg hc, if_neg hn, ho, hzero, Tile.lowered]
  simp

end
end

/-! ### Operations on a tile of the thread's own space (R187) -/

/-- The handle names no tile of a job in another space than the thread's, which would be refused (R187). -/
def OwnSpace (s : State) (t : Thread) (h : Word) : Prop := (currentTile s h).all (fun x => tileAdmits s t x.2) = true

theorem ownSpace_stale (hx : currentTile s h = none) : OwnSpace s t h := by simp [OwnSpace, hx]

theorem ownSpace_current (hx : currentTile s h = some (die, x)) (ha : tileAdmits s t x = true) : OwnSpace s t h := by
  simpa [OwnSpace, hx] using ha

theorem ofSpace_own (ha : OwnSpace s t h) (rest : Except Stop Eff) : ofSpace s t h rest = rest := by
  rw [ofSpace, show ((currentTile s h).all fun x => tileAdmits s t x.2) = true from ha, check_true]

/-! ### TSEAL and TFREE (R184, R189) -/

section
variable {a : BitVec 5} {c : BitVec 4}

theorem exec_tseal_stale (hi : Issuable (.tseal a c) s t) (hr : Readable t [a] []) (hx : currentTile s (t.gVal a) = none) :
    exec (.tseal a c) s = .next (takeTrap s s.curSlot t 8 (t.gVal a)) := by
  rw [exec_tseal, execTseal, run_issues _ hi, withSources_readable _ hr, ofSpace_own (ownSpace_stale hx), hx]
  rfl

theorem exec_tfree_stale (hi : Issuable (.tfree a) s t) (hr : Readable t [a] []) (hx : currentTile s (t.gVal a) = none) :
    exec (.tfree a) s = .next (takeTrap s s.curSlot t 8 (t.gVal a)) := by
  rw [exec_tfree, execTfree, run_issues _ hi, withSources_readable _ hr, ofSpace_own (ownSpace_stale hx), hx]
  rfl

variable (hr : Readable t [a] []) (hx : currentTile s (t.gVal a) = some (die, x)) (ha : tileAdmits s t x = true)
include hr hx ha

/-- A second seal is a sealed-write fault (R184). -/
theorem exec_tseal_sealed (hi : Issues (.tseal a c) s t) (hs : x.sealed = true) :
    exec (.tseal a c) s = .next (takeTrap s s.curSlot t 9 (t.gVal a)) := by
  rw [exec_tseal, execTseal, run_issues _ hi.toIssuable, withSources_readable _ hr, ofSpace_own (ownSpace_current hx ha), hx]
  simp only [if_pos hs, finish_trap]

/-- Outside a region a seal is a release, and waits for the stores that it releases (R184, R238). -/
theorem exec_tseal_unsealed (hi : Issues (.tseal a c) s t) (ho : t.inRegion = false) (hs : x.sealed = false) :
    exec (.tseal a c) s = .next (finish (.tseal a c) s t (released s t (.ok (.next (sealTile (s.drainOf t.uid) die x c) t)))) := by
  rw [exec_tseal, execTseal, run_issues _ hi.toIssuable, withSources_readable _ hr, ofSpace_own (ownSpace_current hx ha), hx]
  simp only [hs, ho, Bool.false_eq_true, if_false]

theorem exec_tfree_frees (hi : Issues (.tfree a) s t) (ho : t.inRegion = false) (hf : x.sealed = false ∨ x.persistent = true) :
    exec (.tfree a) s = .next ((freeTile s die x).putThread t.advance) := by
  have hfree : (x.sealed && !x.persistent) = false := by rcases hf with hf | hf <;> simp [hf]
  rw [exec_tfree, execTfree, run_issues _ hi.toIssuable, withSources_readable _ hr, ofSpace_own (ownSpace_current hx ha), hx]
  simp only [hfree, ho, Bool.false_eq_true, if_false, finish_next _ _ hi.notLast]

end

/-! ### TDROP and TABANDON (R185, R188) -/

/-- How TDROP and TABANDON end with what has become of the count. -/
def countEnd : Except Stop (State × Thread × Option (Nat × Nat × BitVec 12)) → Except Stop Eff
  | .error e => .error e
  | .ok (s1, t1, frees) => .ok (.next (freeNext s1 frees) t1)

/-- The instruction lowers by `n` the count of the tile that handle `h` names, and does nothing else. -/
def Lowers (i : Instr) (s : State) (t : Thread) (h : Word) (n : Nat) (who : Taker) : Prop :=
  exec i s = .next (finish i s t (countEnd (consumeTile s s.cur.1 t h n who)))

theorem tdrop_lowers {a : BitVec 5} (hi : Issuable (.tdrop a) s t) (hr : Readable t [a] []) (ha : OwnSpace s t (t.gVal a)) :
    Lowers (.tdrop a) s t (t.gVal a) 1 .drop := by
  rw [Lowers, exec_tdrop, execTdrop, run_issues _ hi, withSources_readable _ hr, ofSpace_own ha]
  rfl

theorem tabandon_lowers {a b : BitVec 5} (hi : Issuable (.tabandon a b) s t) (hr : Readable t [a, b] [])
    (hn : (t.gVal b).toNat ≤ 4095) (ha : OwnSpace s t (t.gVal a)) :
    Lowers (.tabandon a b) s t (t.gVal a) (t.gVal b).toNat .abandon := by
  rw [Lowers, exec_tabandon, execTabandon, run_issues _ hi, withSources_readable _ hr]
  simp only [hn, decide_true, check_true, ofSpace_own ha]
  rfl

theorem Lowers.stale (hl : Lowers i s t h n who) (hx : currentTile s h = none) :
    exec i s = .next (takeTrap s s.curSlot t 8 h) := by
  rw [hl, consumeTile_stale hx]
  rfl

section
variable (hl : Lowers i s t h n who) (ho : t.inRegion = false) (hx : currentTile s h = some (die, x))
include hl ho hx

theorem Lowers.unsealed (hlast : t.atLastWord = false) (hs : x.sealed = false) (hw : who = .abandon → x.persistent = false) :
    exec i s = .next (parkIn s s.curSlot t (.retry (.seal die x.base))) := by
  rw [hl, consumeTile_unsealed ho hx hs hw]
  exact congrArg _ (finish_park _ hlast)

variable (hs : x.sealed = true) (hp : x.persistent = false)
include hs hp

theorem Lowers.spent (hc : x.count = 0) : exec i s = .next (takeTrap s s.curSlot t 8 h) := by
  rw [hl, consumeTile_spent ho hx hs hp hc]
  rfl

variable (hlast : t.atLastWord = false)
include hlast

/-- Some of the count is left. -/
theorem Lowers.some_left (hn : 0 < n) (hc : n < x.count.toNat) :
    exec i s = .next ((setTile s die (x.lowered (x.count - BitVec.ofNat 12 n) t.uid)).putThread t.advance) := by
  have hc0 : x.count ≠ 0 := fun e => by simp [e] at hc
  have hmin : Nat.min n x.count.toNat = n := Nat.min_eq_left (Nat.le_of_lt hc)
  rw [hl, consumeTile_counted ho hx hs hp hc0 (Nat.ne_of_gt hn), if_neg (Nat.not_le.2 hc), hmin]
  exact congrArg _ (finish_next _ _ hlast)

/-- Nothing of the count is left: the tile is freed (R186). -/
theorem Lowers.none_left (hc0 : x.count ≠ 0) (hc : x.count.toNat ≤ n) : exec i s =
    .next ((freeNamed (setTile s die (x.lowered 0 t.uid)) die x.base x.gen).putThread t.advance) := by
  have hpos : 0 < x.count.toNat := Nat.pos_of_ne_zero fun e => hc0 (BitVec.eq_of_toNat_eq e)
  rw [hl, consumeTile_counted ho hx hs hp hc0 (by omega), if_pos hc, (sub_min_eq_zero_iff _ _).2 hc]
  exact congrArg _ (finish_next _ _ hlast)

end

/-! ### TGET at its issue (R185, R436) -/

/-- How TGET ends with what has become of the count: it parks until the seal, or while its bytes are under way. -/
def getEnd (s : State) (t : Thread) (dest src : Part) :
    Except Stop (State × Thread × Option (Nat × Nat × BitVec 12)) → Except Stop Eff
  | .error (.park p) => .ok (.parked s t p)
  | .error e => .error e
  | .ok (s1, t1, frees) => .ok (.parked s1 t1 (.access ⟨.tget dest frees, [src], none⟩))

section
variable {a b : BitVec 5} {off : Nat} (hr : Readable t [a, b] []) (ho : t.inRegion = false)
include hr ho

theorem exec_tget_stale (hi : Issuable (.tget a b) s t) (hx : currentTile s (t.gVal a) = none)
    (hd : tgetDest s (t.gVal b) 0 = some off) : exec (.tget a b) s = .next (takeTrap s s.curSlot t 8 (t.gVal a)) := by
  rw [exec_tget, execTget, run_issues _ hi, withSources_readable _ hr]
  simp only [hx, Option.map_none, Option.getD_none, hd, ofSpace_own (ownSpace_stale hx), logDest, ho, Bool.false_eq_true,
    if_false, consumeTile_stale hx, finish_trap]

variable (hx : currentTile s (t.gVal a) = some (die, x)) (ha : tileAdmits s t x = true)
  (hd : tgetDest s (t.gVal b) (tileSize x.cls) = some off)
include hx ha hd

theorem exec_tget_current (hi : Issuable (.tget a b) s t) : exec (.tget a b) s = .next (finish (.tget a b) s t
    (getEnd s t ⟨t.gVal b, Place.lm s.cur.1 off, tileSize x.cls, [], 0⟩
      ⟨tileAddress (t.gVal a), Place.tile die x.base, tileSize x.cls, [], 0⟩
      (consumeTile s s.cur.1 t (t.gVal a) 1 .read))) := by
  rw [exec_tget, execTget, run_issues _ hi, withSources_readable _ hr]
  simp only [hx, Option.map_some, Option.getD_some, hd, ofSpace_own (ownSpace_current hx ha), logDest, ho, Bool.false_eq_true,
    if_false]
  rfl

theorem exec_tget_unsealed (hi : Issues (.tget a b) s t) (hs : x.sealed = false) :
    exec (.tget a b) s = .next (parkIn s s.curSlot t (.retry (.seal die x.base))) := by
  rw [exec_tget_current hr ho hx ha hd hi.toIssuable, consumeTile_unsealed ho hx hs (by simp)]
  exact congrArg _ (finish_parked _ _ _ hi.notLast)

theorem exec_tget_spent (hi : Issuable (.tget a b) s t) (hs : x.sealed = true) (hp : x.persistent = false)
    (hc : x.count = 0) : exec (.tget a b) s = .next (takeTrap s s.curSlot t 8 (t.gVal a)) := by
  rw [exec_tget_current hr ho hx ha hd hi, consumeTile_spent ho hx hs hp hc]
  rfl

/-- A TGET that reads takes one from the count of a counted tile, and carries the free of one that it has brought to zero (R186). -/
theorem exec_tget_reads (hi : Issues (.tget a b) s t) (hs : x.sealed = true) (hc : x.persistent = true ∨ x.count ≠ 0) :
    exec (.tget a b) s = .next (parkIn
      (if x.persistent then s else setTile s die (x.lowered (x.count - 1) t.uid)) s.curSlot t
      (.access ⟨.tget ⟨t.gVal b, Place.lm s.cur.1 off, tileSize x.cls, [], 0⟩
          (if x.persistent = false ∧ x.count = 1 then some (die, x.base, x.gen) else none),
        [⟨tileAddress (t.gVal a), Place.tile die x.base, tileSize x.cls, [], 0⟩], none⟩)) := by
  rw [exec_tget_current hr ho hx ha hd hi.toIssuable]
  cases hp : x.persistent with
  | true =>
    rw [consumeTile_persistent ho hx hs hp]
    exact congrArg _ (finish_parked _ _ _ hi.notLast)
  | false =>
    have hc0 : x.count ≠ 0 := hc.resolve_left (by simp [hp])
    have hpos : x.count.toNat ≠ 0 := fun e => hc0 (BitVec.eq_of_toNat_eq e)
    have hone : x.count.toNat ≤ 1 ↔ x.count = 1 := by rw [← BitVec.toNat_inj]; simp; omega
    have hmin : Nat.min 1 x.count.toNat = 1 := Nat.min_eq_left (by omega)
    rw [consumeTile_counted ho hx hs hp hc0 Nat.one_ne_zero, hmin]
    simp only [hone, true_and]
    exact congrArg _ (finish_parked _ _ _ hi.notLast)

end

/-! ### TGET at the tile (R60, R436) -/

/-- What the data of an engine leave of a thread (R252, R276) closes no region. -/
@[simp] theorem brought_closing (s : State) (t : Thread) (p : Part) : (brought s t p).closing = t.closing := by
  unfold brought
  split <;> rfl

/-- A thread without undo records has nothing that they could change. -/
theorem brought_of_undo_nil (p : Part) (hu : t.undo = []) : brought s t p = t := by
  have hkeep (f : Nat × UndoRec → Nat × UndoRec) : ({ t with undo := t.undo.map f } : Thread) = t := by
    rw [hu, List.map_nil, ← hu]
  unfold brought
  split
  · simp only [amend, replaceDeferred, if_true, hkeep]
  · exact hkeep _

/-- The tile's bytes move to the destination, poison with them, after the thread's earlier stores; then its free follows (R186). -/
theorem perform_tget {r : Req} {dest p : Part} {frees : Option (Nat × Nat × BitVec 12)} (hop : r.op = .tget dest frees)
    (hp : r.parts = [p]) (hr : reachable s p.loc = true) :
    perform s t r = .ok (frees.elim (moveWith (badFor s t) (s.drainOf t.uid) p.loc dest.loc p.len) fun x =>
      (moveWith (badFor s t) (s.drainOf t.uid) p.loc dest.loc p.len).later (.free x.1 x.2.1 x.2.2)) .nothing 0 := by
  have hreach := find?_unreachable_eq_none (s := s) (l := [p]) (by simpa using hr)
  simp only [perform, hp, hreach, hop]

/-- A TGET that is parked at its tile goes on once the bytes have arrived. -/
theorem exec_accessCompletion_tget {slot : Nat} {r : Req} {dest p : Part} {frees : Option (Nat × Nat × BitVec 12)} {s3 s4 : State}
    (hk : Claims.Parked s core slot t r) (hop : r.op = .tget dest frees) (hp : r.parts = [p])
    (hs3 : s3 = moveWith (badFor (Claims.atHome s t r) t) ((Claims.atHome s t r).drainOf t.uid) p.loc dest.loc p.len)
    (hs4 : s4 = frees.elim s3 fun x => s3.later (.free x.1 x.2.1 x.2.2)) :
    exec (.accessCompletion core slot) s = Claims.resumes s4 core slot (brought s4 t dest) := by
  have hcore : (core * 16 + slot) / 16 = core := by have := hk.within; omega
  have hlog : logReq (Claims.atHome s t r) ((core * 16 + slot) / 16) t r = .ok (Claims.atHome s t r, t) :=
    logReq_outside (by simp [Thread.inRegion, hk.outside])
  have hperform := perform_tget (t := t) hop hp (hk.answers p (by simp [hp]))
  rw [← hs3, ← hs4] at hperform
  have hafter : afterReq s4 t r = brought s4 t dest := by simp only [afterReq, hop]
  rw [exec_accessCompletion_access hk.resident hk.parked, arrivedAccess_served hcore hk.delivered hk.unblocked hk.first,
    completeAccess_ok rfl hk.good hlog hperform, hafter, deliverFlags_nothing, deliver_nothing (by simp [hk.notClosing])]
  rfl

/-! ### TINFO (R190) -/

theorem toNat_append_add {m n : Nat} (x : BitVec m) (y : BitVec n) : (x ++ y).toNat = 2 ^ n * x.toNat + y.toNat := by
  rw [BitVec.toNat_append, ← Nat.shiftLeft_add_eq_or_of_lt y.isLt, Nat.shiftLeft_eq, Nat.mul_comm]

/-- The status word by its fields. -/
theorem tileStatus_eq (x : Tile) : tileStatus x =
    BitVec.ofNat 64 (x.count.toNat + 2 ^ 12 * (x.cls % 4) + 2 ^ 14 * (x.part % 16) + 2 ^ 18 * x.sealed.toNat +
      2 ^ 19 * x.persistent.toNat + 2 ^ 20 * x.freePending.toNat + 2 ^ 21 + 2 ^ 32 * (x.job % 2 ^ 16) +
      2 ^ 52 * x.gen.toNat) := by
  have hgen := x.gen.isLt
  have hcount := x.count.isLt
  have hsealed := x.sealed.toNat_lt
  have hpersistent := x.persistent.toNat_lt
  have hpending := x.freePending.toNat_lt
  apply BitVec.eq_of_toNat_eq
  simp only [tileStatus, toNat_append_add, BitVec.toNat_ofNat, BitVec.toNat_ofBool]
  omega

theorem exec_tinfo_issues {d a : BitVec 5} (hi : Issues (.tinfo d a) s t) (hr : Readable t [a] []) (hk : t.keeps d) :
    exec (.tinfo d a) s = completesWith s t d ((currentTile s (t.gVal a)).elim 0 fun y => tileStatus y.2) := by
  rw [exec_tinfo, execTinfo, run_issues _ hi.toIssuable, withSources_readable _ hr, finish_retG hi.notLast hk]
  cases currentTile s (t.gVal a) <;> rfl

/-! ### TALLOC (R179 to R181) -/

/-- Whichever candidate is taken, it is one of them. -/
theorem choose_lt {n : Nat} (hn : 0 < n) : (s.choose n).1 < n := by
  unfold State.choose
  split
  · exact hn
  · exact Nat.mod_lt _ hn

/-- A granted tile stands on its die as it was asked for, and its handle names it (R177, R180). -/
theorem grantTile_tile (s : State) (die part cls count job base : Nat) :
    ∃ y ∈ ((grantTile s die part cls count job base).1.die die).tiles, y.base = base ∧ y.cls = cls ∧ y.sealed = false ∧
      y.count = BitVec.ofNat 12 count ∧ y.persistent = decide (count = 0) ∧
      (grantTile s die part cls count job base).2 = handleOf die base y.gen := by
  refine ⟨⟨base, cls, part, NatMap.get (s.die die).gens (base / 0x1000) 0, BitVec.ofNat 12 count, decide (count = 0), false, 0,
    job, false, 0⟩, ?_, rfl, rfl, rfl, rfl, rfl, rfl⟩
  simp [grantTile, State.die, State.setDie, State.openUp]

section
variable {d a : BitVec 5} (hi : Issues (.talloc d a) s t) (hr : Readable t [a] []) (ho : t.inRegion = false)
  (hok : requestOk s s.cur.1 t (t.gVal a) = true) (hdie : die = reqDieOf s.cur.1 (t.gVal a))
include hi hr ho hok hdie

/-- A request that waits: behind its partition's waiters, or as the first of them (R180, R181). -/
theorem exec_talloc_waits (hw : s.waiters (tallocWaiter die (reqPart (t.gVal a))) ≠ [] ∨
      (s.die die).admits (reqPart (t.gVal a)) (reqClass (t.gVal a)) = []) :
    exec (.talloc d a) s = .next (parkIn s s.curSlot t (.talloc d (t.gVal a) die s.pushSeq)) := by
  subst hdie
  rw [exec_talloc, execTalloc, run_issues _ hi.toIssuable, withSources_readable _ hr]
  simp only [hok, check_true, reserveAll_outside ho]
  by_cases hwaiters : s.waiters (tallocWaiter (reqDieOf s.cur.1 (t.gVal a)) (reqPart (t.gVal a))) = []
  · have hbases := hw.resolve_left fun hne => hne hwaiters
    simp only [hwaiters, ne_eq, not_true_eq_false, if_false, hbases, List.getElem?_nil, waitTile, finish_parked _ _ _ hi.notLast]
  · simp only [ne_eq, hwaiters, not_false_eq_true, if_true, waitTile, finish_parked _ _ _ hi.notLast]

/-- A request that no waiter stands before is granted one of the bases that R180 admits. -/
theorem exec_talloc_grants (hk : t.keeps d) (hw : s.waiters (tallocWaiter die (reqPart (t.gVal a))) = [])
    {bases : List Nat} (hb : bases = (s.die die).admits (reqPart (t.gVal a)) (reqClass (t.gVal a))) (hne : bases ≠ []) :
    ∃ base ∈ bases, ∀ g, g = grantTile (s.choose bases.length).2 die (reqPart (t.gVal a)) (reqClass (t.gVal a))
      (reqCount (t.gVal a)) (reqOwner t (t.gVal a)) base → exec (.talloc d a) s = completesWith g.1 t d g.2 := by
  subst hdie
  have hlt : (s.choose bases.length).1 < bases.length := choose_lt (List.length_pos_iff.2 hne)
  refine ⟨bases[(s.choose bases.length).1], List.getElem_mem hlt, fun g hg => ?_⟩
  rw [exec_talloc, execTalloc, run_issues _ hi.toIssuable, withSources_readable _ hr]
  simp only [hok, check_true, reserveAll_outside ho, hw, ne_eq, not_true_eq_false, if_false, ← hb, List.getElem?_eq_getElem hlt,
    logOp_outside ho, ← hg, retDone_keeps _ hk, finish_next _ _ hi.notLast]
  rfl

end

end Sys2Proof.Machine

open Sys2Proof Sys2Proof.Machine

/-- Settles O41, by the instructions of the group: what becomes of a tile's count decides how TDROP, TABANDON and TGET end, and the
others end by the tile's seal alone. -/
theorem tilesComplete : Obligations.TilesComplete := by
  unfold Obligations.TilesComplete
  intro s t a ho
  refine ⟨?talloc, fun die x hx ha => ⟨?tseal, ?tfree, ?tdrop, ?unsealed, ?spent, ?tabandon, ?tget, ?tinfo⟩, fun hx => ⟨?zero, ?stale,
    ?staleAbandon, ?staleGet⟩⟩
  case talloc =>
    rintro d w die hi hr hk rfl hdie hok
    refine ⟨fun hw hne => ?_, fun hw => exec_talloc_waits hi hr ho hok hdie hw⟩
    obtain ⟨base, hmem, hexec⟩ := exec_talloc_grants hi hr ho hok hdie hk hw rfl hne
    obtain ⟨y, hy, hbase, hcls, hsealed, hcount, hpers, hhandle⟩ := grantTile_tile _ die (reqPart (t.gVal a)) (reqClass (t.gVal a))
      (reqCount (t.gVal a)) (reqOwner t (t.gVal a)) base
    exact ⟨base, hmem, _, _, rfl, hexec _ rfl, y, hy, hbase, hcls, hsealed, hcount, hpers, hhandle⟩
  case tseal =>
    refine fun c hi hr => ⟨fun hs hb => ?_, fun hs hb => ?_, fun hs => exec_tseal_sealed hr hx ha hi hs⟩
    · rw [exec_tseal_unsealed hr hx ha hi ho hs, released_free hb, finish_next _ _ hi.notLast]
    · rw [exec_tseal_unsealed hr hx ha hi ho hs, released_blocked hb, finish_park _ hi.notLast]
  case tfree => exact fun hi hr hf => exec_tfree_frees hr hx ha hi ho hf
  case tdrop =>
    intro hi hr hs hp
    have hl := tdrop_lowers hi.toIssuable hr (ownSpace_current hx ha)
    exact ⟨fun hc => hl.some_left ho hx hs hp hi.notLast Nat.one_pos hc,
      fun hc => hl.none_left ho hx hs hp hi.notLast (by simp [hc]) (by simp [hc])⟩
  case unsealed =>
    refine fun hs => ⟨fun hi hr => ?_, fun b hi hr hn hp => ?_, fun b off hi hr hd => exec_tget_unsealed hr ho hx ha hd hi hs⟩
    · exact (tdrop_lowers hi.toIssuable hr (ownSpace_current hx ha)).unsealed ho hx hi.notLast hs (by simp)
    · exact (tabandon_lowers hi.toIssuable hr hn (ownSpace_current hx ha)).unsealed ho hx hi.notLast hs fun _ => hp
  case spent =>
    exact fun hs hp hc => ⟨fun hi hr => (tdrop_lowers hi hr (ownSpace_current hx ha)).spent ho hx hs hp hc,
      fun b off hi hr hd => exec_tget_spent hr ho hx ha hd hi hs hp hc⟩
  case tabandon =>
    intro b hi hr hs hp hc hn
    have hl := tabandon_lowers hi.toIssuable hr hn (ownSpace_current hx ha)
    refine ⟨fun hb => ?_, fun hpos hlt => hl.some_left ho hx hs hp hi.notLast hpos hlt,
      fun hle => hl.none_left ho hx hs hp hi.notLast hc hle⟩
    have hzero : (t.gVal b).toNat = 0 := by rw [hb]; rfl
    rw [hl, hzero, consumeTile_zero ho hx hs hp hc]
    exact congrArg _ (finish_next _ _ hi.notLast)
  case tget =>
    rintro b off s2 dest frees r hi hr hd hs hc rfl rfl rfl rfl
    refine ⟨exec_tget_reads hr ho hx ha hd hi hs hc, fun s' s3 s4 core slot t' hk hs3 hs4 =>
      ⟨exec_accessCompletion_tget hk rfl rfl hs3 (hs4.trans ?_), brought_of_undo_nil _⟩⟩
    split <;> rfl
  case tinfo =>
    intro d hi hr hk
    rw [exec_tinfo_issues hi hr hk, hx]
    exact congrArg _ (tileStatus_eq x)
  case zero => exact fun d hi hr hk => by rw [exec_tinfo_issues hi hr hk, hx]; rfl
  case stale =>
    rintro i (rfl | rfl | ⟨c, rfl⟩) hi hr
    · exact (tdrop_lowers hi hr (ownSpace_stale hx)).stale hx
    · exact exec_tfree_stale hi hr hx
    · exact exec_tseal_stale hi hr hx
  case staleAbandon => exact fun b hi hr hn => (tabandon_lowers hi hr hn (ownSpace_stale hx)).stale hx
  case staleGet => exact fun b off hi hr hd => exec_tget_stale hr ho hi hx hd

end

section
/-!
SUPPORT. Stores and moves that are performed (R236, R341, R60, R234): what one writes, what becomes of poison and full bits, and
what it leaves alone where no thread waits on a word of it.
-/
namespace Sys2Proof.Machine

variable {s : State}

/-! ### Units of poison -/

theorem mem_insertNat_iff {l : List Nat} {k v : Nat} : v ∈ insertNat l k ↔ v = k ∨ v ∈ l := by
  induction l with
  | nil => simp [insertNat]
  | cons x rest ih =>
    rw [insertNat]
    split
    · simp
    · split
      · subst k; simp
      · simp only [List.mem_cons, ih]
        exact or_left_comm

/-- A stretch touches the units of its bytes. -/
theorem mem_touchedUnits {p n u : Nat} : u ∈ State.touchedUnits p n ↔ ∃ j < n, (p + j) / 64 = u := by
  unfold State.touchedUnits
  split
  · simp [*]
  · simp only [List.mem_map, List.mem_range]
    constructor
    · rintro ⟨k, hk, rfl⟩
      exact ⟨max (64 * (k + p / 64)) p - p, by omega, by omega⟩
    · rintro ⟨j, hj, rfl⟩
      exact ⟨(p + j) / 64 - p / 64, by omega, by omega⟩

/-- The units of a list poisoned. -/
def State.poisonUnits (s : State) (units : List Nat) : State := units.foldl (fun s v => s.setPoison (64 * v)) s

theorem State.poisonUnits_frame (s : State) (units : List Nat) :
    s.poisonUnits units = { s with poisoned := (s.poisonUnits units).poisoned } :=
  List.foldlRecOn (motive := fun y : State => y = { s with poisoned := y.poisoned }) _ _ rfl fun y hy v _ => by
    rw [hy]; rfl

theorem State.mem_poisonUnits {units : List Nat} {u : Nat} :
    u ∈ (s.poisonUnits units).poisoned ↔ u ∈ s.poisoned ∨ u ∈ units := by
  induction units generalizing s with
  | nil => simp [State.poisonUnits]
  | cons v rest ih =>
    have hstep : u ∈ (s.setPoison (64 * v)).poisoned ↔ u = v ∨ u ∈ s.poisoned := by
      rw [State.setPoison, mem_insertNat_iff, Nat.mul_div_cancel_left v (by decide)]
    rw [State.poisonUnits, List.foldl_cons, ← State.poisonUnits, ih, hstep, List.mem_cons, or_assoc, or_left_comm]

/-- The bytes of unit `u` within `[src, src + n)`, at the destination of a move, touch the units of their own destinations. -/
theorem mem_touchedUnits_moved {src dst n u v : Nat} :
    v ∈ State.touchedUnits (Nat.max (64 * u) src - src + dst)
        (Nat.min (64 * u + 64) (src + n) - src + dst - (Nat.max (64 * u) src - src + dst)) ↔
      ∃ j < n, (src + j) / 64 = u ∧ (dst + j) / 64 = v := by
  have hmax : Nat.max (64 * u) src = max (64 * u) src := rfl
  have hmin : Nat.min (64 * u + 64) (src + n) = min (64 * u + 64) (src + n) := rfl
  rw [mem_touchedUnits, hmax, hmin]
  constructor
  · rintro ⟨k, hk, rfl⟩
    exact ⟨max (64 * u) src - src + k, by omega, by omega, by congr 1; omega⟩
  · rintro ⟨j, hj, hu, rfl⟩
    exact ⟨src + j - max (64 * u) src, by omega, by congr 1; omega⟩

theorem poisonMoved_cons (s : State) (src dst n u : Nat) (bad : List Nat) :
    poisonMoved s src dst n (u :: bad) = poisonMoved (s.poisonUnits (State.touchedUnits (Nat.max (64 * u) src - src + dst)
      (Nat.min (64 * u + 64) (src + n) - src + dst - (Nat.max (64 * u) src - src + dst)))) src dst n bad := rfl

theorem poisonMoved_frame (s : State) (src dst n : Nat) (bad : List Nat) :
    poisonMoved s src dst n bad = { s with poisoned := (poisonMoved s src dst n bad).poisoned } := by
  induction bad generalizing s with
  | nil => rfl
  | cons u rest ih => rw [poisonMoved_cons, ih, State.poisonUnits_frame]

/-- A byte that comes from a bad unit poisons the unit that it lands in (R60). -/
theorem mem_poisonMoved {src dst n v : Nat} {bad : List Nat} :
    v ∈ (poisonMoved s src dst n bad).poisoned ↔
      v ∈ s.poisoned ∨ ∃ j < n, (src + j) / 64 ∈ bad ∧ (dst + j) / 64 = v := by
  induction bad generalizing s with
  | nil => simp [poisonMoved]
  | cons u rest ih =>
    rw [poisonMoved_cons, ih, State.mem_poisonUnits, mem_touchedUnits_moved, or_assoc]
    simp only [List.mem_cons, or_and_right, and_or_left, exists_or]

/-! ### Writes -/

/-- A write clears the poison of the units that it covers whole, and sets none (R341). -/
theorem State.mem_poisoned_write {p u : Nat} {data : List Byte} :
    u ∈ (s.write p data).poisoned ↔ u ∈ s.poisoned ∧ ¬(p ≤ 64 * u ∧ 64 * u + 64 ≤ p + data.length) := by
  rw [State.write, List.mem_filter, decide_eq_true_eq]

/-- Where no thread waits on a word of it, a store that is performed is a write. -/
theorem State.store_unwatched {p : Nat} {data : List Byte} (h : s.Unwatched p data.length) : s.store p data = s.write p data :=
  serveRange_unwatched h

/-! ### Moves -/

/-- The units of a move's source that are poisoned. -/
def badSource (s : State) (src n : Nat) : List Nat := (State.touchedUnits src n).filter fun u => s.poisoned.contains u

/-- What a move of bytes does to its state, where no thread waits on a word of its destination. -/
theorem moveBytes_unwatched {src dst n : Nat} (h : s.Unwatched dst n) : moveBytes s src dst n = { s with
    mem := s.mem.write dst (s.bytes src n)
    poisoned := (poisonMoved (s.write dst (s.bytes src n)) src dst n (badSource s src n)).poisoned
    emptyWords := if Place.hasFullBits dst then s.emptyWords.filter fun w => decide ¬(8 * w < dst + n ∧ dst < 8 * w + 8)
      else s.emptyWords } := by
  simp only [moveBytes, moveWith, Bool.or_false]
  rw [← badSource, poisonMoved_frame]
  split <;> exact serveRange_unwatched h

theorem State.length_bytes (s : State) (p n : Nat) : (s.bytes p n).length = n := by
  simp [State.bytes, Memory.read_eq]

theorem State.getD_bytes {p n j : Nat} (hj : j < n) : (s.bytes p n).getD j 0 = s.mem.byte (p + j) := by
  simp [State.bytes, Memory.read_eq, hj]

section
variable {src dst n : Nat} (h : s.Unwatched dst n)
include h

theorem moveBytes_byte_inside {j : Nat} (hj : j < n) : (moveBytes s src dst n).mem.byte (dst + j) = s.mem.byte (src + j) := by
  rw [moveBytes_unwatched h, Memory.byte_write_inside _ _ _ _ (by rwa [State.length_bytes]), State.getD_bytes hj]

theorem moveBytes_byte_outside {p : Nat} (hp : p < dst ∨ dst + n ≤ p) :
    (moveBytes s src dst n).mem.byte p = s.mem.byte p := by
  rw [moveBytes_unwatched h]
  exact Memory.byte_write_outside _ _ _ _ (by rwa [State.length_bytes])

theorem mem_poisoned_moveBytes {u : Nat} : u ∈ (moveBytes s src dst n).poisoned ↔
    (u ∈ s.poisoned ∧ ¬(dst ≤ 64 * u ∧ 64 * u + 64 ≤ dst + n)) ∨
      ∃ j < n, (src + j) / 64 ∈ s.poisoned ∧ (dst + j) / 64 = u := by
  have hbad (j : Nat) (hj : j < n) : (src + j) / 64 ∈ badSource s src n ↔ (src + j) / 64 ∈ s.poisoned := by
    have htouched : (src + j) / 64 ∈ State.touchedUnits src n := mem_touchedUnits.2 ⟨j, hj, rfl⟩
    simp [badSource, htouched]
  rw [moveBytes_unwatched h]
  simp only [mem_poisonMoved, State.mem_poisoned_write, State.length_bytes]
  refine or_congr_right (exists_congr fun j => and_congr_right fun hj => ?_)
  rw [hbad j hj]

/-- The words that a move lands in are full (R234). -/
theorem full_moveBytes {j : Nat} (hj : 8 * j < n) (ha : dst % 8 = 0) (hf : Place.hasFullBits dst = true) :
    (moveBytes s src dst n).full (dst + 8 * j) = true := by
  have hword : 8 * ((dst + 8 * j) / 8) < dst + n ∧ dst < 8 * ((dst + 8 * j) / 8) + 8 := by omega
  rw [moveBytes_unwatched h, State.full]
  simp [hf, hword]

end

end Sys2Proof.Machine

open Sys2Proof Sys2Proof.Machine

/-- Settles O14: where no thread waits on a word of it, a performed store is a write, whose bytes, frame and poison are known. -/
theorem storeChangesItsBytesOnly : Obligations.StoreChangesItsBytesOnly := by
  unfold Obligations.StoreChangesItsBytesOnly
  intro s p data h
  rw [State.store_unwatched h]
  exact ⟨fun j hj => Memory.byte_write_inside _ _ _ _ hj, fun a ha => Memory.byte_write_outside _ _ _ _ ha,
    fun u => State.mem_poisoned_write, rfl⟩

end

section
/-!
SUPPORT. Copies (R28, R60, R242, R243, R414 to R418): how CPY and CPYR come to send a command, what a wake leaves alone, and how a
command is performed and ends.
-/
namespace Sys2Proof.Machine

variable {i : Instr} {s : State} {t : Thread}

/-! ### CPY and CPYR send a command (R416, R417, R242) -/

theorem keepIssue_park (x : AtIssue) (p : Park) :
    keepIssue s t x (.error (.park p)) = .ok (.parked s { t with atIssue := some x } p) := rfl

theorem keepIssue_ok (x : AtIssue) (e : Eff) : keepIssue s t x (.ok e) = .ok e := rfl

theorem keepIssue_trap (x : AtIssue) (c : Nat) (v : Word) : keepIssue s t x (.error (.trap c v)) = .error (.trap c v) := rfl

/-- A footprint all of whose parts pass stops nothing. -/
theorem lowestStop_passed {l : List (Word × Except Stop Part)} (h : ∀ e ∈ l, ∃ p, e.2 = .ok p) : lowestStop l = none := by
  unfold lowestStop
  refine Option.map_eq_none_iff.2 (List.foldlRecOn (motive := (· = none)) _ _ rfl fun best hbest e he => ?_)
  obtain ⟨p, hp⟩ := h e he
  rw [hp, hbest]

/-- The parts of a row's footprint are its sources, its destinations and its padding. -/
theorem rowFoot_all (s : State) (t : Thread) (r : Row) :
    (rowFoot s t r).all = Claims.sourceParts s t r ++ Claims.destParts s t r ++ Claims.padParts s t r := rfl

theorem rowFoot_row (s : State) (t : Thread) (r : Row) : (rowFoot s t r).row = Claims.copyRow s t r := rfl

section
variable {d : BitVec 5} {mb : Bool} {sc : BitVec 4} {code recOff : Nat} {tag : Word} {x : Shape} {rows : List Row}

/-- The first row whose source address is no multiple of the element size stops the instruction (R417 step 4). -/
theorem sendCopy_misaligned {r : Row} (h : (rows.find? fun r => decide (r.sva.toNat % x.size ≠ 0)) = some r) :
    sendCopy s t d mb sc code recOff tag x rows = .error (.trap 3 r.sva) := by
  simp only [sendCopy, h]

/-- Outside a region, rows that pass their checks go in a command after the thread's earlier stores. -/
theorem sendCopy_passed (ho : t.inRegion = false) (ha : ∀ r ∈ rows, r.sva.toNat % x.size = 0)
    (hp : ∀ r ∈ rows, ∀ e ∈ Claims.sourceParts s t r ++ Claims.destParts s t r ++ Claims.padParts s t r, ∃ p, e.2 = .ok p) :
    ∃ k : Copy, k.owner = t.uid ∧ k.d = (if mb then none else some d) ∧ k.tag = tag ∧ k.bytes = x.total ∧
      k.rows = rows.map (Claims.copyRow s t) ∧ k.since = s.now ∧
      sendCopy s t d mb sc code recOff tag x rows = released s t (.ok (.next
        (let s1 := s.drainOf t.uid; { s1 with copies := s1.copies ++ [k] }) (if mb then t else t.emptyG d))) := by
  have haligned : (rows.find? fun r => decide (r.sva.toNat % x.size ≠ 0)) = none :=
    List.find?_eq_none.2 fun r hr => by simp [ha r hr]
  have hpassed : lowestStop ((rows.map (rowFoot s t)).flatMap RowFoot.all) = none := by
    refine lowestStop_passed fun e he => ?_
    obtain ⟨foot, hfoot, hmem⟩ := List.mem_flatMap.1 he
    obtain ⟨r, hr, rfl⟩ := List.mem_map.1 hfoot
    exact hp r hr e (rowFoot_all s t r ▸ hmem)
  have hrows : (rows.map (rowFoot s t)).map RowFoot.row = rows.map (Claims.copyRow s t) := by
    rw [List.map_map]
    exact List.map_congr_left fun r _ => rowFoot_row s t r
  simp only [sendCopy, haligned, hpassed, ho, Bool.false_eq_true, if_false]
  refine ⟨_, ?_, ?_, ?_, ?_, ?_, ?_, rfl⟩
  case refine_5 => exact hrows
  all_goals rfl

end

theorem copyFrom_rows {d : BitVec 5} {sc : BitVec 4} {c : BitVec 2} {ragged : Bool} {off : Nat} {bytes : List Byte}
    {entries : Option (List Word)} {tag : Word} {rows : List Row} (h : shapeRows (shapeOf bytes ragged) ragged entries = some rows) :
    copyFrom s t d sc c ragged off bytes entries tag = keepIssue s t (.record bytes entries tag)
      (sendCopy s t d (decide (c = 1)) sc (if ragged then 1 else 0) off tag (shapeOf bytes ragged) rows) := by
  unfold copyFrom
  dsimp only
  simp only [h]

/-- A CPY or CPYR whose record and ROWS array read well, and give a shape that R415 allows, comes to its rows' checks. -/
theorem exec_copy_checks {d a b : BitVec 5} {sc : BitVec 4} {c : BitVec 2} {off : Nat} {ragged : Bool} {bytes : List Byte}
    {entries : Option (List Word)} {rows : List Row} (hragged : ragged = decide (i = .cpyr d a b sc c))
    (hi : i = .cpy d a b sc c ∨ i = .cpyr d a b sc c) (h : Issues i s t) (hr : Readable t [a, b] [])
    (hd : ¬(t.port.en = true ∧ (d = 28 ∨ d = 29))) (hissue : t.atIssue = none)
    (htarget : targetOf s.cur.1 s.pod (t.gVal a) = some (.localMem s.cur.1 off true)) (halign : off % 64 = 0)
    (hfits : off + 128 ≤ 0x8_0000) (hpoison : s.poisonIn (Place.lm s.cur.1 off) 128 = false)
    (hbytes : bytes = ownView s t (Place.lm s.cur.1 off) 128)
    (hrowsPoison : ragged = true → rowsPoison s (shapeOf bytes ragged) = false)
    (hentries : entries = if ragged then rowsArray s t (shapeOf bytes ragged) else none)
    (hrows : shapeRows (shapeOf bytes ragged) ragged entries = some rows) :
    exec i s = .next (finish i s t (keepIssue s t (.record bytes entries (t.gVal b))
      (sendCopy s t d (decide (c = 1)) sc (if ragged then 1 else 0) off (t.gVal b) (shapeOf bytes ragged) rows))) := by
  have hrecord : ¬(off % 64 ≠ 0 ∨ 0x8_0000 < off + 128) := by omega
  have hgood : (ragged && rowsPoison s (shapeOf bytes ragged)) = false := by
    cases ragged with
    | false => rfl
    | true => exact hrowsPoison rfl
  have hshape : copyShape i d a b sc c ragged s = .next (finish i s t (keepIssue s t (.record bytes entries (t.gVal b))
      (sendCopy s t d (decide (c = 1)) sc (if ragged then 1 else 0) off (t.gVal b) (shapeOf bytes ragged) rows))) := by
    rw [copyShape, run_issues _ h.toIssuable, withSources_readable _ hr]
    rw [if_neg hd, htarget]
    dsimp only
    rw [if_neg hrecord, Thread.copyIssue, hissue]
    dsimp only
    rw [hpoison, if_neg Bool.false_ne_true, ← hbytes, hgood, if_neg Bool.false_ne_true, ← hentries, copyFrom_rows hrows]
  rw [← hshape]
  rcases hi with rfl | rfl
  · rw [hragged, decide_eq_false (by simp), exec_cpy, execCpy]
  · rw [hragged, decide_eq_true rfl, exec_cpyr, execCpyr]

/-! ### What a wake leaves alone -/

/-- A thread of that identity is resident. -/
def State.HasThread (s : State) (uid : Nat) : Prop := ∃ e ∈ s.residents, e.2.uid = uid

theorem State.hasThread_iff_slots {uid : Nat} : s.HasThread uid ↔ ∃ k u, (k, Slot.busy u) ∈ s.slots ∧ u.uid = uid := by
  constructor
  · rintro ⟨⟨k, u⟩, he, hu⟩
    obtain ⟨⟨j, v⟩, hmem, hv⟩ := List.mem_filterMap.1 he
    cases v with
    | busy w => obtain ⟨rfl, rfl⟩ := Prod.mk.inj (Option.some.inj hv); exact ⟨_, _, hmem, hu⟩
    | _ => cases hv
  · rintro ⟨k, u, hmem, hu⟩
    exact ⟨(k, u), List.mem_filterMap.2 ⟨_, hmem, rfl⟩, hu⟩

theorem State.hasThread_of_slotOf {uid k : Nat} (h : s.slotOf uid = some (k, t)) : s.HasThread uid :=
  ⟨(k, t), List.mem_of_find?_eq_some h, by simpa using List.find?_some h⟩

theorem State.HasThread.slotOf {uid : Nat} (h : s.HasThread uid) : ∃ e, s.slotOf uid = some e := by
  obtain ⟨e, he, hu⟩ := h
  exact Option.isSome_iff_exists.1 (List.find?_isSome.2 ⟨e, he, decide_eq_true hu⟩)

theorem NatMap.self_mem_set {α : Type} (m : NatMap α) (k : Nat) (v : α) : (k, v) ∈ NatMap.set m k v := by
  induction m with
  | nil => simp [NatMap.set]
  | cons e rest ih =>
    rw [NatMap.set]
    split
    · simp
    · split
      · simp
      · exact List.mem_cons_of_mem _ ih

/-- What a map held it holds still when a value is put in it, but for the value that is replaced. -/
theorem NatMap.mem_set_of_mem {α : Type} {m : NatMap α} {e : Nat × α} (k : Nat) (v dflt : α) (h : e ∈ m) :
    e ∈ NatMap.set m k v ∨ e = (k, NatMap.get m k dflt) := by
  induction m with
  | nil => cases h
  | cons x rest ih =>
    rw [NatMap.set, NatMap.get]
    split
    · exact .inl (List.mem_cons_of_mem _ h)
    · split
      · subst k
        rcases List.mem_cons.1 h with rfl | h
        · exact .inr (by simp)
        · exact .inl (List.mem_cons_of_mem _ h)
      · have hne : x.1 ≠ k := fun e => absurd e.symm ‹_›
        rcases List.mem_cons.1 h with rfl | h
        · exact .inl List.mem_cons_self
        · rw [if_neg hne]
          exact (ih h).imp_left (List.mem_cons_of_mem _)

/-- Memory and its poison are the same, and every resident thread still is one. -/
structure State.KeepsThreads (s' s : State) : Prop where
  mem : s'.mem = s.mem
  poisoned : s'.poisoned = s.poisoned
  thread : ∀ uid, s.HasThread uid → s'.HasThread uid

theorem State.KeepsThreads.refl (s : State) : s.KeepsThreads s := ⟨rfl, rfl, fun _ h => h⟩

theorem State.KeepsThreads.trans {a b c : State} (h : a.KeepsThreads b) (h' : b.KeepsThreads c) : a.KeepsThreads c :=
  ⟨h.mem.trans h'.mem, h.poisoned.trans h'.poisoned, fun uid hu => h.thread uid (h'.thread uid hu)⟩

theorem State.rouse_keepsThreads (s : State) (c : Nat) : (s.rouse c).KeepsThreads s := by
  obtain h | ⟨n, h⟩ := s.rouse_cases c <;> rw [h]
  · exact .refl s
  · exact ⟨rfl, rfl, fun _ hu => hu⟩

/-- A slot's thread changed, its identity kept. -/
theorem State.putSlot_keepsThreads {k : Nat} {u : Thread} (h : NatMap.get s.slots k .empty = .busy t) (hu : u.uid = t.uid) :
    (s.putSlot k u).KeepsThreads s := by
  refine ⟨rfl, rfl, fun uid hs => ?_⟩
  obtain ⟨j, w, hmem, hw⟩ := State.hasThread_iff_slots.1 hs
  refine State.hasThread_iff_slots.2 ?_
  rcases NatMap.mem_set_of_mem k (.busy u) .empty hmem with hstays | hreplaced
  · exact ⟨j, w, hstays, hw⟩
  · rw [h] at hreplaced
    obtain ⟨rfl, hbusy⟩ := Prod.mk.inj hreplaced
    obtain rfl := Slot.busy.inj hbusy
    exact ⟨j, u, NatMap.self_mem_set _ _ _, hu.trans hw⟩

theorem State.wake_keepsThreads (s : State) (k : Nat) : (s.wake k).KeepsThreads s := by
  cases hk : NatMap.get s.slots k .empty with
  | busy u =>
    have hroused : NatMap.get (s.rouse (k / 16)).slots k .empty = .busy u := by rw [State.rouse_slots, hk]
    rw [State.wake_busy hk]
    exact (State.putSlot_keepsThreads (u := wakeThread _ _ u) hroused rfl).trans (s.rouse_keepsThreads _)
  | _ => simp only [State.wake, hk]; exact .refl s

theorem State.wakeRetry_keepsThreads (s : State) (f : Nat → Thread → Wait → Bool) : (s.wakeRetry f).KeepsThreads s :=
  List.foldlRecOn (motive := fun y : State => y.KeepsThreads s) _ _ (.refl s) fun y hy e _ => by
    split
    · split
      · exact (y.wake_keepsThreads e.1).trans hy
      · exact hy
    · exact hy

/-! ### A command performed (R416, R418, R28) -/

/-- Where no request waits at a home, none is served there first. -/
theorem serveFirst_noneArrived (ranges : List (Nat × Nat)) (h : s.arrived = []) : serveFirst s ranges = s := by
  simp [serveFirst, serveArrived, h]

theorem exec_copyComplete_some {n : Nat} {k : Copy} (h : s.copies[n]? = some k) :
    exec (.copyComplete n) s = .next (finishCopy (serveFirst s (k.reads ++ k.writes)) n) := by
  rw [exec_copyComplete, execCopyComplete, h]
  rfl

theorem finishCopy_some {n : Nat} {k : Copy} (h : s.copies[n]? = some k) :
    finishCopy s n = if copyFree s n k = true ∧ (k.cutOff s = false ∨ k.since + 800000 ≤ s.now) then
      performCopy { s with copies := s.copies.eraseIdx n } k else s := by
  have hdue : decide (k.since + oneMs ≤ s.now) = true ↔ k.since + 800000 ≤ s.now := decide_eq_true_iff
  simp only [finishCopy, h, Bool.and_eq_true, Bool.or_eq_true, Bool.not_eq_true', hdue]

theorem performCopy_answered {k : Copy} (h : k.answered s = true) :
    performCopy s k = completeCommand (k.rows.foldl (performRow k) s) k.core k.owner k.d k.tag k.code k.recOff k.bytes := by
  rw [performCopy, if_pos h]

theorem performCopy_unanswered {k : Copy} (h : k.answered s = false) :
    performCopy s k = failCommand (wakeCommands (k.rows.foldl (performRow k) s)) k.core k.owner := by
  rw [performCopy, if_neg (by simp [h])]

/-- The end of a command that fails: an error of its thread follows within the step. -/
theorem failCommand_resident {core uid : Nat} (h : s.HasThread uid) : failCommand s core uid = s.later (.consume uid 0) := by
  obtain ⟨e, he⟩ := h.slotOf
  rw [failCommand, he]

section
variable {k : Copy} {src dst n : Nat} (hk : k.rows = [⟨[(src, dst, n)], []⟩])
include hk

theorem answered_oneMove : k.answered s = (answersAt s k.core src && answersFrom s src dst) := by
  simp [Copy.answered, Copy.moves, Copy.pads, hk]

theorem rows_oneMove : k.rows.foldl (performRow k) s = performMove k s (src, dst, n) := by
  rw [hk]; rfl

/-- Where source and destination answer, the bytes go with their transfers (R58), and replace what the thread has deferred (R276). -/
theorem performCopy_oneMove (hbad : k.bad = []) (hs : answersAt s k.core src = true) (hd : answersFrom s src dst = true) :
    performCopy s k = completeCommand
      (replaceFor k (moveBytes (countTransfers (countTransfers s src n) dst n) src dst n) dst n)
      k.core k.owner k.d k.tag k.code k.recOff k.bytes := by
  have hclean : k.bad.contains = fun _ => false := by rw [hbad]; rfl
  have hmove : performMove k s (src, dst, n) =
      replaceFor k (moveBytes (countTransfers (countTransfers s src n) dst n) src dst n) dst n := by
    rw [performMove, if_neg (by simp [hd]), if_pos hs, hclean, moveBytes]
  rw [performCopy_answered (by rw [answered_oneMove hk, hs, hd]; rfl), rows_oneMove hk, hmove]

/-- Where nothing answers at the source, the destination is poisoned and the thread has an error (R28, R60). -/
theorem performCopy_noSource (hs : answersAt s k.core src = false) (hd : answersFrom s src dst = true)
    (hu : s.HasThread k.owner) :
    ∃ s1 : State, performCopy s k = s1.later (.consume k.owner 0) ∧ s1.KeepsThreads (s.poisonUnits (State.touchedUnits dst n)) := by
  have hmove : performMove k s (src, dst, n) = s.poisonUnits (State.touchedUnits dst n) := by
    rw [performMove, if_neg (by simp [hd]), if_neg (by simp [hs]), State.poisonUnits]
  have hkeeps : (wakeCommands (s.poisonUnits (State.touchedUnits dst n))).KeepsThreads (s.poisonUnits (State.touchedUnits dst n)) :=
    State.wakeRetry_keepsThreads _ _
  have hresident : (s.poisonUnits (State.touchedUnits dst n)).HasThread k.owner := by
    rw [State.poisonUnits_frame]; exact hu
  rw [performCopy_unanswered (by rw [answered_oneMove hk, hs]; rfl), rows_oneMove hk, hmove,
    failCommand_resident (hkeeps.thread _ hresident)]
  exact ⟨_, rfl, hkeeps⟩

end

end Sys2Proof.Machine

open Sys2Proof Sys2Proof.Machine

/-- Settles O38, by its parts: the rows' checks and the command, the command's turn, its rows, the ends of a command of one move, and
what a move of bytes does. -/
theorem copiesComplete : Obligations.CopiesComplete := by
  unfold Obligations.CopiesComplete
  refine ⟨?sent, ?turn, ?rows, ?noSource, ?oneMove, countTransfers_channels, fun s src dst n h =>
    ⟨fun j => moveBytes_byte_inside h, fun p => moveBytes_byte_outside h, fun u => mem_poisoned_moveBytes h,
      fun j => full_moveBytes h⟩⟩
  case sent =>
    rintro i s t d a b sc c off _ ragged entries rows hragged hi h hr ho hd hissue htarget halign hfits hpoison rfl hrowsPoison
      hentries hrows
    rw [exec_copy_checks hragged hi h hr hd hissue htarget halign hfits hpoison rfl hrowsPoison hentries hrows]
    refine ⟨fun ha hp => ?_, fun r hbad => ?_⟩
    · obtain ⟨k, howner, hreg, htag, hbytes, hcopied, hsince, hsent⟩ := sendCopy_passed (d := d) (mb := decide (c = 1)) (sc := sc)
        (code := if ragged then 1 else 0) (recOff := off) (tag := t.gVal b) ho ha hp
      rw [hsent]
      refine ⟨fun hb => ?_, fun hb => ⟨k, howner, by simpa using hreg, htag, hbytes, hcopied, hsince, ?_⟩⟩
      · rw [released_blocked hb, keepIssue_park, finish_parked _ _ _ h.notLast]
      · rw [released_free hb, keepIssue_ok, finish_next _ _ h.notLast]
        simp only [decide_eq_true_eq]
    · rw [sendCopy_misaligned hbad, keepIssue_trap, finish_trap]
  case turn =>
    rintro s s1 n k hk rfl
    refine ⟨serveFirst_noneArrived _, fun hk1 => ?_⟩
    rw [exec_copyComplete_some hk, finishCopy_some hk1]
    refine ⟨fun hfree hdue => by rw [if_pos ⟨hfree, hdue⟩], fun hwaits => ?_⟩
    rw [if_neg]
    rintro ⟨hfree, hdue⟩
    rcases hwaits with hheld | ⟨hcut, hearly⟩
    · rw [hfree] at hheld; cases hheld
    · rw [hcut] at hdue
      exact hdue.elim (by simp) (by omega)
  case rows =>
    intro s k r rest hk ha
    rw [performCopy_answered ha, hk]
    rfl
  case noSource =>
    intro s k src dst n slot t hk hs hd hslot
    obtain ⟨s1, hs1, hkeeps⟩ := performCopy_noSource hk hs hd (State.hasThread_of_slotOf hslot)
    rw [hs1]
    refine ⟨?_, by simp [State.later], fun j hj => ?_⟩
    · exact hkeeps.mem.trans (by rw [State.poisonUnits_frame])
    · exact hkeeps.poisoned ▸ State.mem_poisonUnits.2 (.inr (mem_touchedUnits.2 ⟨j, hj, rfl⟩))
  case oneMove =>
    rintro s s1 k src dst n hk hbad hs hd rfl
    exact performCopy_oneMove hk hbad hs hd

end

section
/-!
SUPPORT. Traps and their return (R248, R249, R449).
-/
namespace Sys2Proof.Machine

variable {s : State} {t : Thread}

/-- Trap entry and return write no register that they do not name (R248, R249). -/
theorem Thread.enterTrap_sameRegisters (t : Thread) (svec : BitVec 17) (cause : Nat) (value : Word) :
    Claims.sameRegisters (t.enterTrap svec cause value) t := by
  simp [Claims.sameRegisters, Thread.enterTrap]

theorem Thread.leaveTrap_sameRegisters (t : Thread) : Claims.sameRegisters t.leaveTrap t := by
  simp [Claims.sameRegisters, Thread.leaveTrap]

theorem exec_trap_issuable {imm : BitVec 15} (h : Issuable (.trap imm) s t) :
    exec (.trap imm) s = .next (takeTrap s s.curSlot t 16 (imm.zeroExtend 64)) := by
  rw [exec_trap, execTrap, run_issues _ h, finish_trap]

theorem exec_brk_unarmed {imm : BitVec 15} (h : Issuable (.brk imm) s t) (hd : (s.core s.cur.1).debugArmed = false) :
    exec (.brk imm) s = .next (takeTrap s s.curSlot t 17 (imm.zeroExtend 64)) := by
  rw [exec_brk, execBrk, run_issues _ h, if_neg (by simp [hd]), finish_trap]

/-- With debug armed BREAK halts the thread at its own word (R449). -/
theorem exec_brk_armed {imm : BitVec 15} (h : Issues (.brk imm) s t) (hd : (s.core s.cur.1).debugArmed = true) :
    exec (.brk imm) s = .next (s.putThread { t with halted := true }) := by
  rw [exec_brk, execBrk, run_issues _ h.toIssuable, if_pos hd, h.notLast, Bool.not_false, check_true, finish_stay]

theorem exec_eret_handler (h : Issuable .eret s t) (hh : t.hnd = true) : exec .eret s = .next (s.putThread t.leaveTrap) := by
  rw [exec_eret, execEret, run_issues _ h, if_pos hh, finish_stay]

/-- ERET outside a handler is illegal (R249). -/
theorem exec_eret_noHandler (h : Issuable .eret s t) (hh : t.hnd = false) :
    exec .eret s = .next (takeTrap s s.curSlot t 1 ((encode .eret).zeroExtend 64)) := by
  rw [exec_eret, execEret, run_issues _ h, if_neg (by simp [hh]), illegal, finish_trap]

end Sys2Proof.Machine

open Sys2Proof Sys2Proof.Machine

/-- Settles O48: what a trap makes of its thread is the registers at trap entry; the other clauses are the instructions, case by
case. -/
theorem trapsAndReturns : Obligations.TrapsAndReturns := by
  unfold Obligations.TrapsAndReturns
  refine ⟨fun s k cause t v hh ht hc hl => ?_, fun s t => ⟨fun imm h => exec_trap_issuable h,
    fun imm h hd => exec_brk_unarmed h hd, fun imm h hd => exec_brk_armed h hd, fun h hh => ?_,
    fun h hh => exec_eret_noHandler h hh⟩⟩
  · exact ⟨_, takeTrap_enters hl hh ht hc, t.enterTrap_sameRegisters _ _ _, rfl, rfl, rfl, rfl, rfl, rfl, rfl, rfl, rfl⟩
  · exact ⟨_, exec_eret_handler h hh, t.leaveTrap_sameRegisters, rfl, rfl, rfl, rfl, rfl, rfl, rfl, rfl⟩

end

section
/-!
SUPPORT. A swap-out lets the products of its thread complete first (R257), and with them every MMRT that the core's slots list as
waiting for a product no longer queued goes on. Where a list of slots names one slot twice it has a second thread there, which no read
of the slot finds, and which takes the slot when it goes on.
-/
namespace Sys2Proof.Machine

/-- The identity of the thread that a core's cache holds as context `n`. -/
def cachedUid (s : State) (core n : Nat) : Option Nat :=
  ((s.core core).ctxCache.find? fun e => decide (e.1 = n)).bind fun e => e.2.map (·.uid)

theorem cachedUid_putThread (s : State) (t : Thread) (core n : Nat) : cachedUid (s.putThread t) core n = cachedUid s core n := rfl

/-- A context that is cached is read from the cache (R256). -/
theorem savedContext_uid {s : State} {core n uid : Nat} {z : Thread} (hc : cachedUid s core n = some uid)
    (hz : savedContext s core n = some z) : z.uid = uid := by
  rw [cachedUid, Option.bind_eq_some_iff] at hc
  obtain ⟨e, he, hu⟩ := hc
  rw [savedContext, he] at hz
  simpa [show e.2 = some z from hz] using hu

/-- A privileged thread whose g1 and g2 name slot 3 and context 1. -/
def swapper : Thread := { Thread.start 1 with sv := true, g := ((List.replicate 32 0).set 1 3).set 2 1 }

/-- A thread that waits for the product of an MMRT in a region, where its rotation is deferred (R275). -/
def productWaiter : Thread :=
  { Thread.start 8 with
    park := some (.product ⟨false, 0, 0, 0⟩ 0), levels := [composedLevel (Thread.start 8) 512] }

/-- Core 0 with the swapper in slot 0, slot 3 listed twice, first with thread 7, and context 1, empty, in the cache. -/
def slotListedTwice : State :=
  { State.reset with slots := [(0, .busy swapper), (3, .busy (Thread.start 7)), (3, .busy productWaiter)] }.modCore 0 fun c =>
    { c with tcxCount := 8, tcxBase := 0x1000_0000, ctxCache := [(1, none)] }

theorem swapper_issues : Issues (.tcswap 1 2 0) slotListedTwice swapper where
  resident := rfl
  formed := rfl
  hinted := rfl
  notLast := rfl

theorem swapper_readable : Readable swapper [1, 2] [] where
  g := by decide
  v := by simp
  noPin := by decide
  gGood := by decide
  vGood := by simp

/-- The swap saves the thread that went on in the slot. -/
theorem swapper_saves_productWaiter (s1 : State) (h : exec (.tcswap 1 2 0) slotListedTwice = .next s1) :
    cachedUid s1 0 1 = some 8 := by
  have hnext : (match exec (.tcswap 1 2 0) slotListedTwice with
      | .next s => decide (cachedUid s 0 1 = some 8)
      | _ => false) = true := by decide +kernel
  rw [h] at hnext
  exact of_decide_eq_true hnext

end Sys2Proof.Machine

open Sys2Proof Sys2Proof.Machine

/-- Refutes O50, in its clause of a thread that is swapped out for an empty context. The clause ranges over every state and, unlike
RegionsComplete, does not exclude threads that wait for a product: in a state that lists the slot a second time, with such a thread,
that one is saved and not the thread which the slot holds. -/
theorem not_swapsAndInvalidationsComplete : ¬ Obligations.SwapsAndInvalidationsComplete := by
  unfold Obligations.SwapsAndInvalidationsComplete
  intro h
  obtain ⟨hswap, -⟩ := h slotListedTwice swapper 1 2 rfl
  obtain ⟨-, hout, -⟩ := hswap 1 3 rfl rfl swapper_issues swapper_readable rfl (by decide) rfl (by decide) (by decide)
    (by decide +kernel)
  obtain ⟨s1, hexec, -, z, hsaved, hregs, -⟩ :=
    hout (Thread.start 7) rfl rfl rfl rfl rfl rfl rfl rfl (by decide +kernel) (by decide +kernel) (by decide)
  obtain ⟨huid, -⟩ := hregs
  have hsaves : cachedUid s1 0 1 = some 8 := cachedUid_putThread s1 _ 0 1 ▸ swapper_saves_productWaiter _ hexec
  have h78 : 7 = 8 := huid.symm.trans (savedContext_uid hsaves hsaved)
  exact absurd h78 (by decide)

end
